-- ==== Sys2Proof/Word.lean ====
section
/-! DEFINITION. The word types of the Wilolo Sarhavi 712 (R3 to R5): bytes, 32-bit values and
instruction words, 64-bit values and addresses, and the mask over the 1,024 lanes a team may hold. -/

namespace Sys2Proof

/-- A byte. -/
abbrev Byte := BitVec 8

/-- A 32-bit value or a 32-bit instruction word (R4, R5). -/
abbrev Word := BitVec 32

/-- A 64-bit value held in a register pair, or a virtual address (R4, R245). -/
abbrev DWord := BitVec 64

/-- A set of lanes of one team: bit `l` is lane `l` (R15, R19, R140). -/
abbrev LaneMask := BitVec 1024

/-- A register field of an instruction word, 7 bits (R97). -/
abbrev Reg := BitVec 7

end Sys2Proof
end

