-- ==== Sys2Proof/Syntax.lean ====
section
/-! DEFINITION. The syntax of the 712: operand fields, modifiers, and `Instr`, whose constructors are the
rows of the opcode table: the instructions of the Rilgil set (R94 to R113), the clause header, and the
events of the agents that are not a team (95_what_each_step_holds.md). Register fields stay the 7-bit
fields of the words, since a field outside its kind is a trap of the instruction (R100), not a syntax
error; every sub-operation, modifier and type code is a constructor. -/

namespace Sys2Proof

/-- The guard field G: negate and predicate number, 7 meaning pt (R97). -/
structure Guard where
  neg : Bool
  p : BitVec 3
  deriving DecidableEq, Repr

/-- Two register fields: destination and one source. -/
structure OpsDA where
  d : Reg
  a : Reg
  deriving DecidableEq, Repr

/-- Destination, first source, second source and the kind of the second (R97): `bk` true is an s register. -/
structure Ops where
  d : Reg
  a : Reg
  b : Reg
  bk : Bool
  deriving DecidableEq, Repr

/-- The six scoreboard tags an instruction may allocate (R97, R102). -/
inductive Tag where
  | sb0 | sb1 | sb2 | sb3 | sb4 | sb5
  deriving DecidableEq, Repr

/-- Rounding modes (R108, R169). -/
inductive RM where
  | rne | rz | ru | rd
  deriving DecidableEq, Repr

/-- MODE of IADD and ISUB (R108, R118). -/
inductive AddMode where
  | wrap | ss | us
  deriving DecidableEq, Repr

/-- Conditions of ICMP (R120). -/
inductive ICond where
  | eq | ne | lt | le | gt | ge | ltu | leu | gtu | geu
  deriving DecidableEq, Repr

/-- Conditions of FCMP and DCMP (R187, R192). -/
inductive FCond where
  | eq | ne | lt | le | gt | ge | unord | ord
  deriving DecidableEq, Repr

/-- Conditions of SBCMP (R200). -/
inductive SCond where
  | eq | ne | lt | le | gt | ge
  deriving DecidableEq, Repr

/-- Integer types of R110, codes 8 to 17. -/
inductive IntTy where
  | int8 | uint8 | int16 | uint16 | int32 | uint32 | int64 | uint64 | int4 | uint4
  deriving DecidableEq, Repr

/-- Floating-point types of R110, codes 0 to 6. -/
inductive FTy where
  | fp32 | fp64 | fp16 | bf16 | f8a | f8b | f4
  deriving DecidableEq, Repr

/-- Element types of DP4 (R110). -/
inductive Dp4Ty where
  | int8 | uint8 | f8a | f8b
  deriving DecidableEq, Repr

/-- Modes of SHFL (R156). -/
inductive ShflMode where
  | idx | up | down | xor
  deriving DecidableEq, Repr

/-- Operations of GRED and GSCAN (R158). -/
inductive GredOp where
  | iadd | imin | imax | umin | umax | and | or | xor | fadd | fmin | fmax
  deriving DecidableEq, Repr

/-- SIZE of a load (R109). -/
inductive LdSize where
  | u8 | u16 | b32 | b64 | s8 | s16 | b128
  deriving DecidableEq, Repr

/-- SIZE of a store (R109): the signed codes are reserved for stores. -/
inductive StSize where
  | u8 | u16 | b32 | b64 | b128
  deriving DecidableEq, Repr

/-- ORD (R109). -/
inductive MemOrd where
  | plain | rlx | acq | rel | ar | sc
  deriving DecidableEq, Repr

/-- SCOPE (R109). -/
inductive Scope where
  | team | block | dev | sys
  deriving DecidableEq, Repr

/-- FAIL of CAS (R109, R257). -/
inductive FailOrd where
  | rlx | acq | sc
  deriving DecidableEq, Repr

/-- AOP of ATOM (R109, R256). -/
inductive AOp where
  | add | min | max | umin | umax | and | or | xor | exch | fadd
  deriving DecidableEq, Repr

/-- Element formats of the matrix unit (R111). -/
inductive MFmt where
  | bf16 | fp16 | f8a | f8b | int8 | f4 | int4
  deriving DecidableEq, Repr

/-- N of MMAS (R111, R281). -/
inductive SpN where
  | n6 | n8 | n12
  deriving DecidableEq, Repr

/-- OFMT of AST (R111). -/
inductive OFmt where
  | fp32 | bf16 | fp16 | f8a | f8b | int32 | int8
  deriving DecidableEq, Repr

/-- ACT of AST (R111). -/
inductive Act where
  | none | relu | clamp | reluClamp
  deriving DecidableEq, Repr

/-- Formats of QTILE, codes 2 to 6 (R111, R276). -/
inductive QFmt where
  | f8a | f8b | int8 | f4 | int4
  deriving DecidableEq, Repr

/-- Block lengths of QTILE and of a format-block descriptor (R111, R286). -/
inductive BlkLen where
  | b8 | b16 | b32 | b64
  deriving DecidableEq, Repr

/-- Counter classes (R298). -/
inductive CCls where
  | cpy | mtx | msg
  deriving DecidableEq, Repr

/-- What a barrier arrival waits for: ALL, or a count, held as count − 1 (R151, R152). -/
inductive BarWant where
  | all
  | count (nm1 : BitVec 5)
  deriving DecidableEq, Repr

/-- The cycle count of BAL.BURN: an immediate or an s register (R154). -/
inductive BurnLen where
  | imm (n : BitVec 14)
  | reg (b : Reg)
  deriving DecidableEq, Repr

/-- The system registers that have an index in R105; every other index is reserved. -/
inductive SysReg where
  | lane | word | team | teams | teamw | groupw | blockx | blocky | blockz
  | gridx | gridy | gridz | core | pier | course | origin | srcid
  | msm | balctl | fpctl | fpstat | sbthr
  | trapn | trapcause | trapdata | trapmask | trappcLo | trappcHi | cpyerr
  | clockLo | clockHi | marks | quant | replays | rndkeyLo | rndkeyHi | part | asid
  deriving DecidableEq, Repr

/-- Why a leaf is asked to release a core (R77, R82, R83). -/
inductive PreemptReason where
  | class0 | lowest | slice
  deriving DecidableEq, Repr

/-- What a table walk is for (R248). -/
inductive AccKind where
  | load | store | atomic | fetch
  deriving DecidableEq, Repr

/-- A firmware image as the boot ROM judges it (R343): its security version and whether its two signatures verify. -/
structure FwImage where
  version : Nat
  ecdsaOk : Bool
  lmsOk : Bool
  deriving DecidableEq, Repr

/-- What a request over Ashlar does (R332): a read, a write, or an atomic of 4 or 8 bytes with its operands (R255). -/
inductive AshOp where
  | read
  | write (v : Nat)
  | atom (op : AOp) (b : Nat)
  | cas (b c : Nat)
  deriving DecidableEq, Repr

/-- A request that arrives over Ashlar (R332): an access of up to 8 bytes at a physical address. -/
structure AshReq where
  srcDev : Nat
  srcPart : Nat
  dstPart : Nat
  pa : Nat
  bytes : Nat
  op : AshOp
  deriving DecidableEq, Repr

/-- The kinds of operand fields (R100). -/
inductive OpKind where
  | v | s | p | tile
  deriving DecidableEq, Repr

/-- A word of a team's storage in its core: a register of a kind in one lane, an s register at lane 0, or a tile by name. -/
structure CoreWord where
  kind : OpKind
  r : Nat
  lane : Nat
  deriving DecidableEq, Repr

/-- Units that the census gives health of (R338). -/
inductive UnitName where
  | pier (n : Nat)
  | core (c : Nat)
  | slice (k : Nat)
  | channel (c : Nat)
  deriving DecidableEq, Repr

/-- Where the error correction finds something (R240): in a unit, of which a slice is scrubbed in full; in a word of a team's
registers or tiles; in a byte of a block's scratchpad. -/
inductive EccPlace where
  | unit (u : UnitName)
  | word (uid : Nat) (w : CoreWord)
  | spad (bid off : Nat)
  deriving DecidableEq, Repr

/-- Where a host's access to the device goes (R326): an offset of a function's memory aperture, or an address on the bus, which a
base-address register of the function places in one of its windows (log 117). -/
inductive HostAddr where
  | aperture (off : Nat)
  | bus (a : Nat)
  deriving DecidableEq, Repr

/-- A register of records dropped that the host reads (R6, R327): FLTLOST of a function, or PRQLOST. -/
structure LostReg where
  f : Nat
  prq : Bool
  deriving DecidableEq, Repr

/-- A replay on a port (R324): whether the flit failed its check again. -/
structure PortReplay where
  port : Nat
  failed : Bool
  deriving DecidableEq, Repr

/-- A transaction of a function under a key (R325). -/
structure KeyUse where
  f : Nat
  key : Nat
  deriving DecidableEq, Repr

/-- An SPDM 1.2 request on function 0's session (R342), but for a key exchange. -/
inductive SpdmReq where
  | version
  | capabilities
  | algorithms
  | digests
  | certificate (slot : Nat)
  | challenge (slot nonce : Nat)
  | measurements (nonce : Nat)
  deriving DecidableEq, Repr

/-- The instructions and events of the 712: one constructor for each row of the opcode table. `dly` is DLY
(R97), `g` the guard, `o` the operands, `u` the uniform form (R101), `tag` the tag allocated (R102). Events
name the unit they happen at: `uid` a team, `bid` a block, `f q` a function and its queue. -/
inductive Instr where
  -- integer, logic and shift (R118)
  | nopShort (dly : BitVec 3)
  | nopLong (dly : BitVec 3) (g : Guard)
  | iaddShort (dly : BitVec 3) (o : Ops)
  | iaddLong (dly : BitVec 3) (g : Guard) (o : Ops) (mode : AddMode) (u : Bool)
  | isubShort (dly : BitVec 3) (o : Ops)
  | isubLong (dly : BitVec 3) (g : Guard) (o : Ops) (mode : AddMode) (u : Bool)
  | imulShort (dly : BitVec 3) (o : Ops)
  | imulLong (dly : BitVec 3) (g : Guard) (o : Ops) (u : Bool)
  | imad (dly : BitVec 3) (g : Guard) (o : Ops) (c : Reg) (u : Bool)
  | imulh (dly : BitVec 3) (g : Guard) (o : Ops) (uns : Bool) (u : Bool)
  | iminShort (dly : BitVec 3) (o : Ops)
  | iminLong (dly : BitVec 3) (g : Guard) (o : Ops) (uns : Bool) (u : Bool)
  | imaxShort (dly : BitVec 3) (o : Ops)
  | imaxLong (dly : BitVec 3) (g : Guard) (o : Ops) (uns : Bool) (u : Bool)
  | andShort (dly : BitVec 3) (o : Ops)
  | andLong (dly : BitVec 3) (g : Guard) (o : Ops) (u : Bool)
  | orShort (dly : BitVec 3) (o : Ops)
  | orLong (dly : BitVec 3) (g : Guard) (o : Ops) (u : Bool)
  | xorShort (dly : BitVec 3) (o : Ops)
  | xorLong (dly : BitVec 3) (g : Guard) (o : Ops) (u : Bool)
  | shlShort (dly : BitVec 3) (o : Ops)
  | shlLong (dly : BitVec 3) (g : Guard) (o : Ops) (u : Bool)
  | shrShort (dly : BitVec 3) (o : Ops)
  | shrLong (dly : BitVec 3) (g : Guard) (o : Ops) (u : Bool)
  | sarShort (dly : BitVec 3) (o : Ops)
  | sarLong (dly : BitVec 3) (g : Guard) (o : Ops) (u : Bool)
  -- bit operations (R119)
  | popc (dly : BitVec 3) (g : Guard) (o : OpsDA) (u : Bool)
  | clz (dly : BitVec 3) (g : Guard) (o : OpsDA) (u : Bool)
  | brev (dly : BitVec 3) (g : Guard) (o : OpsDA) (u : Bool)
  | bfx (dly : BitVec 3) (g : Guard) (o : Ops) (sgn : Bool) (u : Bool)
  | bfi (dly : BitVec 3) (g : Guard) (o : Ops) (c : Reg) (u : Bool)
  | rot (dly : BitVec 3) (g : Guard) (o : Ops) (u : Bool)
  | notB (dly : BitVec 3) (g : Guard) (o : OpsDA) (u : Bool)
  | iabs (dly : BitVec 3) (g : Guard) (o : OpsDA) (u : Bool)
  | ineg (dly : BitVec 3) (g : Guard) (o : OpsDA) (u : Bool)
  -- comparison, moves, selection (R120 to R124)
  | icmp (dly : BitVec 3) (g : Guard) (o : Ops) (cc : ICond)
  | movShort (dly : BitVec 3) (d : Reg) (b : Reg) (bk : Bool)
  | movLong (dly : BitVec 3) (g : Guard) (d : Reg) (b : Reg) (bk : Bool) (u : Bool)
  | li (dly : BitVec 3) (g : Guard) (d : Reg) (u : Bool) (imm : Word)
  | iaddi (dly : BitVec 3) (g : Guard) (o : OpsDA) (u : Bool) (imm : Word)
  | sel (dly : BitVec 3) (g : Guard) (o : Ops) (cp : BitVec 3) (cneg : Bool)
  -- addresses and 64-bit values (R125, R126)
  | lea (dly : BitVec 3) (g : Guard) (o : Ops) (sh : BitVec 3) (sx : Bool) (u : Bool)
  | iaddW (dly : BitVec 3) (g : Guard) (o : Ops) (u : Bool)
  | isubW (dly : BitVec 3) (g : Guard) (o : Ops) (u : Bool)
  | shlW (dly : BitVec 3) (g : Guard) (o : Ops) (u : Bool)
  | shrW (dly : BitVec 3) (g : Guard) (o : Ops) (u : Bool)
  | imulWl (dly : BitVec 3) (g : Guard) (o : Ops) (uns : Bool) (u : Bool)
  -- predicates (R121), conversion (R127), random numbers (R128)
  | pand (dly : BitVec 3) (g : Guard) (d a b : Reg) (na nb : Bool)
  | por (dly : BitVec 3) (g : Guard) (d a b : Reg) (na nb : Bool)
  | pxor (dly : BitVec 3) (g : Guard) (d a b : Reg) (na nb : Bool)
  | pnot (dly : BitVec 3) (g : Guard) (d a : Reg) (na : Bool)
  | pget (dly : BitVec 3) (g : Guard) (d : Reg)
  | pset (dly : BitVec 3) (g : Guard) (a : Reg)
  | icvt (dly : BitVec 3) (g : Guard) (o : OpsDA) (src dst : IntTy) (sat : Bool) (u : Bool)
  | rnd (dly : BitVec 3) (g : Guard) (d : Reg) (key : Option Reg)
  -- FP32 arithmetic (R185 to R189)
  | faddShort (dly : BitVec 3) (o : Ops)
  | faddLong (dly : BitVec 3) (g : Guard) (o : Ops) (rm : RM) (ftz : Bool)
  | fsubShort (dly : BitVec 3) (o : Ops)
  | fsubLong (dly : BitVec 3) (g : Guard) (o : Ops) (rm : RM) (ftz : Bool)
  | fmulShort (dly : BitVec 3) (o : Ops)
  | fmulLong (dly : BitVec 3) (g : Guard) (o : Ops) (rm : RM) (ftz : Bool)
  | ffma (dly : BitVec 3) (g : Guard) (o : Ops) (c : Reg) (rm : RM) (ftz : Bool)
  | fmin (dly : BitVec 3) (g : Guard) (o : Ops) (ftz : Bool)
  | fmax (dly : BitVec 3) (g : Guard) (o : Ops) (ftz : Bool)
  | fcmp (dly : BitVec 3) (g : Guard) (o : Ops) (cc : FCond)
  | fclass (dly : BitVec 3) (g : Guard) (o : OpsDA) (set : BitVec 10)
  | frnd (dly : BitVec 3) (g : Guard) (o : OpsDA) (rm : RM) (ftz : Bool)
  | ffrac (dly : BitVec 3) (g : Guard) (o : OpsDA) (rm : RM) (ftz : Bool)
  -- special functions (R190, R191)
  | frcp (dly : BitVec 3) (g : Guard) (tag : Tag) (o : OpsDA) (ftz : Bool)
  | frsq (dly : BitVec 3) (g : Guard) (tag : Tag) (o : OpsDA) (ftz : Bool)
  | fsqrt (dly : BitVec 3) (g : Guard) (tag : Tag) (o : OpsDA) (ftz : Bool)
  | fexp2 (dly : BitVec 3) (g : Guard) (tag : Tag) (o : OpsDA) (ftz : Bool)
  | flog2 (dly : BitVec 3) (g : Guard) (tag : Tag) (o : OpsDA) (ftz : Bool)
  | fsin (dly : BitVec 3) (g : Guard) (tag : Tag) (o : OpsDA) (ftz : Bool)
  | fcos (dly : BitVec 3) (g : Guard) (tag : Tag) (o : OpsDA) (ftz : Bool)
  -- FP64 (R192)
  | dadd (dly : BitVec 3) (g : Guard) (o : Ops) (rm : RM) (ftz : Bool)
  | dmul (dly : BitVec 3) (g : Guard) (o : Ops) (rm : RM) (ftz : Bool)
  | dfma (dly : BitVec 3) (g : Guard) (o : Ops) (c : Reg) (rm : RM) (ftz : Bool)
  | dmin (dly : BitVec 3) (g : Guard) (o : Ops) (ftz : Bool)
  | dmax (dly : BitVec 3) (g : Guard) (o : Ops) (ftz : Bool)
  | dcmp (dly : BitVec 3) (g : Guard) (o : Ops) (cc : FCond) (ftz : Bool)
  -- packed 16-bit arithmetic (R193); `bf` true is BF16
  | hadd2 (dly : BitVec 3) (g : Guard) (o : Ops) (bf : Bool)
  | hmul2 (dly : BitVec 3) (g : Guard) (o : Ops) (bf : Bool)
  | hfma2 (dly : BitVec 3) (g : Guard) (o : Ops) (c : Reg) (bf : Bool)
  | hmin2 (dly : BitVec 3) (g : Guard) (o : Ops) (bf : Bool)
  | hmax2 (dly : BitVec 3) (g : Guard) (o : Ops) (bf : Bool)
  -- conversions (R194, R195)
  | f2i (dly : BitVec 3) (g : Guard) (o : OpsDA) (rm : RM) (src : FTy) (dst : IntTy)
  | i2f (dly : BitVec 3) (g : Guard) (o : OpsDA) (rm : RM) (src : IntTy) (dst : FTy)
  | f2f (dly : BitVec 3) (g : Guard) (o : OpsDA) (rm : RM) (src dst : FTy)
  | pack (dly : BitVec 3) (g : Guard) (o : OpsDA) (c : Reg) (dst : FTy) (slot : BitVec 3)
  | unpk (dly : BitVec 3) (g : Guard) (o : OpsDA) (src : FTy) (slot : BitVec 3)
  -- dot products (R196)
  | dp2 (dly : BitVec 3) (g : Guard) (o : Ops) (c : Reg) (bf : Bool)
  | dp4 (dly : BitVec 3) (g : Guard) (o : Ops) (c : Reg) (ty : Dp4Ty)
  | dp8 (dly : BitVec 3) (g : Guard) (o : Ops) (c : Reg) (f4 : Bool)
  -- sound-bit counts (R198 to R200)
  | getsb (dly : BitVec 3) (g : Guard) (o : OpsDA)
  | setsb (dly : BitVec 3) (g : Guard) (d : Reg) (b : Reg) (bk : Bool)
  | sbcmp (dly : BitVec 3) (g : Guard) (o : Ops) (cc : SCond)
  -- cross-lane work (R155 to R160)
  | shfl (dly : BitVec 3) (g : Guard) (tag : Tag) (o : Ops) (m : ShflMode)
  | voteAll (dly : BitVec 3) (g : Guard) (tag : Tag) (o : OpsDA)
  | voteAny (dly : BitVec 3) (g : Guard) (tag : Tag) (o : OpsDA)
  | voteBallot (dly : BitVec 3) (g : Guard) (tag : Tag) (o : OpsDA)
  | voteEq (dly : BitVec 3) (g : Guard) (tag : Tag) (o : OpsDA)
  | gred (dly : BitVec 3) (g : Guard) (tag : Tag) (o : OpsDA) (op : GredOp) (rm : RM)
  | gscan (dly : BitVec 3) (g : Guard) (tag : Tag) (o : OpsDA) (op : GredOp) (excl : Bool) (rm : RM)
  | reorder (dly : BitVec 3) (a b : Reg)
  -- memory (R252 to R258)
  | ld (dly : BitVec 3) (g : Guard) (tag : Tag) (o : OpsDA) (size : LdSize) (ord : MemOrd) (scope : Scope) (off : BitVec 10)
  | st (dly : BitVec 3) (g : Guard) (tag : Tag) (a b : Reg) (size : StSize) (ord : MemOrd) (scope : Scope) (off : BitVec 10)
  | lds (dly : BitVec 3) (g : Guard) (tag : Tag) (o : OpsDA) (size : LdSize) (off : BitVec 15)
  | sts (dly : BitVec 3) (g : Guard) (tag : Tag) (a b : Reg) (size : StSize) (off : BitVec 15)
  | atom (dly : BitVec 3) (g : Guard) (tag : Tag) (d a b : Reg) (op : AOp) (w64 : Bool) (ord : MemOrd) (scope : Scope) (off : BitVec 10)
  | cas (dly : BitVec 3) (g : Guard) (tag : Tag) (d a b c : Reg) (w64 : Bool) (fail : FailOrd) (ord : MemOrd) (scope : Scope) (off : BitVec 10)
  | atoms (dly : BitVec 3) (g : Guard) (tag : Tag) (d a b : Reg) (op : Option AOp) (w64 : Bool) (ord : MemOrd) (off : BitVec 15)
  | fence (dly : BitVec 3) (ord : MemOrd) (scope : Scope)
  -- matrix (R282, R291, R276); `desc` is the s register of the format-block descriptor when SCALED
  | mma (dly : BitVec 3) (d a b : Reg) (desc : Option (BitVec 6)) (pm1 : BitVec 3) (af bf : MFmt) (new : Bool)
  | mmas (dly : BitVec 3) (d a b : Reg) (desc : Option (BitVec 6)) (pm1 : BitVec 3) (af bf : MFmt) (new : Bool) (n : SpN) (mreg : BitVec 6)
  | azero (dly : BitVec 3) (d : Reg) (int : Bool)
  | ald (dly : BitVec 3) (tag : Tag) (d a b : Reg) (int : Bool)
  | ast (dly : BitVec 3) (tag : Tag) (a b c : Reg) (ofmt : OFmt) (act : Act) (scale bias : Bool)
  | amov (dly : BitVec 3) (tag : Tag) (d c : Reg)
  | qtile (dly : BitVec 3) (tag : Tag) (a b c : Reg) (fmt : QFmt) (len : BlkLen)
  -- copies, counters, marks, messages (R298 to R320)
  | copy (dly : BitVec 3) (a b c : Reg) (s2g : Bool) (rec : Option (BitVec 6))
  | waitc (dly : BitVec 3) (cls : CCls) (n : BitVec 6)
  | yieldC (dly : BitVec 3) (cls : CCls) (n : BitVec 6) (off : BitVec 18)
  | batch (dly : BitVec 3)
  | mark (dly : BitVec 3) (n : BitVec 16)
  | markW (dly : BitVec 3) (n : BitVec 16)
  | send (dly : BitVec 3) (g : Guard) (a b : Reg) (h : BitVec 8) (w : BitVec 4)
  -- control flow (R132 to R137)
  | bra (dly : BitVec 3) (g : Guard) (off : BitVec 18)
  | jmp (dly : BitVec 3) (a : Reg)
  | call (dly : BitVec 3) (d : Reg) (off : BitVec 18)
  | ret (dly : BitVec 3) (a : Reg)
  | mjoin (dly : BitVec 3) (off : BitVec 18)
  | join (dly : BitVec 3)
  | exit (dly : BitVec 3) (g : Guard)
  -- barriers, balance, traps, system registers (R151 to R154, R212 to R215)
  | barArr (dly : BitVec 3) (b : BitVec 4) (want : BarWant)
  | barWait (dly : BitVec 3) (b : BitVec 4)
  | barSync (dly : BitVec 3) (b : BitVec 4) (want : BarWant)
  | balBurn (dly : BitVec 3) (lvl : BitVec 4) (len : BurnLen)
  | balShunt (dly : BitVec 3)
  | balHold (dly : BitVec 3) (lvl : BitVec 4)
  | trap (dly : BitVec 3) (g : Guard) (code : BitVec 8)
  | rttRes (dly : BitVec 3)
  | rttSkip (dly : BitVec 3)
  | rttKill (dly : BitVec 3)
  | getsr (dly : BitVec 3) (g : Guard) (d : Reg) (k : Bool) (r : SysReg)
  | setsr (dly : BitVec 3) (b : Reg) (bk : Bool) (r : SysReg)
  | qend (dly : BitVec 3)
  -- a clause header word (R94 to R96)
  | clauseHeader (w : Word)
  -- issue, results, prediction (R30, R92, R103, R146, R238)
  | issueCycle (core quad : Nat)
  | greedyLimit (core quad : Nat)
  | starvationOverride (core quad : Nat)
  | resultWriteback (uid : Nat)
  | taggedResultWrite (uid : Nat) (tag : Tag)
  | scratchpadAccessComplete (uid : Nat)
  | maskPredictionResolve (uid : Nat)
  | blockEnd (bid : Nat)
  | trapTake (uid : Nat)
  -- windows and balance (R44 to R53)
  | windowEnd
  | t3Trip (pier joint : Nat) (mismatch : Int) (voltageOnly : Bool)
  | clampEnd (pier : Nat)
  | boostEnd (pier joint : Nat)
  | coolDownEnd (pier joint : Nat)
  | burnExpire (uid : Nat)
  -- queues and commands (R64 to R88)
  | qtailWrite (f q : Nat) (v : Word)
  | qcheadWrite (f q : Nat) (v : Word)
  | qctlEnable (f q : Nat)
  | qctlStop (f q : Nat)
  | qctlReset (f q : Nat)
  | queueResetComplete (f q : Nat)
  | cmdNop (f q : Nat)
  | cmdLaunch (f q : Nat)
  | cmdWait (f q : Nat)
  | cmdSignal (f q : Nat)
  | launchComplete (lid : Nat)
  | coalescingTimer (f q : Nat)
  | idleFlush (f q : Nat)
  -- the scheduler tree (R77 to R83)
  | dispatch (part : Nat)
  | restore (bid pier : Nat)
  | preempt (core : Nat) (why : PreemptReason)
  | cancel (pier lid : Nat)
  | done (pier lid : Nat)
  | killed (bid : Nat)
  | saved (bid : Nat)
  | blockPlace (pier part : Nat)
  | stealRequest (pier part : Nat)
  | stealAnswer (pier part : Nat)
  | stealBackoffEnd (pier part : Nat)
  | lowestClassRestore (part : Nat)
  -- messages (R86)
  | messageAccept (idx : Nat)
  | handlerSpawn (core : Nat)
  -- slices, save and restore (R221 to R229, R335)
  | sliceEnd (part : Nat)
  | blockSave (bid : Nat)
  | blockRestore (pier part : Nat)
  | watchdog (bid : Nat)
  | energyLimit (part : Nat)
  -- the ordering machine (R264 to R268) and translation (R247 to R250)
  | storeSend (uid seq : Nat)
  | loadSend (uid seq : Nat)
  | requestPerform (uid seq : Nat)
  | storeAck (uid seq : Nat)
  | loadResponse (uid seq : Nat)
  | ackForward (uid seq : Nat)
  | tableWalk (asid : Nat) (va : DWord) (kind : AccKind)
  | prespRetry (f : Nat) (token : Nat)
  | prespFail (f : Nat) (token : Nat)
  | inval (f : Nat) (va : DWord) (scope : BitVec 2) (asid : Nat)
  | invalComplete (f : Nat)
  | asidctlWrite (f : Nat) (v : Word)
  -- engines (R289, R305, R316) and D-mode (R270)
  | copyBeat (bid : Nat)
  | copyComplete (bid : Nat)
  | batchComplete (uid : Nat)
  | setoutEntryStart (bid idx : Nat)
  | setoutEntryComplete (bid idx : Nat)
  | dmodeCommit (lid : Nat)
  -- partitions and management (R326 to R346)
  | pcmdEnable (p : Nat)
  | pcmdDrain (p : Nat)
  | pcmdReset (p : Nat)
  | pcmdRelease (p : Nat)
  | partitionDrained (p : Nat)
  | perrRead (p : Nat)
  | fltlostRead (r : LostReg)
  | registerWrite (pa : Nat) (bytes : Nat) (v : Nat)
  | devnoWrite (v : Nat)
  | ckctlGo (p : Nat) (toDev : Bool)
  | checkpointDone
  | hostApertureAccess (f : Nat) (off : HostAddr) (bytes : Nat) (wr : Option Nat)
  | censusRefresh
  -- links, interfaces, attestation, firmware, rows, scrubbing (R324 to R345)
  | flitReplay (ash : Bool) (r : PortReplay)
  | portRetrain (ash : Bool) (port : Nat)
  | portDown (ash : Bool) (port : Nat)
  | portUp (ash : Bool) (port lanes : Nat)
  | authenticationFailure (r : KeyUse)
  | ashlarRequestArrival (port : Nat) (r : AshReq)
  | lockInterfaceRequest (f : Nat)
  | startInterfaceRequest (f : Nat)
  | stopInterfaceRequest (f : Nat)
  | getDeviceInterfaceReport (f : Nat)
  | spdmMeasurementRequest (r : SpdmReq)
  | firmwareLoad (img : FwImage)
  | rowActivationAlert (ch bank row : Nat)
  | bankHoldEnd (ch bank : Nat)
  | rowRefresh (ch bank row : Nat)
  | scrub (place : EccPlace) (corrected uncorrectable : Nat)
  | deviceReset (bad : List UnitName)
  | keyExchange (f : Nat) (keys : Nat × Nat)
  deriving DecidableEq, Repr

end Sys2Proof
end

