-- ==== Sys2Proof/Decode.lean ====
section
/-! DEFINITION. Decoding of instruction words (R97 to R113) and clause headers (R94, R96), and the encoder.
A word that breaks R113's cause 0x01 rows is rejected with the name of the row; a register outside its kind
(cause 0x03) is decoded, and trapped by the instruction. -/

namespace Sys2Proof

/-- Why words are not an instruction: the cause 0x01 rows of R113, and too few bytes. -/
inductive DecodeError where
  | truncated
  | reservedOpcode
  | noShortForm
  | reservedCode
  | badTag
  | mustBeZero
  | guardNotAllowed
  deriving DecidableEq, Repr

/-! ### Codes of the modifiers (R108 to R112) -/

def AddMode.code : AddMode → BitVec 2
  | .wrap => 0 | .ss => 1 | .us => 2
def AddMode.ofCode (n : BitVec 2) : Option AddMode :=
  match n.toNat with
  | 0 => some .wrap | 1 => some .ss | 2 => some .us | _ => none

def RM.code : RM → BitVec 2
  | .rne => 0 | .rz => 1 | .ru => 2 | .rd => 3
def RM.ofCode (n : BitVec 2) : RM :=
  match n.toNat with
  | 0 => .rne | 1 => .rz | 2 => .ru | _ => .rd

def Tag.code : Tag → BitVec 3
  | .sb0 => 1 | .sb1 => 2 | .sb2 => 3 | .sb3 => 4 | .sb4 => 5 | .sb5 => 6
def Tag.ofCode (n : BitVec 3) : Option Tag :=
  match n.toNat with
  | 1 => some .sb0 | 2 => some .sb1 | 3 => some .sb2 | 4 => some .sb3 | 5 => some .sb4 | 6 => some .sb5
  | _ => none

def ICond.code : ICond → BitVec 4
  | .eq => 0 | .ne => 1 | .lt => 2 | .le => 3 | .gt => 4 | .ge => 5
  | .ltu => 6 | .leu => 7 | .gtu => 8 | .geu => 9
def ICond.ofCode (n : BitVec 4) : Option ICond :=
  match n.toNat with
  | 0 => some .eq | 1 => some .ne | 2 => some .lt | 3 => some .le | 4 => some .gt | 5 => some .ge
  | 6 => some .ltu | 7 => some .leu | 8 => some .gtu | 9 => some .geu
  | _ => none

def FCond.code : FCond → BitVec 4
  | .eq => 0 | .ne => 1 | .lt => 2 | .le => 3 | .gt => 4 | .ge => 5 | .unord => 6 | .ord => 7
def FCond.ofCode (n : BitVec 4) : Option FCond :=
  match n.toNat with
  | 0 => some .eq | 1 => some .ne | 2 => some .lt | 3 => some .le | 4 => some .gt | 5 => some .ge
  | 6 => some .unord | 7 => some .ord
  | _ => none

def SCond.code : SCond → BitVec 4
  | .eq => 0 | .ne => 1 | .lt => 2 | .le => 3 | .gt => 4 | .ge => 5
def SCond.ofCode (n : BitVec 4) : Option SCond :=
  match n.toNat with
  | 0 => some .eq | 1 => some .ne | 2 => some .lt | 3 => some .le | 4 => some .gt | 5 => some .ge
  | _ => none

def IntTy.code : IntTy → BitVec 5
  | .int8 => 8 | .uint8 => 9 | .int16 => 10 | .uint16 => 11 | .int32 => 12 | .uint32 => 13
  | .int64 => 14 | .uint64 => 15 | .int4 => 16 | .uint4 => 17
def IntTy.ofCode (n : BitVec 5) : Option IntTy :=
  match n.toNat with
  | 8 => some .int8 | 9 => some .uint8 | 10 => some .int16 | 11 => some .uint16
  | 12 => some .int32 | 13 => some .uint32 | 14 => some .int64 | 15 => some .uint64
  | 16 => some .int4 | 17 => some .uint4
  | _ => none

def FTy.code : FTy → BitVec 5
  | .fp32 => 0 | .fp64 => 1 | .fp16 => 2 | .bf16 => 3 | .f8a => 4 | .f8b => 5 | .f4 => 6
def FTy.ofCode (n : BitVec 5) : Option FTy :=
  match n.toNat with
  | 0 => some .fp32 | 1 => some .fp64 | 2 => some .fp16 | 3 => some .bf16
  | 4 => some .f8a | 5 => some .f8b | 6 => some .f4
  | _ => none

/-- FP32 and FP64 are the wide formats; the others are the narrow ones of CVT (R194). -/
def FTy.wide : FTy → Bool
  | .fp32 | .fp64 => true
  | _ => false

/-- Elements of a narrow format in a 32-bit register: 32 / w (R110, R194). -/
def FTy.slots : FTy → Nat
  | .fp32 => 1 | .fp64 => 0 | .fp16 | .bf16 => 2 | .f8a | .f8b => 4 | .f4 => 8

def Dp4Ty.code : Dp4Ty → BitVec 3
  | .int8 => 2 | .uint8 => 3 | .f8a => 4 | .f8b => 5
def Dp4Ty.ofCode (n : BitVec 3) : Option Dp4Ty :=
  match n.toNat with
  | 2 => some .int8 | 3 => some .uint8 | 4 => some .f8a | 5 => some .f8b
  | _ => none

def ShflMode.code : ShflMode → BitVec 2
  | .idx => 0 | .up => 1 | .down => 2 | .xor => 3
def ShflMode.ofCode (n : BitVec 2) : ShflMode :=
  match n.toNat with
  | 0 => .idx | 1 => .up | 2 => .down | _ => .xor

def GredOp.code : GredOp → BitVec 4
  | .iadd => 0 | .imin => 1 | .imax => 2 | .umin => 3 | .umax => 4 | .and => 5 | .or => 6 | .xor => 7
  | .fadd => 8 | .fmin => 9 | .fmax => 10
def GredOp.ofCode (n : BitVec 4) : Option GredOp :=
  match n.toNat with
  | 0 => some .iadd | 1 => some .imin | 2 => some .imax | 3 => some .umin | 4 => some .umax
  | 5 => some .and | 6 => some .or | 7 => some .xor | 8 => some .fadd | 9 => some .fmin | 10 => some .fmax
  | _ => none

def LdSize.code : LdSize → BitVec 3
  | .u8 => 0 | .u16 => 1 | .b32 => 2 | .b64 => 3 | .s8 => 4 | .s16 => 5 | .b128 => 6
def LdSize.ofCode (n : BitVec 3) : Option LdSize :=
  match n.toNat with
  | 0 => some .u8 | 1 => some .u16 | 2 => some .b32 | 3 => some .b64 | 4 => some .s8 | 5 => some .s16
  | 6 => some .b128
  | _ => none

def StSize.code : StSize → BitVec 3
  | .u8 => 0 | .u16 => 1 | .b32 => 2 | .b64 => 3 | .b128 => 6
def StSize.ofCode (n : BitVec 3) : Option StSize :=
  match n.toNat with
  | 0 => some .u8 | 1 => some .u16 | 2 => some .b32 | 3 => some .b64 | 6 => some .b128
  | _ => none

def MemOrd.code : MemOrd → BitVec 3
  | .plain => 0 | .rlx => 1 | .acq => 2 | .rel => 3 | .ar => 4 | .sc => 5
def MemOrd.ofCode (n : BitVec 3) : Option MemOrd :=
  match n.toNat with
  | 0 => some .plain | 1 => some .rlx | 2 => some .acq | 3 => some .rel | 4 => some .ar | 5 => some .sc
  | _ => none

def Scope.code : Scope → BitVec 2
  | .team => 0 | .block => 1 | .dev => 2 | .sys => 3
def Scope.ofCode (n : BitVec 2) : Scope :=
  match n.toNat with
  | 0 => .team | 1 => .block | 2 => .dev | _ => .sys

def FailOrd.code : FailOrd → BitVec 2
  | .rlx => 0 | .acq => 1 | .sc => 2
def FailOrd.ofCode (n : BitVec 2) : Option FailOrd :=
  match n.toNat with
  | 0 => some .rlx | 1 => some .acq | 2 => some .sc | _ => none

def AOp.code : AOp → BitVec 4
  | .add => 0 | .min => 1 | .max => 2 | .umin => 3 | .umax => 4 | .and => 5 | .or => 6 | .xor => 7
  | .exch => 8 | .fadd => 9
def AOp.ofCode (n : BitVec 4) : Option AOp :=
  match n.toNat with
  | 0 => some .add | 1 => some .min | 2 => some .max | 3 => some .umin | 4 => some .umax
  | 5 => some .and | 6 => some .or | 7 => some .xor | 8 => some .exch | 9 => some .fadd
  | _ => none

/-- AOP of ATOMS, where 15 is CAS (R109): `none` is CAS. -/
def aopsCode : Option AOp → BitVec 4
  | some o => o.code
  | none => 15
def aopsOfCode (n : BitVec 4) : Option (Option AOp) :=
  if n = 15 then some none else (AOp.ofCode n).map some

def MFmt.code : MFmt → BitVec 3
  | .bf16 => 0 | .fp16 => 1 | .f8a => 2 | .f8b => 3 | .int8 => 4 | .f4 => 5 | .int4 => 6
def MFmt.ofCode (n : BitVec 3) : Option MFmt :=
  match n.toNat with
  | 0 => some .bf16 | 1 => some .fp16 | 2 => some .f8a | 3 => some .f8b | 4 => some .int8
  | 5 => some .f4 | 6 => some .int4
  | _ => none

def SpN.code : SpN → BitVec 2
  | .n6 => 0 | .n8 => 1 | .n12 => 2
def SpN.ofCode (n : BitVec 2) : Option SpN :=
  match n.toNat with
  | 0 => some .n6 | 1 => some .n8 | 2 => some .n12 | _ => none

def OFmt.code : OFmt → BitVec 3
  | .fp32 => 0 | .bf16 => 1 | .fp16 => 2 | .f8a => 3 | .f8b => 4 | .int32 => 5 | .int8 => 6
def OFmt.ofCode (n : BitVec 3) : Option OFmt :=
  match n.toNat with
  | 0 => some .fp32 | 1 => some .bf16 | 2 => some .fp16 | 3 => some .f8a | 4 => some .f8b
  | 5 => some .int32 | 6 => some .int8
  | _ => none

def Act.code : Act → BitVec 2
  | .none => 0 | .relu => 1 | .clamp => 2 | .reluClamp => 3
def Act.ofCode (n : BitVec 2) : Act :=
  match n.toNat with
  | 0 => .none | 1 => .relu | 2 => .clamp | _ => .reluClamp

def QFmt.code : QFmt → BitVec 3
  | .f8a => 2 | .f8b => 3 | .int8 => 4 | .f4 => 5 | .int4 => 6
def QFmt.ofCode (n : BitVec 3) : Option QFmt :=
  match n.toNat with
  | 2 => some .f8a | 3 => some .f8b | 4 => some .int8 | 5 => some .f4 | 6 => some .int4
  | _ => none

def BlkLen.code : BlkLen → BitVec 2
  | .b8 => 0 | .b16 => 1 | .b32 => 2 | .b64 => 3
def BlkLen.ofCode (n : BitVec 2) : BlkLen :=
  match n.toNat with
  | 0 => .b8 | 1 => .b16 | 2 => .b32 | _ => .b64

/-- The length itself (R111, R286). -/
def BlkLen.len : BlkLen → Nat
  | .b8 => 8 | .b16 => 16 | .b32 => 32 | .b64 => 64

def CCls.code : CCls → BitVec 7
  | .cpy => 1 | .mtx => 2 | .msg => 3
def CCls.ofCode (n : BitVec 7) : Option CCls :=
  match n.toNat with
  | 1 => some .cpy | 2 => some .mtx | 3 => some .msg | _ => none

/-- Indices of the system registers (R105). -/
def SysReg.code : SysReg → BitVec 10
  | .lane => 0x000 | .word => 0x001 | .team => 0x002 | .teams => 0x003 | .teamw => 0x004
  | .groupw => 0x005 | .blockx => 0x006 | .blocky => 0x007 | .blockz => 0x008 | .gridx => 0x009
  | .gridy => 0x00A | .gridz => 0x00B | .core => 0x00C | .pier => 0x00D | .course => 0x00E
  | .origin => 0x00F | .srcid => 0x010
  | .msm => 0x040 | .balctl => 0x041 | .fpctl => 0x080 | .fpstat => 0x081 | .sbthr => 0x082
  | .trapn => 0x0C0 | .trapcause => 0x0C1 | .trapdata => 0x0C2 | .trapmask => 0x0C3
  | .trappcLo => 0x0C4 | .trappcHi => 0x0C5 | .cpyerr => 0x0C6
  | .clockLo => 0x100 | .clockHi => 0x101 | .marks => 0x102 | .quant => 0x103 | .replays => 0x104
  | .rndkeyLo => 0x140 | .rndkeyHi => 0x141 | .part => 0x180 | .asid => 0x181
def SysReg.ofCode (n : BitVec 10) : Option SysReg :=
  match n.toNat with
  | 0x000 => some .lane | 0x001 => some .word | 0x002 => some .team | 0x003 => some .teams
  | 0x004 => some .teamw | 0x005 => some .groupw | 0x006 => some .blockx | 0x007 => some .blocky
  | 0x008 => some .blockz | 0x009 => some .gridx | 0x00A => some .gridy | 0x00B => some .gridz
  | 0x00C => some .core | 0x00D => some .pier | 0x00E => some .course | 0x00F => some .origin
  | 0x010 => some .srcid | 0x040 => some .msm | 0x041 => some .balctl | 0x080 => some .fpctl
  | 0x081 => some .fpstat | 0x082 => some .sbthr | 0x0C0 => some .trapn | 0x0C1 => some .trapcause
  | 0x0C2 => some .trapdata | 0x0C3 => some .trapmask | 0x0C4 => some .trappcLo
  | 0x0C5 => some .trappcHi | 0x0C6 => some .cpyerr | 0x100 => some .clockLo | 0x101 => some .clockHi
  | 0x102 => some .marks | 0x103 => some .quant | 0x104 => some .replays | 0x140 => some .rndkeyLo
  | 0x141 => some .rndkeyHi | 0x180 => some .part | 0x181 => some .asid
  | _ => none

/-! ### Fields of the words (R97) -/

/-- The fields of word 0 and word 1 of the long form. -/
structure Fields where
  op : BitVec 6
  l : Bool
  dly : BitVec 3
  d : Reg
  a : Reg
  b : Reg
  bk : Bool
  c : Reg
  g : Guard
  sbt : BitVec 3
  fn : BitVec 18
  deriving DecidableEq, Repr

/-- The guard that names pt, not negated: no guard (R98). -/
def Guard.pt : Guard := ⟨false, 7⟩

def Guard.ofBits (x : BitVec 4) : Guard := ⟨x.getLsbD 3, x.extractLsb' 0 3⟩
def Guard.bits (g : Guard) : BitVec 4 := (BitVec.ofBool g.neg) ++ g.p

/-- Word 0 and word 1 taken apart at the positions of R97. -/
def Fields.ofWords (w0 w1 : Word) : Fields where
  op := w0.extractLsb' 26 6
  l := w0.getLsbD 25
  dly := w0.extractLsb' 22 3
  d := w0.extractLsb' 15 7
  a := w0.extractLsb' 8 7
  b := w0.extractLsb' 1 7
  bk := w0.getLsbD 0
  c := w1.extractLsb' 25 7
  g := Guard.ofBits (w1.extractLsb' 21 4)
  sbt := w1.extractLsb' 18 3
  fn := w1.extractLsb' 0 18

/-- Word 0 put together from its fields. -/
def Fields.word0 (f : Fields) : Word :=
  f.op ++ BitVec.ofBool f.l ++ f.dly ++ f.d ++ f.a ++ f.b ++ BitVec.ofBool f.bk

/-- Word 1 put together from its fields. -/
def Fields.word1 (f : Fields) : Word :=
  f.c ++ f.g.bits ++ f.sbt ++ f.fn

/-- A check of the decoder: the reason given stands when the condition fails. -/
def need (ok : Bool) (e : DecodeError) : Except DecodeError Unit :=
  if ok then .ok () else .error e

/-- A code that names nothing is reserved. -/
def code {α : Type} (o : Option α) : Except DecodeError α :=
  match o with
  | some x => .ok x
  | none => .error .reservedCode

def Fields.ops (f : Fields) : Ops := ⟨f.d, f.a, f.b, f.bk⟩
def Fields.opsDA (f : Fields) : OpsDA := ⟨f.d, f.a⟩

/-- The opcodes that have a short form: those starred in R108. -/
def shortCapable (op : BitVec 6) : Bool :=
  match op.toNat with
  | 0x00 | 0x01 | 0x02 | 0x03 | 0x06 | 0x07 | 0x08 | 0x09 | 0x0A | 0x0B | 0x0C | 0x0D | 0x10
  | 0x18 | 0x19 | 0x1A => true
  | _ => false

/-- The short form (R98): word 0 alone. -/
def decodeShort (f : Fields) : Except DecodeError Instr :=
  match f.op.toNat with
  | 0x00 => do
    need (f.d == 0 && f.a == 0 && f.b == 0 && !f.bk) .mustBeZero
    return .nopShort f.dly
  | 0x01 => return .iaddShort f.dly f.ops
  | 0x02 => return .isubShort f.dly f.ops
  | 0x03 => return .imulShort f.dly f.ops
  | 0x06 => return .iminShort f.dly f.ops
  | 0x07 => return .imaxShort f.dly f.ops
  | 0x08 => return .andShort f.dly f.ops
  | 0x09 => return .orShort f.dly f.ops
  | 0x0A => return .xorShort f.dly f.ops
  | 0x0B => return .shlShort f.dly f.ops
  | 0x0C => return .shrShort f.dly f.ops
  | 0x0D => return .sarShort f.dly f.ops
  | 0x10 => do
    need (f.a == 0) .mustBeZero
    return .movShort f.dly f.d f.b f.bk
  | 0x18 => return .faddShort f.dly f.ops
  | 0x19 => return .fsubShort f.dly f.ops
  | 0x1A => return .fmulShort f.dly f.ops
  | _ => .error .noShortForm

/-- B and BK zero. -/
def Fields.noB (f : Fields) : Bool := f.b == 0 && !f.bk

/-- The sub-operation and modifiers of an integer opcode 0x01 to 0x0E, 0x10, 0x13 to 0x17 (R108, R118 to R127). -/
def decodeInt (f : Fields) : Except DecodeError Instr := do
  need (f.sbt == 0) .badTag
  match f.op.toNat with
  | 0x01 | 0x02 =>
    need (f.c == 0 && f.fn.extractLsb' 2 15 == 0) .mustBeZero
    let m ← code (AddMode.ofCode (f.fn.extractLsb' 0 2))
    let u := f.fn.getLsbD 17
    need (!u || f.g == Guard.pt) .guardNotAllowed
    if f.op == 0x01 then return .iaddLong f.dly f.g f.ops m u
    else return .isubLong f.dly f.g f.ops m u
  | 0x05 | 0x06 | 0x07 =>
    need (f.c == 0 && f.fn.extractLsb' 1 16 == 0) .mustBeZero
    let u := f.fn.getLsbD 17
    let uns := f.fn.getLsbD 0
    need (!u || f.g == Guard.pt) .guardNotAllowed
    if f.op == 0x05 then return .imulh f.dly f.g f.ops uns u
    else if f.op == 0x06 then return .iminLong f.dly f.g f.ops uns u
    else return .imaxLong f.dly f.g f.ops uns u
  | 0x04 =>
    need (f.fn.extractLsb' 0 17 == 0) .mustBeZero
    let u := f.fn.getLsbD 17
    need (!u || f.g == Guard.pt) .guardNotAllowed
    return .imad f.dly f.g f.ops f.c u
  | 0x03 | 0x08 | 0x09 | 0x0A | 0x0B | 0x0C | 0x0D =>
    need (f.c == 0 && f.fn.extractLsb' 0 17 == 0) .mustBeZero
    let u := f.fn.getLsbD 17
    need (!u || f.g == Guard.pt) .guardNotAllowed
    match f.op.toNat with
    | 0x03 => return .imulLong f.dly f.g f.ops u
    | 0x08 => return .andLong f.dly f.g f.ops u
    | 0x09 => return .orLong f.dly f.g f.ops u
    | 0x0A => return .xorLong f.dly f.g f.ops u
    | 0x0B => return .shlLong f.dly f.g f.ops u
    | 0x0C => return .shrLong f.dly f.g f.ops u
    | _ => return .sarLong f.dly f.g f.ops u
  | 0x0E =>
    need (f.fn.extractLsb' 5 12 == 0) .mustBeZero
    let u := f.fn.getLsbD 17
    need (!u || f.g == Guard.pt) .guardNotAllowed
    let sgn := f.fn.getLsbD 4
    match (f.fn.extractLsb' 0 4).toNat with
    | 3 =>
      need (f.c == 0) .mustBeZero
      return .bfx f.dly f.g f.ops sgn u
    | 4 =>
      need (!sgn) .mustBeZero
      return .bfi f.dly f.g f.ops f.c u
    | 5 =>
      need (!sgn && f.c == 0) .mustBeZero
      return .rot f.dly f.g f.ops u
    | 0 => do need (!sgn && f.c == 0 && f.noB) .mustBeZero; return .popc f.dly f.g f.opsDA u
    | 1 => do need (!sgn && f.c == 0 && f.noB) .mustBeZero; return .clz f.dly f.g f.opsDA u
    | 2 => do need (!sgn && f.c == 0 && f.noB) .mustBeZero; return .brev f.dly f.g f.opsDA u
    | 6 => do need (!sgn && f.c == 0 && f.noB) .mustBeZero; return .notB f.dly f.g f.opsDA u
    | 7 => do need (!sgn && f.c == 0 && f.noB) .mustBeZero; return .iabs f.dly f.g f.opsDA u
    | 8 => do need (!sgn && f.c == 0 && f.noB) .mustBeZero; return .ineg f.dly f.g f.opsDA u
    | _ => .error .reservedCode
  | 0x0F =>
    need (f.c == 0 && f.fn.extractLsb' 4 14 == 0) .mustBeZero
    let cc ← code (ICond.ofCode (f.fn.extractLsb' 0 4))
    return .icmp f.dly f.g f.ops cc
  | 0x10 =>
    need (f.a == 0 && f.c == 0 && f.fn.extractLsb' 0 17 == 0) .mustBeZero
    let u := f.fn.getLsbD 17
    need (!u || f.g == Guard.pt) .guardNotAllowed
    return .movLong f.dly f.g f.d f.b f.bk u
  | 0x13 =>
    need (f.fn == 0 && f.c.extractLsb' 4 3 == 0) .mustBeZero
    return .sel f.dly f.g f.ops (f.c.extractLsb' 0 3) (f.c.getLsbD 3)
  | 0x14 =>
    need (f.c == 0 && f.fn.extractLsb' 4 13 == 0) .mustBeZero
    let u := f.fn.getLsbD 17
    need (!u || f.g == Guard.pt) .guardNotAllowed
    return .lea f.dly f.g f.ops (f.fn.extractLsb' 0 3) (f.fn.getLsbD 3) u
  | 0x15 =>
    need (f.c == 0 && f.fn.extractLsb' 4 13 == 0) .mustBeZero
    let u := f.fn.getLsbD 17
    need (!u || f.g == Guard.pt) .guardNotAllowed
    let uns := f.fn.getLsbD 3
    match (f.fn.extractLsb' 0 3).toNat with
    | 0 => do need (!uns) .mustBeZero; return .iaddW f.dly f.g f.ops u
    | 1 => do need (!uns) .mustBeZero; return .isubW f.dly f.g f.ops u
    | 2 => do need (!uns) .mustBeZero; return .shlW f.dly f.g f.ops u
    | 3 => do need (!uns) .mustBeZero; return .shrW f.dly f.g f.ops u
    | 4 => return .imulWl f.dly f.g f.ops uns u
    | _ => .error .reservedCode
  | 0x16 =>
    need (f.c == 0 && !f.bk && f.fn.extractLsb' 5 13 == 0) .mustBeZero
    let na := f.fn.getLsbD 3
    let nb := f.fn.getLsbD 4
    match (f.fn.extractLsb' 0 3).toNat with
    | 0 => return .pand f.dly f.g f.d f.a f.b na nb
    | 1 => return .por f.dly f.g f.d f.a f.b na nb
    | 2 => return .pxor f.dly f.g f.d f.a f.b na nb
    | 3 => do need (f.b == 0 && !nb) .mustBeZero; return .pnot f.dly f.g f.d f.a na
    | 4 => do need (f.a == 0 && f.b == 0 && !na && !nb) .mustBeZero; return .pget f.dly f.g f.d
    | 5 => do need (f.d == 0 && f.b == 0 && !na && !nb) .mustBeZero; return .pset f.dly f.g f.a
    | _ => .error .reservedCode
  | _ =>
    need (f.c == 0 && f.noB && f.fn.extractLsb' 11 6 == 0) .mustBeZero
    let u := f.fn.getLsbD 17
    need (!u || f.g == Guard.pt) .guardNotAllowed
    let src ← code (IntTy.ofCode (f.fn.extractLsb' 0 5))
    let dst ← code (IntTy.ofCode (f.fn.extractLsb' 5 5))
    return .icvt f.dly f.g f.opsDA src dst (f.fn.getLsbD 10) u

/-- Floating-point opcodes 0x18 to 0x24 (R108, R110, R183 to R200). -/
def decodeFp (f : Fields) : Except DecodeError Instr :=
  match f.op.toNat with
  | 0x18 | 0x19 | 0x1A => do
    need (f.sbt == 0) .badTag
    need (f.c == 0 && f.fn.extractLsb' 3 15 == 0) .mustBeZero
    let rm := RM.ofCode (f.fn.extractLsb' 0 2)
    let ftz := f.fn.getLsbD 2
    if f.op == 0x18 then return .faddLong f.dly f.g f.ops rm ftz
    else if f.op == 0x19 then return .fsubLong f.dly f.g f.ops rm ftz
    else return .fmulLong f.dly f.g f.ops rm ftz
  | 0x1B => do
    need (f.sbt == 0) .badTag
    need (f.fn.extractLsb' 3 15 == 0) .mustBeZero
    return .ffma f.dly f.g f.ops f.c (RM.ofCode (f.fn.extractLsb' 0 2)) (f.fn.getLsbD 2)
  | 0x1C => do
    need (f.sbt == 0) .badTag
    need (f.c == 0 && f.fn.extractLsb' 3 15 == 0 && !f.fn.getLsbD 1) .mustBeZero
    if f.fn.getLsbD 0 then return .fmax f.dly f.g f.ops (f.fn.getLsbD 2)
    else return .fmin f.dly f.g f.ops (f.fn.getLsbD 2)
  | 0x1D => do
    need (f.sbt == 0) .badTag
    need (f.c == 0) .mustBeZero
    if f.fn.extractLsb' 0 4 == 8 then
      need (f.noB && f.fn.extractLsb' 14 4 == 0) .mustBeZero
      return .fclass f.dly f.g f.opsDA (f.fn.extractLsb' 4 10)
    else
      need (f.fn.extractLsb' 4 14 == 0) .mustBeZero
      let cc ← code (FCond.ofCode (f.fn.extractLsb' 0 4))
      return .fcmp f.dly f.g f.ops cc
  | 0x1E => do
    let t ← match Tag.ofCode f.sbt with
      | some t => pure t
      | none => .error .badTag
    need (f.c == 0 && f.noB && f.fn.extractLsb' 4 14 == 0) .mustBeZero
    let ftz := f.fn.getLsbD 3
    match (f.fn.extractLsb' 0 3).toNat with
    | 0 => return .frcp f.dly f.g t f.opsDA ftz
    | 1 => return .frsq f.dly f.g t f.opsDA ftz
    | 2 => return .fsqrt f.dly f.g t f.opsDA ftz
    | 3 => return .fexp2 f.dly f.g t f.opsDA ftz
    | 4 => return .flog2 f.dly f.g t f.opsDA ftz
    | 5 => return .fsin f.dly f.g t f.opsDA ftz
    | 6 => return .fcos f.dly f.g t f.opsDA ftz
    | _ => .error .reservedCode
  | 0x1F => do
    need (f.sbt == 0) .badTag
    need (f.c == 0 && f.noB && f.fn.extractLsb' 4 14 == 0) .mustBeZero
    let rm := RM.ofCode (f.fn.extractLsb' 0 2)
    let ftz := f.fn.getLsbD 2
    if f.fn.getLsbD 3 then return .ffrac f.dly f.g f.opsDA rm ftz
    else return .frnd f.dly f.g f.opsDA rm ftz
  | 0x20 => do
    need (f.sbt == 0) .badTag
    need (f.fn.extractLsb' 10 8 == 0) .mustBeZero
    let rmc := f.fn.extractLsb' 3 2
    let rm := RM.ofCode rmc
    let ftz := f.fn.getLsbD 5
    let ccc := f.fn.extractLsb' 6 4
    match (f.fn.extractLsb' 0 3).toNat with
    | 0 => do need (f.c == 0 && ccc == 0) .mustBeZero; return .dadd f.dly f.g f.ops rm ftz
    | 1 => do need (f.c == 0 && ccc == 0) .mustBeZero; return .dmul f.dly f.g f.ops rm ftz
    | 2 => do need (ccc == 0) .mustBeZero; return .dfma f.dly f.g f.ops f.c rm ftz
    | 3 => do need (f.c == 0 && ccc == 0 && rmc == 0) .mustBeZero; return .dmin f.dly f.g f.ops ftz
    | 4 => do need (f.c == 0 && ccc == 0 && rmc == 0) .mustBeZero; return .dmax f.dly f.g f.ops ftz
    | 5 =>
      need (f.c == 0 && rmc == 0) .mustBeZero
      let cc ← code (FCond.ofCode ccc)
      return .dcmp f.dly f.g f.ops cc ftz
    | _ => .error .reservedCode
  | 0x21 => do
    need (f.sbt == 0) .badTag
    need (f.fn.extractLsb' 4 14 == 0) .mustBeZero
    let bf := f.fn.getLsbD 3
    match (f.fn.extractLsb' 0 3).toNat with
    | 0 => do need (f.c == 0) .mustBeZero; return .hadd2 f.dly f.g f.ops bf
    | 1 => do need (f.c == 0) .mustBeZero; return .hmul2 f.dly f.g f.ops bf
    | 2 => return .hfma2 f.dly f.g f.ops f.c bf
    | 3 => do need (f.c == 0) .mustBeZero; return .hmin2 f.dly f.g f.ops bf
    | 4 => do need (f.c == 0) .mustBeZero; return .hmax2 f.dly f.g f.ops bf
    | _ => .error .reservedCode
  | 0x22 => do
    need (f.sbt == 0) .badTag
    need f.noB .mustBeZero
    let slot := f.fn.extractLsb' 15 3
    let rmc := f.fn.extractLsb' 13 2
    let rm := RM.ofCode rmc
    let dst := f.fn.extractLsb' 8 5
    let src := f.fn.extractLsb' 3 5
    match (f.fn.extractLsb' 0 3).toNat with
    | 0 =>
      need (f.c == 0 && slot == 0) .mustBeZero
      let s ← code (FTy.ofCode src)
      let t ← code (IntTy.ofCode dst)
      need s.wide .reservedCode
      return .f2i f.dly f.g f.opsDA rm s t
    | 1 =>
      need (f.c == 0 && slot == 0) .mustBeZero
      let s ← code (IntTy.ofCode src)
      let t ← code (FTy.ofCode dst)
      need t.wide .reservedCode
      return .i2f f.dly f.g f.opsDA rm s t
    | 2 =>
      need (f.c == 0 && slot == 0) .mustBeZero
      let s ← code (FTy.ofCode src)
      let t ← code (FTy.ofCode dst)
      need (s.wide && s != t && (t.wide || rmc == 0)) .reservedCode
      return .f2f f.dly f.g f.opsDA rm s t
    | 3 =>
      let s ← code (FTy.ofCode src)
      let t ← code (FTy.ofCode dst)
      need (s == .fp32 && !t.wide && rmc == 0 && slot.toNat < t.slots) .reservedCode
      return .pack f.dly f.g f.opsDA f.c t slot
    | 4 =>
      need (f.c == 0) .mustBeZero
      let s ← code (FTy.ofCode src)
      let t ← code (FTy.ofCode dst)
      need (t == .fp32 && !s.wide && rmc == 0 && slot.toNat < s.slots) .reservedCode
      return .unpk f.dly f.g f.opsDA s slot
    | _ => .error .reservedCode
  | 0x23 => do
    need (f.sbt == 0) .badTag
    need (f.fn.extractLsb' 5 13 == 0) .mustBeZero
    let ty := f.fn.extractLsb' 2 3
    match (f.fn.extractLsb' 0 2).toNat with
    | 0 =>
      need (ty == 0 || ty == 1) .reservedCode
      return .dp2 f.dly f.g f.ops f.c (ty == 1)
    | 1 =>
      let t ← code (Dp4Ty.ofCode ty)
      return .dp4 f.dly f.g f.ops f.c t
    | 2 =>
      need (ty == 6 || ty == 7) .reservedCode
      return .dp8 f.dly f.g f.ops f.c (ty == 7)
    | _ => .error .reservedCode
  | _ => do
    need (f.sbt == 0) .badTag
    need (f.c == 0) .mustBeZero
    match (f.fn.extractLsb' 0 2).toNat with
    | 0 =>
      need (f.noB && f.fn.extractLsb' 2 16 == 0) .mustBeZero
      return .getsb f.dly f.g f.opsDA
    | 1 =>
      need (f.a == 0 && f.fn.extractLsb' 2 16 == 0) .mustBeZero
      return .setsb f.dly f.g f.d f.b f.bk
    | 2 =>
      need (f.fn.extractLsb' 6 12 == 0) .mustBeZero
      let cc ← code (SCond.ofCode (f.fn.extractLsb' 2 4))
      return .sbcmp f.dly f.g f.ops cc
    | _ => .error .reservedCode

/-- A tag that R102 requires. -/
def Fields.tag (f : Fields) : Except DecodeError Tag :=
  match Tag.ofCode f.sbt with
  | some t => .ok t
  | none => .error .badTag

/-- Cross-lane opcodes 0x28 to 0x2B, REORDER and RND (R108, R128, R155 to R160). -/
def decodeCross (f : Fields) : Except DecodeError Instr :=
  match f.op.toNat with
  | 0x28 => do
    let t ← f.tag
    need (f.c == 0 && f.fn.extractLsb' 2 16 == 0) .mustBeZero
    return .shfl f.dly f.g t f.ops (ShflMode.ofCode (f.fn.extractLsb' 0 2))
  | 0x29 => do
    let t ← f.tag
    need (f.c == 0 && f.noB && f.fn.extractLsb' 2 16 == 0) .mustBeZero
    match (f.fn.extractLsb' 0 2).toNat with
    | 0 => return .voteAll f.dly f.g t f.opsDA
    | 1 => return .voteAny f.dly f.g t f.opsDA
    | 2 => return .voteBallot f.dly f.g t f.opsDA
    | _ => return .voteEq f.dly f.g t f.opsDA
  | 0x2A => do
    let t ← f.tag
    need (f.c == 0 && f.noB && f.fn.extractLsb' 7 11 == 0 && !f.fn.getLsbD 4) .mustBeZero
    let op ← code (GredOp.ofCode (f.fn.extractLsb' 0 4))
    let rmc := f.fn.extractLsb' 5 2
    need (op == .fadd || rmc == 0) .mustBeZero
    return .gred f.dly f.g t f.opsDA op (RM.ofCode rmc)
  | 0x2B => do
    let t ← f.tag
    need (f.c == 0 && f.noB && f.fn.extractLsb' 7 11 == 0) .mustBeZero
    let op ← code (GredOp.ofCode (f.fn.extractLsb' 0 4))
    let rmc := f.fn.extractLsb' 5 2
    need (op == .fadd || rmc == 0) .mustBeZero
    return .gscan f.dly f.g t f.opsDA op (f.fn.getLsbD 4) (RM.ofCode rmc)
  | 0x2C => do
    need (f.sbt == 0) .badTag
    need (f.g == Guard.pt) .guardNotAllowed
    need (f.d == 0 && f.c == 0 && f.fn == 0 && f.bk) .mustBeZero
    return .reorder f.dly f.a f.b
  | _ => do
    need (f.sbt == 0) .badTag
    need (f.c == 0 && f.noB && f.fn.extractLsb' 1 17 == 0) .mustBeZero
    if f.fn.getLsbD 0 then
      need (f.a == 0) .mustBeZero
      return .rnd f.dly f.g f.d none
    else return .rnd f.dly f.g f.d (some f.a)

/-- A failure order that is no stronger than the success order (R109, R257). -/
def FailOrd.within (fl : FailOrd) (o : MemOrd) : Bool :=
  match fl, o with
  | .rlx, _ => true
  | .acq, .acq | .acq, .ar | .acq, .sc => true
  | .sc, .sc => true
  | _, _ => false

/-- Memory opcodes 0x30 to 0x37 (R109). -/
def decodeMem (f : Fields) : Except DecodeError Instr :=
  let size := f.fn.extractLsb' 15 3
  match f.op.toNat with
  | 0x30 => do
    let t ← f.tag
    need (f.c == 0 && f.noB) .mustBeZero
    let sz ← code (LdSize.ofCode size)
    let o ← code (MemOrd.ofCode (f.fn.extractLsb' 12 3))
    let sc := Scope.ofCode (f.fn.extractLsb' 10 2)
    need (o != .rel && o != .ar && (o != .plain || sc == .team)) .reservedCode
    return .ld f.dly f.g t f.opsDA sz o sc (f.fn.extractLsb' 0 10)
  | 0x31 => do
    let t ← f.tag
    need (f.d == 0 && f.c == 0 && !f.bk) .mustBeZero
    let sz ← code (StSize.ofCode size)
    let o ← code (MemOrd.ofCode (f.fn.extractLsb' 12 3))
    let sc := Scope.ofCode (f.fn.extractLsb' 10 2)
    need (o != .acq && o != .ar && (o != .plain || sc == .team)) .reservedCode
    return .st f.dly f.g t f.a f.b sz o sc (f.fn.extractLsb' 0 10)
  | 0x32 => do
    let t ← f.tag
    need (f.c == 0 && f.noB) .mustBeZero
    let sz ← code (LdSize.ofCode size)
    return .lds f.dly f.g t f.opsDA sz (f.fn.extractLsb' 0 15)
  | 0x33 => do
    let t ← f.tag
    need (f.d == 0 && f.c == 0 && !f.bk) .mustBeZero
    let sz ← code (StSize.ofCode size)
    return .sts f.dly f.g t f.a f.b sz (f.fn.extractLsb' 0 15)
  | 0x34 => do
    let t ← f.tag
    need (f.c.extractLsb' 4 3 == 0 && !f.bk) .mustBeZero
    let op ← code (AOp.ofCode (f.c.extractLsb' 0 4))
    let o ← code (MemOrd.ofCode (f.fn.extractLsb' 12 3))
    need ((size == 2 || size == 3) && o != .plain && (op != .fadd || size == 2)) .reservedCode
    return .atom f.dly f.g t f.d f.a f.b op (size == 3) o (Scope.ofCode (f.fn.extractLsb' 10 2)) (f.fn.extractLsb' 0 10)
  | 0x35 => do
    let t ← f.tag
    need (!f.bk) .mustBeZero
    let fl ← code (FailOrd.ofCode (f.fn.extractLsb' 15 2))
    let o ← code (MemOrd.ofCode (f.fn.extractLsb' 12 3))
    need (o != .plain && fl.within o) .reservedCode
    return .cas f.dly f.g t f.d f.a f.b f.c (f.fn.getLsbD 17) fl o (Scope.ofCode (f.fn.extractLsb' 10 2)) (f.fn.extractLsb' 0 10)
  | 0x36 => do
    let t ← f.tag
    need (!f.bk) .mustBeZero
    let op ← code (aopsOfCode (f.c.extractLsb' 0 4))
    let o ← code (MemOrd.ofCode (f.c.extractLsb' 4 3))
    need ((size == 2 || size == 3) && o != .plain && (op != some .fadd || size == 2)) .reservedCode
    return .atoms f.dly f.g t f.d f.a f.b op (size == 3) o (f.fn.extractLsb' 0 15)
  | _ => do
    need (f.sbt == 0) .badTag
    need (f.g == Guard.pt) .guardNotAllowed
    need (f.d == 0 && f.a == 0 && f.noB && f.c == 0 && size == 0 && f.fn.extractLsb' 0 10 == 0) .mustBeZero
    let o ← code (MemOrd.ofCode (f.fn.extractLsb' 12 3))
    need (o != .plain && o != .rlx) .reservedCode
    return .fence f.dly o (Scope.ofCode (f.fn.extractLsb' 10 2))

/-- The descriptor field of MMA and MMAS: C[6] SCALED, C[5:0] zero unless SCALED (R111, R290). -/
def descOf (c : Reg) : Except DecodeError (Option (BitVec 6)) :=
  if c.getLsbD 6 then .ok (some (c.extractLsb' 0 6))
  else if c == 0 then .ok none else .error .mustBeZero

/-- Matrix opcodes 0x38 to 0x3B (R111). -/
def decodeMatrix (f : Fields) : Except DecodeError Instr :=
  match f.op.toNat with
  | 0x38 => do
    need (f.sbt == 0) .badTag
    need (f.g == Guard.pt) .guardNotAllowed
    need (!f.bk && f.fn.extractLsb' 10 8 == 0) .mustBeZero
    let ds ← descOf f.c
    let af ← code (MFmt.ofCode (f.fn.extractLsb' 3 3))
    let bf ← code (MFmt.ofCode (f.fn.extractLsb' 6 3))
    return .mma f.dly f.d f.a f.b ds (f.fn.extractLsb' 0 3) af bf (f.fn.getLsbD 9)
  | 0x39 => do
    need (f.sbt == 0) .badTag
    need (f.g == Guard.pt) .guardNotAllowed
    need (!f.bk) .mustBeZero
    let ds ← descOf f.c
    let af ← code (MFmt.ofCode (f.fn.extractLsb' 3 3))
    let bf ← code (MFmt.ofCode (f.fn.extractLsb' 6 3))
    let n ← code (SpN.ofCode (f.fn.extractLsb' 10 2))
    return .mmas f.dly f.d f.a f.b ds (f.fn.extractLsb' 0 3) af bf (f.fn.getLsbD 9) n (f.fn.extractLsb' 12 6)
  | 0x3A => do
    need (f.g == Guard.pt) .guardNotAllowed
    let ty := f.fn.extractLsb' 12 3
    match (f.fn.extractLsb' 15 3).toNat with
    | 0 =>
      need (f.sbt == 0) .badTag
      need (f.a == 0 && f.noB && f.c == 0 && f.fn.extractLsb' 0 12 == 0) .mustBeZero
      need (ty == 0 || ty == 5) .reservedCode
      return .azero f.dly f.d (ty == 5)
    | 1 =>
      let t ← f.tag
      need (f.bk && f.c == 0 && f.fn.extractLsb' 0 12 == 0) .mustBeZero
      need (ty == 0 || ty == 5) .reservedCode
      return .ald f.dly t f.d f.a f.b (ty == 5)
    | 2 =>
      let t ← f.tag
      need (f.d == 0 && f.bk && f.fn.extractLsb' 0 8 == 0) .mustBeZero
      let o ← code (OFmt.ofCode ty)
      return .ast f.dly t f.a f.b f.c o (Act.ofCode (f.fn.extractLsb' 10 2)) (f.fn.getLsbD 9) (f.fn.getLsbD 8)
    | 3 =>
      let t ← f.tag
      need (f.a == 0 && f.noB && f.fn.extractLsb' 0 15 == 0) .mustBeZero
      return .amov f.dly t f.d f.c
    | _ => .error .reservedCode
  | _ => do
    let t ← f.tag
    need (f.g == Guard.pt) .guardNotAllowed
    need (f.d == 0 && f.bk && f.fn.extractLsb' 15 3 == 0 && f.fn.extractLsb' 0 10 == 0) .mustBeZero
    let fm ← code (QFmt.ofCode (f.fn.extractLsb' 12 3))
    return .qtile f.dly t f.a f.b f.c fm (BlkLen.ofCode (f.fn.extractLsb' 10 2))

/-- COPY and ENG (R112, R299 to R302, R310, R318). -/
def decodeEngine (f : Fields) : Except DecodeError Instr :=
  match f.op.toNat with
  | 0x3C => do
    need (f.sbt == 0) .badTag
    need (f.g == Guard.pt) .guardNotAllowed
    need (f.d == 0 && f.bk && f.fn.extractLsb' 0 10 == 0) .mustBeZero
    let t := f.fn.extractLsb' 10 6
    let s2g := f.fn.getLsbD 17
    if f.fn.getLsbD 16 then return .copy f.dly f.a f.b f.c s2g (some t)
    else do
      need (t == 0) .mustBeZero
      return .copy f.dly f.a f.b f.c s2g none
  | _ => do
    need (f.sbt == 0) .badTag
    match f.c.toNat with
    | 0 =>
      need (f.g == Guard.pt) .guardNotAllowed
      need (f.noB && f.fn == 0 && !f.a.getLsbD 6) .mustBeZero
      let cl ← code (CCls.ofCode f.d)
      return .waitc f.dly cl (f.a.extractLsb' 0 6)
    | 1 =>
      need (f.g == Guard.pt) .guardNotAllowed
      need (f.d == 0 && f.a == 0 && f.noB && f.fn == 0) .mustBeZero
      return .batch f.dly
    | 2 =>
      need (f.g == Guard.pt) .guardNotAllowed
      need (f.noB && !f.a.getLsbD 6) .mustBeZero
      let cl ← code (CCls.ofCode f.d)
      return .yieldC f.dly cl (f.a.extractLsb' 0 6) f.fn
    | 3 =>
      need (f.g == Guard.pt) .guardNotAllowed
      need (f.d == 0 && f.a == 0 && f.noB && f.fn.extractLsb' 16 2 == 0) .mustBeZero
      return .mark f.dly (f.fn.extractLsb' 0 16)
    | 4 =>
      need (f.g == Guard.pt) .guardNotAllowed
      need (f.d == 0 && f.a == 0 && f.noB && f.fn.extractLsb' 16 2 == 0) .mustBeZero
      return .markW f.dly (f.fn.extractLsb' 0 16)
    | 5 =>
      let w := f.fn.extractLsb' 8 4
      need (f.d == 0 && !f.bk && f.fn.extractLsb' 12 6 == 0 && (w != 0 || f.b == 0)) .mustBeZero
      need (w.toNat ≤ 8) .reservedCode
      return .send f.dly f.g f.a f.b (f.fn.extractLsb' 0 8) w
    | _ => .error .reservedCode

/-- BRANCH (R112, R132). -/
def decodeBranch (f : Fields) : Except DecodeError Instr := do
  need (f.sbt == 0) .badTag
  need f.noB .mustBeZero
  match f.c.toNat with
  | 0 => do need (f.d == 0 && f.a == 0) .mustBeZero; return .bra f.dly f.g f.fn
  | 6 => do need (f.d == 0 && f.a == 0 && f.fn == 0) .mustBeZero; return .exit f.dly f.g
  | 1 =>
    need (f.g == Guard.pt) .guardNotAllowed
    need (f.d == 0 && f.fn == 0) .mustBeZero
    return .jmp f.dly f.a
  | 2 =>
    need (f.g == Guard.pt) .guardNotAllowed
    need (f.a == 0) .mustBeZero
    return .call f.dly f.d f.fn
  | 3 =>
    need (f.g == Guard.pt) .guardNotAllowed
    need (f.d == 0 && f.fn == 0) .mustBeZero
    return .ret f.dly f.a
  | 4 =>
    need (f.g == Guard.pt) .guardNotAllowed
    need (f.d == 0 && f.a == 0) .mustBeZero
    return .mjoin f.dly f.fn
  | 5 =>
    need (f.g == Guard.pt) .guardNotAllowed
    need (f.d == 0 && f.a == 0 && f.fn == 0) .mustBeZero
    return .join f.dly
  | _ => .error .reservedCode

/-- The arrival count of a barrier instruction: FN[3:0] barrier, [9] ALL, [8:4] count − 1 (R112, R151). -/
def wantOf (fn : BitVec 18) : Except DecodeError BarWant :=
  if fn.getLsbD 9 then
    if fn.extractLsb' 4 5 == 0 then .ok .all else .error .mustBeZero
  else .ok (.count (fn.extractLsb' 4 5))

/-- SYS (R112, R151, R154, R212 to R215). -/
def decodeSys (f : Fields) : Except DecodeError Instr := do
  need (f.sbt == 0) .badTag
  match f.c.toNat with
  | 0 =>
    need (f.g == Guard.pt) .guardNotAllowed
    need (f.d == 0 && f.a == 0 && f.noB && f.fn.extractLsb' 10 8 == 0) .mustBeZero
    let w ← wantOf f.fn
    return .barArr f.dly (f.fn.extractLsb' 0 4) w
  | 1 =>
    need (f.g == Guard.pt) .guardNotAllowed
    need (f.d == 0 && f.a == 0 && f.noB && f.fn.extractLsb' 4 14 == 0) .mustBeZero
    return .barWait f.dly (f.fn.extractLsb' 0 4)
  | 2 =>
    need (f.g == Guard.pt) .guardNotAllowed
    need (f.d == 0 && f.a == 0 && f.noB && f.fn.extractLsb' 10 8 == 0) .mustBeZero
    let w ← wantOf f.fn
    return .barSync f.dly (f.fn.extractLsb' 0 4) w
  | 3 =>
    need (f.g == Guard.pt) .guardNotAllowed
    need (f.d == 0 && f.a == 0) .mustBeZero
    if f.bk then
      need (f.fn.extractLsb' 4 14 == 0) .mustBeZero
      return .balBurn f.dly (f.fn.extractLsb' 0 4) (.reg f.b)
    else
      need (f.b == 0) .mustBeZero
      return .balBurn f.dly (f.fn.extractLsb' 0 4) (.imm (f.fn.extractLsb' 4 14))
  | 4 =>
    need (f.g == Guard.pt) .guardNotAllowed
    need (f.d == 0 && f.a == 0 && f.noB && f.fn == 0) .mustBeZero
    return .balShunt f.dly
  | 5 =>
    need (f.g == Guard.pt) .guardNotAllowed
    need (f.d == 0 && f.a == 0 && f.noB && f.fn.extractLsb' 4 14 == 0) .mustBeZero
    return .balHold f.dly (f.fn.extractLsb' 0 4)
  | 6 =>
    need (f.d == 0 && f.a == 0 && f.noB && f.fn.extractLsb' 8 10 == 0) .mustBeZero
    return .trap f.dly f.g (f.fn.extractLsb' 0 8)
  | 7 =>
    need (f.g == Guard.pt) .guardNotAllowed
    need (f.d == 0 && f.a == 0 && f.noB && f.fn.extractLsb' 2 16 == 0) .mustBeZero
    match (f.fn.extractLsb' 0 2).toNat with
    | 0 => return .rttRes f.dly
    | 1 => return .rttSkip f.dly
    | 2 => return .rttKill f.dly
    | _ => .error .reservedCode
  | 8 =>
    need (f.a == 0 && f.b == 0 && f.fn.extractLsb' 10 8 == 0) .mustBeZero
    let r ← code (SysReg.ofCode (f.fn.extractLsb' 0 10))
    return .getsr f.dly f.g f.d f.bk r
  | 9 =>
    need (f.g == Guard.pt) .guardNotAllowed
    need (f.d == 0 && f.a == 0 && f.fn.extractLsb' 10 8 == 0) .mustBeZero
    let r ← code (SysReg.ofCode (f.fn.extractLsb' 0 10))
    return .setsr f.dly f.b f.bk r
  | 10 =>
    need (f.g == Guard.pt) .guardNotAllowed
    need (f.d == 0 && f.a == 0 && f.noB && f.fn == 0) .mustBeZero
    return .qend f.dly
  | _ => .error .reservedCode

/-- The immediate form of LI and IADDI (R97, R123): G in word 0 [7:4], SBT in [3:1], K in [0]. -/
def decodeImm (f : Fields) (w0 w1 : Word) : Except DecodeError Instr := do
  let g := Guard.ofBits (w0.extractLsb' 4 4)
  let k := w0.getLsbD 0
  need (w0.extractLsb' 1 3 == 0) .badTag
  need (!k || g == Guard.pt) .guardNotAllowed
  if f.op == 0x11 then
    need (f.a == 0) .mustBeZero
    return .li f.dly g f.d k w1
  else return .iaddi f.dly g f.opsDA k w1

/-- The long form, by primary opcode (R108). -/
def decodeLong (f : Fields) (w0 w1 : Word) : Except DecodeError Instr :=
  let n := f.op.toNat
  if n == 0 then do
    need (f.sbt == 0) .badTag
    need (f.d == 0 && f.a == 0 && f.noB && f.c == 0 && f.fn == 0) .mustBeZero
    return .nopLong f.dly f.g
  else if n == 0x11 || n == 0x12 then decodeImm f w0 w1
  else if n ≤ 0x17 then decodeInt f
  else if n ≤ 0x24 then decodeFp f
  else if n ≤ 0x27 then .error .reservedOpcode
  else if n ≤ 0x2D then decodeCross f
  else if n ≤ 0x2F then .error .reservedOpcode
  else if n ≤ 0x37 then decodeMem f
  else if n ≤ 0x3B then decodeMatrix f
  else if n ≤ 0x3D then decodeEngine f
  else if n == 0x3E then decodeBranch f
  else decodeSys f

/-- Whether a primary opcode is reserved (R108). -/
def reservedOp (op : BitVec 6) : Bool :=
  let n := op.toNat
  (0x25 ≤ n && n ≤ 0x27) || n == 0x2E || n == 0x2F

/-- An instruction from its word 0 and the word after it, which counts only when L is 1 (R97, R98). -/
def decodeWords (w0 w1 : Word) : Except DecodeError Instr :=
  let f := Fields.ofWords w0 w1
  if reservedOp f.op then .error .reservedOpcode
  else if f.l then decodeLong f w0 w1
  else if shortCapable f.op then decodeShort f
  else .error .noShortForm

/-- Four bytes as a 32-bit value, the lowest address first (R4). -/
def wordOfBytes (b0 b1 b2 b3 : Byte) : Word := b3 ++ b2 ++ b1 ++ b0

/-- A 32-bit value as four bytes, the lowest address first (R4). -/
def bytesOfWord (w : Word) : List Byte :=
  [w.extractLsb' 0 8, w.extractLsb' 8 8, w.extractLsb' 16 8, w.extractLsb' 24 8]

/-- Decoding of a byte string: the instruction at its head and the rest. -/
def decode : List Byte → Except DecodeError (Instr × List Byte)
  | b0 :: b1 :: b2 :: b3 :: rest =>
    let w0 := wordOfBytes b0 b1 b2 b3
    if w0.getLsbD 25 then
      match rest with
      | c0 :: c1 :: c2 :: c3 :: rest' => (decodeWords w0 (wordOfBytes c0 c1 c2 c3)).map (·, rest')
      | _ => .error .truncated
    else (decodeWords w0 0).map (·, rest)
  | _ => .error .truncated

/-- The instruction that the decoder reads from words numbered as the opcode table numbers them: word 0 is
bits 31 to 0, word 1 bits 63 to 32; bits at or above `nbits` are 0. -/
def decodeTableWord (nbits w : Nat) : Option Instr :=
  let x := w % 2 ^ nbits
  let w0 : Word := BitVec.ofNat 32 x
  let w1 : Word := BitVec.ofNat 32 (x / 2 ^ 32)
  match decode (bytesOfWord w0 ++ bytesOfWord w1) with
  | .ok (i, _) => some i
  | .error _ => none

/-! ### The encoder, written from the same tables -/

/-- The long form with the fields given and everything else zero or unguarded. -/
def Fields.long (op : BitVec 6) (dly : BitVec 3) (g : Guard) : Fields where
  op := op
  l := true
  dly := dly
  d := 0
  a := 0
  b := 0
  bk := false
  c := 0
  g := g
  sbt := 0
  fn := 0

def Fields.withOps (f : Fields) (o : Ops) : Fields := { f with d := o.d, a := o.a, b := o.b, bk := o.bk }
def Fields.withDA (f : Fields) (o : OpsDA) : Fields := { f with d := o.d, a := o.a }
def Fields.words (f : Fields) : List Word := [f.word0, f.word1]

/-- The short form (R98). -/
def shortWord (op : BitVec 6) (dly : BitVec 3) (o : Ops) : List Word :=
  [({ Fields.long op dly Guard.pt with l := false, d := o.d, a := o.a, b := o.b, bk := o.bk } : Fields).word0]

/-- FN of an opcode with a uniform form: U at bit 17 over a 17-bit function (R101). -/
def fnU (u : Bool) (x : BitVec 17) : BitVec 18 := BitVec.ofBool u ++ x

/-- Word 0 of the immediate form (R97). -/
def immWord0 (op : BitVec 6) (dly : BitVec 3) (d a : Reg) (g : Guard) (k : Bool) : Word :=
  op ++ (1 : BitVec 1) ++ dly ++ d ++ a ++ g.bits ++ (0 : BitVec 3) ++ BitVec.ofBool k

def encAlu (op : BitVec 6) (dly : BitVec 3) (g : Guard) (o : Ops) (c : Reg) (u : Bool) (x : BitVec 17) : List Word :=
  ({ (Fields.long op dly g).withOps o with c := c, fn := fnU u x } : Fields).words

def encDA (op : BitVec 6) (dly : BitVec 3) (g : Guard) (o : OpsDA) (c : Reg) (sbt : BitVec 3) (fn : BitVec 18) : List Word :=
  ({ (Fields.long op dly g).withDA o with c := c, sbt := sbt, fn := fn } : Fields).words

def encOps (op : BitVec 6) (dly : BitVec 3) (g : Guard) (o : Ops) (c : Reg) (sbt : BitVec 3) (fn : BitVec 18) : List Word :=
  ({ (Fields.long op dly g).withOps o with c := c, sbt := sbt, fn := fn } : Fields).words

def fnRmFtz (rm : RM) (ftz : Bool) : BitVec 18 := (0 : BitVec 15) ++ BitVec.ofBool ftz ++ rm.code
def fnSfu (ftz : Bool) (k : BitVec 3) : BitVec 18 := (0 : BitVec 14) ++ BitVec.ofBool ftz ++ k
def fnRnd (frac ftz : Bool) (rm : RM) : BitVec 18 := (0 : BitVec 14) ++ BitVec.ofBool frac ++ BitVec.ofBool ftz ++ rm.code
def fnDfp (cc : BitVec 4) (ftz : Bool) (rm : RM) (k : BitVec 3) : BitVec 18 :=
  (0 : BitVec 8) ++ cc ++ BitVec.ofBool ftz ++ rm.code ++ k
def fnHpk (bf : Bool) (k : BitVec 3) : BitVec 18 := (0 : BitVec 14) ++ BitVec.ofBool bf ++ k
def fnCvt (slot : BitVec 3) (rm : RM) (dst src : BitVec 5) (k : BitVec 3) : BitVec 18 := slot ++ rm.code ++ dst ++ src ++ k
def fnDot (ty : BitVec 3) (k : BitVec 2) : BitVec 18 := (0 : BitVec 13) ++ ty ++ k
def fnMem (size : BitVec 3) (o : MemOrd) (s : Scope) (off : BitVec 10) : BitVec 18 := size ++ o.code ++ s.code ++ off
def fnSpad (size : BitVec 3) (off : BitVec 15) : BitVec 18 := size ++ off
def fnGred (rm : RM) (excl : Bool) (op : GredOp) : BitVec 18 := (0 : BitVec 11) ++ rm.code ++ BitVec.ofBool excl ++ op.code
def fnPred (na nb : Bool) (k : BitVec 3) : BitVec 18 := (0 : BitVec 13) ++ BitVec.ofBool nb ++ BitVec.ofBool na ++ k
def descBits : Option (BitVec 6) → Reg
  | none => 0
  | some r => (1 : BitVec 1) ++ r
def fnBar (b : BitVec 4) : BarWant → BitVec 18
  | .all => (0 : BitVec 8) ++ (1 : BitVec 1) ++ (0 : BitVec 5) ++ b
  | .count n => (0 : BitVec 8) ++ (0 : BitVec 1) ++ n ++ b
def fnIdx (r : SysReg) : BitVec 18 := (0 : BitVec 8) ++ r.code
def aBits (n : BitVec 6) : Reg := (0 : BitVec 1) ++ n

/-- A long form with no operand, its C and FN given (BRANCH, SYS, ENG). -/
def encSub (op : BitVec 6) (dly : BitVec 3) (g : Guard) (d a : Reg) (c : Reg) (fn : BitVec 18) : List Word :=
  ({ Fields.long op dly g with d := d, a := a, c := c, fn := fn } : Fields).words

/-- The words of an instruction (R97 to R112); an event has none. -/
def encode : Instr → List Word
  | .nopShort y => shortWord 0x00 y ⟨0, 0, 0, false⟩
  | .nopLong y g => (Fields.long 0x00 y g).words
  | .iaddShort y o => shortWord 0x01 y o
  | .iaddLong y g o m u => encAlu 0x01 y g o 0 u ((0 : BitVec 15) ++ m.code)
  | .isubShort y o => shortWord 0x02 y o
  | .isubLong y g o m u => encAlu 0x02 y g o 0 u ((0 : BitVec 15) ++ m.code)
  | .imulShort y o => shortWord 0x03 y o
  | .imulLong y g o u => encAlu 0x03 y g o 0 u 0
  | .imad y g o c u => encAlu 0x04 y g o c u 0
  | .imulh y g o n u => encAlu 0x05 y g o 0 u ((0 : BitVec 16) ++ BitVec.ofBool n)
  | .iminShort y o => shortWord 0x06 y o
  | .iminLong y g o n u => encAlu 0x06 y g o 0 u ((0 : BitVec 16) ++ BitVec.ofBool n)
  | .imaxShort y o => shortWord 0x07 y o
  | .imaxLong y g o n u => encAlu 0x07 y g o 0 u ((0 : BitVec 16) ++ BitVec.ofBool n)
  | .andShort y o => shortWord 0x08 y o
  | .andLong y g o u => encAlu 0x08 y g o 0 u 0
  | .orShort y o => shortWord 0x09 y o
  | .orLong y g o u => encAlu 0x09 y g o 0 u 0
  | .xorShort y o => shortWord 0x0A y o
  | .xorLong y g o u => encAlu 0x0A y g o 0 u 0
  | .shlShort y o => shortWord 0x0B y o
  | .shlLong y g o u => encAlu 0x0B y g o 0 u 0
  | .shrShort y o => shortWord 0x0C y o
  | .shrLong y g o u => encAlu 0x0C y g o 0 u 0
  | .sarShort y o => shortWord 0x0D y o
  | .sarLong y g o u => encAlu 0x0D y g o 0 u 0
  | .popc y g o u => encDA 0x0E y g o 0 0 (fnU u 0)
  | .clz y g o u => encDA 0x0E y g o 0 0 (fnU u 1)
  | .brev y g o u => encDA 0x0E y g o 0 0 (fnU u 2)
  | .bfx y g o sg u => encAlu 0x0E y g o 0 u ((0 : BitVec 12) ++ BitVec.ofBool sg ++ (3 : BitVec 4))
  | .bfi y g o c u => encAlu 0x0E y g o c u 4
  | .rot y g o u => encAlu 0x0E y g o 0 u 5
  | .notB y g o u => encDA 0x0E y g o 0 0 (fnU u 6)
  | .iabs y g o u => encDA 0x0E y g o 0 0 (fnU u 7)
  | .ineg y g o u => encDA 0x0E y g o 0 0 (fnU u 8)
  | .icmp y g o cc => encOps 0x0F y g o 0 0 ((0 : BitVec 14) ++ cc.code)
  | .movShort y d b bk => shortWord 0x10 y ⟨d, 0, b, bk⟩
  | .movLong y g d b bk u => encAlu 0x10 y g ⟨d, 0, b, bk⟩ 0 u 0
  | .li y g d k im => [immWord0 0x11 y d 0 g k, im]
  | .iaddi y g o k im => [immWord0 0x12 y o.d o.a g k, im]
  | .sel y g o cp cn => encOps 0x13 y g o ((0 : BitVec 3) ++ BitVec.ofBool cn ++ cp) 0 0
  | .lea y g o sh sx u => encAlu 0x14 y g o 0 u ((0 : BitVec 13) ++ BitVec.ofBool sx ++ sh)
  | .iaddW y g o u => encAlu 0x15 y g o 0 u 0
  | .isubW y g o u => encAlu 0x15 y g o 0 u 1
  | .shlW y g o u => encAlu 0x15 y g o 0 u 2
  | .shrW y g o u => encAlu 0x15 y g o 0 u 3
  | .imulWl y g o n u => encAlu 0x15 y g o 0 u ((0 : BitVec 13) ++ BitVec.ofBool n ++ (4 : BitVec 3))
  | .pand y g d a b na nb => encOps 0x16 y g ⟨d, a, b, false⟩ 0 0 (fnPred na nb 0)
  | .por y g d a b na nb => encOps 0x16 y g ⟨d, a, b, false⟩ 0 0 (fnPred na nb 1)
  | .pxor y g d a b na nb => encOps 0x16 y g ⟨d, a, b, false⟩ 0 0 (fnPred na nb 2)
  | .pnot y g d a na => encOps 0x16 y g ⟨d, a, 0, false⟩ 0 0 (fnPred na false 3)
  | .pget y g d => encOps 0x16 y g ⟨d, 0, 0, false⟩ 0 0 4
  | .pset y g a => encOps 0x16 y g ⟨0, a, 0, false⟩ 0 0 5
  | .icvt y g o src dst sat u => encDA 0x17 y g o 0 0 (fnU u ((0 : BitVec 6) ++ BitVec.ofBool sat ++ dst.code ++ src.code))
  | .rnd y g d none => encOps 0x2D y g ⟨d, 0, 0, false⟩ 0 0 1
  | .rnd y g d (some a) => encOps 0x2D y g ⟨d, a, 0, false⟩ 0 0 0
  | .faddShort y o => shortWord 0x18 y o
  | .faddLong y g o rm z => encOps 0x18 y g o 0 0 (fnRmFtz rm z)
  | .fsubShort y o => shortWord 0x19 y o
  | .fsubLong y g o rm z => encOps 0x19 y g o 0 0 (fnRmFtz rm z)
  | .fmulShort y o => shortWord 0x1A y o
  | .fmulLong y g o rm z => encOps 0x1A y g o 0 0 (fnRmFtz rm z)
  | .ffma y g o c rm z => encOps 0x1B y g o c 0 (fnRmFtz rm z)
  | .fmin y g o z => encOps 0x1C y g o 0 0 ((0 : BitVec 15) ++ BitVec.ofBool z ++ (0 : BitVec 2))
  | .fmax y g o z => encOps 0x1C y g o 0 0 ((0 : BitVec 15) ++ BitVec.ofBool z ++ (1 : BitVec 2))
  | .fcmp y g o cc => encOps 0x1D y g o 0 0 ((0 : BitVec 14) ++ cc.code)
  | .fclass y g o set => encDA 0x1D y g o 0 0 ((0 : BitVec 4) ++ set ++ (8 : BitVec 4))
  | .frnd y g o rm z => encDA 0x1F y g o 0 0 (fnRnd false z rm)
  | .ffrac y g o rm z => encDA 0x1F y g o 0 0 (fnRnd true z rm)
  | .frcp y g t o z => encDA 0x1E y g o 0 t.code (fnSfu z 0)
  | .frsq y g t o z => encDA 0x1E y g o 0 t.code (fnSfu z 1)
  | .fsqrt y g t o z => encDA 0x1E y g o 0 t.code (fnSfu z 2)
  | .fexp2 y g t o z => encDA 0x1E y g o 0 t.code (fnSfu z 3)
  | .flog2 y g t o z => encDA 0x1E y g o 0 t.code (fnSfu z 4)
  | .fsin y g t o z => encDA 0x1E y g o 0 t.code (fnSfu z 5)
  | .fcos y g t o z => encDA 0x1E y g o 0 t.code (fnSfu z 6)
  | .dadd y g o rm z => encOps 0x20 y g o 0 0 (fnDfp 0 z rm 0)
  | .dmul y g o rm z => encOps 0x20 y g o 0 0 (fnDfp 0 z rm 1)
  | .dfma y g o c rm z => encOps 0x20 y g o c 0 (fnDfp 0 z rm 2)
  | .dmin y g o z => encOps 0x20 y g o 0 0 (fnDfp 0 z .rne 3)
  | .dmax y g o z => encOps 0x20 y g o 0 0 (fnDfp 0 z .rne 4)
  | .dcmp y g o cc z => encOps 0x20 y g o 0 0 (fnDfp cc.code z .rne 5)
  | .hadd2 y g o bf => encOps 0x21 y g o 0 0 (fnHpk bf 0)
  | .hmul2 y g o bf => encOps 0x21 y g o 0 0 (fnHpk bf 1)
  | .hfma2 y g o c bf => encOps 0x21 y g o c 0 (fnHpk bf 2)
  | .hmin2 y g o bf => encOps 0x21 y g o 0 0 (fnHpk bf 3)
  | .hmax2 y g o bf => encOps 0x21 y g o 0 0 (fnHpk bf 4)
  | .f2i y g o rm src dst => encDA 0x22 y g o 0 0 (fnCvt 0 rm dst.code src.code 0)
  | .i2f y g o rm src dst => encDA 0x22 y g o 0 0 (fnCvt 0 rm dst.code src.code 1)
  | .f2f y g o rm src dst => encDA 0x22 y g o 0 0 (fnCvt 0 rm dst.code src.code 2)
  | .pack y g o c dst slot => encDA 0x22 y g o c 0 (fnCvt slot .rne dst.code 0 3)
  | .unpk y g o src slot => encDA 0x22 y g o 0 0 (fnCvt slot .rne 0 src.code 4)
  | .dp2 y g o c bf => encOps 0x23 y g o c 0 (fnDot ((0 : BitVec 2) ++ BitVec.ofBool bf) 0)
  | .dp4 y g o c ty => encOps 0x23 y g o c 0 (fnDot ty.code 1)
  | .dp8 y g o c f4 => encOps 0x23 y g o c 0 (fnDot ((3 : BitVec 2) ++ BitVec.ofBool f4) 2)
  | .getsb y g o => encDA 0x24 y g o 0 0 0
  | .setsb y g d b bk => encOps 0x24 y g ⟨d, 0, b, bk⟩ 0 0 1
  | .sbcmp y g o cc => encOps 0x24 y g o 0 0 ((0 : BitVec 12) ++ cc.code ++ (2 : BitVec 2))
  | .shfl y g t o m => encOps 0x28 y g o 0 t.code ((0 : BitVec 16) ++ m.code)
  | .voteAll y g t o => encDA 0x29 y g o 0 t.code 0
  | .voteAny y g t o => encDA 0x29 y g o 0 t.code 1
  | .voteBallot y g t o => encDA 0x29 y g o 0 t.code 2
  | .voteEq y g t o => encDA 0x29 y g o 0 t.code 3
  | .gred y g t o op rm => encDA 0x2A y g o 0 t.code (fnGred rm false op)
  | .gscan y g t o op e rm => encDA 0x2B y g o 0 t.code (fnGred rm e op)
  | .reorder y a b => encOps 0x2C y Guard.pt ⟨0, a, b, true⟩ 0 0 0
  | .ld y g t o sz od sc off => encDA 0x30 y g o 0 t.code (fnMem sz.code od sc off)
  | .st y g t a b sz od sc off => encOps 0x31 y g ⟨0, a, b, false⟩ 0 t.code (fnMem sz.code od sc off)
  | .lds y g t o sz off => encDA 0x32 y g o 0 t.code (fnSpad sz.code off)
  | .sts y g t a b sz off => encOps 0x33 y g ⟨0, a, b, false⟩ 0 t.code (fnSpad sz.code off)
  | .atom y g t d a b op w od sc off =>
    encOps 0x34 y g ⟨d, a, b, false⟩ ((0 : BitVec 3) ++ op.code) t.code (fnMem (if w then 3 else 2) od sc off)
  | .cas y g t d a b c w fl od sc off =>
    encOps 0x35 y g ⟨d, a, b, false⟩ c t.code (fnMem (BitVec.ofBool w ++ fl.code) od sc off)
  | .atoms y g t d a b op w od off =>
    encOps 0x36 y g ⟨d, a, b, false⟩ (od.code ++ aopsCode op) t.code (fnSpad (if w then 3 else 2) off)
  | .fence y od sc => encSub 0x37 y Guard.pt 0 0 0 (fnMem 0 od sc 0)
  | .mma y d a b ds p af bf nw =>
    encOps 0x38 y Guard.pt ⟨d, a, b, false⟩ (descBits ds) 0
      ((0 : BitVec 8) ++ BitVec.ofBool nw ++ bf.code ++ af.code ++ p)
  | .mmas y d a b ds p af bf nw n m =>
    encOps 0x39 y Guard.pt ⟨d, a, b, false⟩ (descBits ds) 0
      (m ++ n.code ++ BitVec.ofBool nw ++ bf.code ++ af.code ++ p)
  | .azero y d i => encSub 0x3A y Guard.pt d 0 0 ((0 : BitVec 3) ++ (if i then (5 : BitVec 3) else 0) ++ (0 : BitVec 12))
  | .ald y t d a b i =>
    encOps 0x3A y Guard.pt ⟨d, a, b, true⟩ 0 t.code ((1 : BitVec 3) ++ (if i then (5 : BitVec 3) else 0) ++ (0 : BitVec 12))
  | .ast y t a b c f act sc bi =>
    encOps 0x3A y Guard.pt ⟨0, a, b, true⟩ c t.code
      ((2 : BitVec 3) ++ f.code ++ act.code ++ BitVec.ofBool sc ++ BitVec.ofBool bi ++ (0 : BitVec 8))
  | .amov y t d c => encDA 0x3A y Guard.pt ⟨d, 0⟩ c t.code ((3 : BitVec 3) ++ (0 : BitVec 15))
  | .qtile y t a b c f l =>
    encOps 0x3B y Guard.pt ⟨0, a, b, true⟩ c t.code ((0 : BitVec 3) ++ f.code ++ l.code ++ (0 : BitVec 10))
  | .copy y a b c s2g none =>
    encOps 0x3C y Guard.pt ⟨0, a, b, true⟩ c 0 (BitVec.ofBool s2g ++ (0 : BitVec 17))
  | .copy y a b c s2g (some t) =>
    encOps 0x3C y Guard.pt ⟨0, a, b, true⟩ c 0 (BitVec.ofBool s2g ++ (1 : BitVec 1) ++ t ++ (0 : BitVec 10))
  | .waitc y cl n => encSub 0x3D y Guard.pt cl.code (aBits n) 0 0
  | .yieldC y cl n off => encSub 0x3D y Guard.pt cl.code (aBits n) 2 off
  | .batch y => encSub 0x3D y Guard.pt 0 0 1 0
  | .mark y n => encSub 0x3D y Guard.pt 0 0 3 ((0 : BitVec 2) ++ n)
  | .markW y n => encSub 0x3D y Guard.pt 0 0 4 ((0 : BitVec 2) ++ n)
  | .send y g a b h w => encOps 0x3D y g ⟨0, a, b, false⟩ 5 0 ((0 : BitVec 6) ++ w ++ h)
  | .bra y g off => encSub 0x3E y g 0 0 0 off
  | .jmp y a => encSub 0x3E y Guard.pt 0 a 1 0
  | .call y d off => encSub 0x3E y Guard.pt d 0 2 off
  | .ret y a => encSub 0x3E y Guard.pt 0 a 3 0
  | .mjoin y off => encSub 0x3E y Guard.pt 0 0 4 off
  | .join y => encSub 0x3E y Guard.pt 0 0 5 0
  | .exit y g => encSub 0x3E y g 0 0 6 0
  | .barArr y b w => encSub 0x3F y Guard.pt 0 0 0 (fnBar b w)
  | .barWait y b => encSub 0x3F y Guard.pt 0 0 1 ((0 : BitVec 14) ++ b)
  | .barSync y b w => encSub 0x3F y Guard.pt 0 0 2 (fnBar b w)
  | .balBurn y l (.imm n) => encSub 0x3F y Guard.pt 0 0 3 (n ++ l)
  | .balBurn y l (.reg b) => encOps 0x3F y Guard.pt ⟨0, 0, b, true⟩ 3 0 ((0 : BitVec 14) ++ l)
  | .balShunt y => encSub 0x3F y Guard.pt 0 0 4 0
  | .balHold y l => encSub 0x3F y Guard.pt 0 0 5 ((0 : BitVec 14) ++ l)
  | .trap y g k => encSub 0x3F y g 0 0 6 ((0 : BitVec 10) ++ k)
  | .rttRes y => encSub 0x3F y Guard.pt 0 0 7 0
  | .rttSkip y => encSub 0x3F y Guard.pt 0 0 7 1
  | .rttKill y => encSub 0x3F y Guard.pt 0 0 7 2
  | .getsr y g d k r => encOps 0x3F y g ⟨d, 0, 0, k⟩ 8 0 (fnIdx r)
  | .setsr y b bk r => encOps 0x3F y Guard.pt ⟨0, 0, b, bk⟩ 9 0 (fnIdx r)
  | .qend y => encSub 0x3F y Guard.pt 0 0 10 0
  | .clauseHeader w => [w]
  | _ => []

/-- Word 0 of an instruction, the datum of its cause 0x01 and 0x03 traps (R210). -/
def encodeWord0 (i : Instr) : Word := (encode i).headD 0

/-- How many instruction words an instruction takes (R95). -/
def wordCount (i : Instr) : Nat := (encode i).length

/-- Whether a constructor is an event of an agent that is not a team: it has no words. -/
def isEvent (i : Instr) : Bool := (encode i).isEmpty

/-! ### Clause headers (R94, R96) -/

/-- The fields of a clause header. -/
structure Header where
  count : BitVec 4
  eng : BitVec 3
  twait : BitVec 6
  ccls : Option CCls
  cthr : BitVec 6
  drain : Bool
  yhint : Bool
  deriving DecidableEq, Repr

/-- A header word taken apart, or nothing where R96 calls it illegal by itself. -/
def decodeHeader (w : Word) : Option Header :=
  let count := w.extractLsb' 28 4
  let eng := w.extractLsb' 25 3
  let ccls := w.extractLsb' 16 3
  let cthr := w.extractLsb' 10 6
  if count == 0 || w.extractLsb' 4 4 != 0xB || w.extractLsb' 0 4 != 0 || eng == 7 then none
  else if ccls == 0 then
    if cthr == 0 then some ⟨count, eng, w.extractLsb' 19 6, none, 0, w.getLsbD 9, w.getLsbD 8⟩ else none
  else
    match CCls.ofCode ((0 : BitVec 4) ++ ccls) with
    | some c => some ⟨count, eng, w.extractLsb' 19 6, some c, cthr, w.getLsbD 9, w.getLsbD 8⟩
    | none => none

/-- A header put together (R94). -/
def encodeHeader (h : Header) : Word :=
  h.count ++ h.eng ++ h.twait
    ++ (match h.ccls with
        | none => (0 : BitVec 3)
        | some .cpy => 1
        | some .mtx => 2
        | some .msg => 3)
    ++ h.cthr ++ BitVec.ofBool h.drain ++ BitVec.ofBool h.yhint ++ (0xB : BitVec 4) ++ (0 : BitVec 4)

/-- The engine class of the instruction that begins with these words (R94, R108, R112); none where its opcode
or sub-operation is reserved. -/
def engOf (w0 w1 : Word) : Option (BitVec 3) :=
  let f := Fields.ofWords w0 w1
  let n := f.op.toNat
  if reservedOp f.op then none
  else if n ≤ 0x17 then some 0
  else if n ≤ 0x24 then some 1
  else if n ≤ 0x2D then some 0
  else if n ≤ 0x37 then some 2
  else if n ≤ 0x3B then some 3
  else if n == 0x3C then some 4
  else if n == 0x3D then
    match f.c.toNat with
    | 0 | 2 => some 5
    | 1 => some 3
    | 3 | 4 => some 4
    | 5 => some 6
    | _ => none
  else some 5

end Sys2Proof
end

