-- ==== Sys2Proof/Config.lean ====
section
/-! DEFINITION. What a device fixes (R1, R36, R44 to R58) and the free values: constants without a body that
stand where the spec states no value, so that no proof can lean on one. -/

namespace Sys2Proof.Config

/-- Cores, piers and stiles of the part (R1, R2). -/
def numCores : Nat := 192
def numPiers : Nat := 48
def numSlices : Nat := 48
/-- Functions 0 to 64 (R326), queues of a function (R64), partitions (R329), address spaces (R245). -/
def numFunctions : Nat := 65
def numQueues : Nat := 64
def numPartitions : Nat := 16
def numAsids : Nat := 1024
/-- Cycles of a window (R36). -/
def windowCycles : Nat := 1250
/-- Windows of a boost and of its cool-down (R52). -/
def boostWindows : Nat := 40
def coolWindows : Nat := 200
/-- A clamp of 100 µs in cycles (R50, R5). -/
def clampCycles : Nat := 125000
/-- Records a team holds (R204), entries of the mark-join stack (R139) and of the store buffer (R254). -/
def maxRecords : Nat := 8
def maxStack : Nat := 256
def maxStoreBuffer : Nat := 64
/-- Entries of the TLB of a core and of a pier (R247). -/
def coreTlb : Nat := 256
def pierTlb : Nat := 4096
/-- Instructions of a predicted window (R144), and open cycles from a branch's last pass to its outcome (DESIGN CHOICE,
log 15: R143 gives no number). -/
def maxWindow : Nat := 8
def outcomeCycles : Nat := 8
/-- Messages of an inbox (R86) and the largest value of a counter (R298). -/
def inboxSize : Nat := 64
def maxCounter : Nat := 63
/-- The greedy limit and the starvation threshold (R30). -/
def greedyLimit : Nat := 4096
def starvationLimit : Nat := 65536
/-- Bytes of a slice (R241). -/
def sliceBytes : Nat := 0x800000
/-- Launches a queue may have in flight (R69). -/
def maxInflight : Nat := 16

/-- FREE VALUE (log 4). Which of the lanes still waiting is next in one atomic (R232, R253), by draw. -/
opaque laneChoice : Nat → Nat

/-- FREE VALUE (log 4). Whether an aligned 8-byte unit that a fault, a drop or a race touches holds its new
value (R305, R307, R315), by draw. -/
opaque unitNew : Nat → Bool

/-- FREE VALUE (log 11). The count of the identity −0.0 where a scan or reduction has no operand (R158). -/
opaque identityCount : BitVec 6

/-- FREE VALUE (log 5). The next value of a leaf's 16-bit steal register (R81 names no taps). -/
opaque stealNext : BitVec 16 → BitVec 16

/-- FREE VALUE (log 6). A measured current in mA or voltage in mV of the census (R35, R63), by sensor and draw. -/
opaque measured : Nat → Nat → Nat

/-- FREE VALUE (log 7). The digest of a measurement (R342), by measurement number and what is measured. -/
opaque digest : Nat → Nat → Nat

/-- FREE VALUE (log 7). A signature or key derived in the SPDM session (R342), by algorithm, message and draw. -/
opaque signature : Nat → Nat → Nat → Nat

/-- FREE VALUE (log 7). The ECDSA and the LMS public key of the device certificate (R342). -/
opaque deviceKey : Nat
opaque lmsKey : Nat

/-- FREE VALUE (log 8). The bank and row that a channel's unit lies in (R344 gives counts, no map). -/
opaque rowOf : Nat → Nat → Nat × Nat

/-- FREE VALUE (log 8). Whether an access to package memory activates its row (R344), by draw. -/
opaque activates : Nat → Bool

/-- FREE VALUE (log 8). The rows that the transfers of a checkpoint or of a context leave counted (R224, R336, R344), by draw: channel,
bank, row, count. -/
opaque countedRows : Nat → List (Nat × Nat × Nat × Nat)

/-- FREE VALUE (log 62). The bytes that the save of a block leaves in its context areas (R224, R226), by draw: offset in the pool, byte. -/
opaque savedContext : Nat → List (Nat × BitVec 8)

/-- FREE VALUE (log 20). Whether a core's instruction cache still holds a word that a store has changed (R114), by draw. -/
opaque codeKept : Nat → Bool

/-- FREE VALUE (log 9). The value a field with no stated layout or content reads as, by place and draw
(configuration registers of the standard MSI-X and PCIe headers, R326). -/
opaque other : Nat → Nat → Nat

/-- Physical tiles of a quadrant (R278), and the instructions that its matrix unit queues (R279). -/
abbrev physTiles : Nat := 64
abbrev mtxQueue : Nat := 8

end Sys2Proof.Config
end

