-- ==== Sys2Proof/Machine/State.lean ====
section
/-! DEFINITION. The state of the machine as plain data: everything the spec gives the 712 (INVENTORY.md lists
it with rules and reset values), the reasons a step can stop, and the state after reset (R345). -/

namespace Sys2Proof.Machine

/-- Why the machine could stop with a fault: nothing raises one, since every stop of a team, block or queue
that the spec describes is a state (traps R204, kills R219, freezes R220). Safe. -/
inductive Fault where
  deriving DecidableEq, Repr

/-- Why an instruction has no meaning. -/
inductive Refusal where
  /-- Raised by an arm of `exec` whose instruction is not modelled, by name. Safe. -/
  | notModelled (mnemonic : String)
  deriving DecidableEq, Repr

/-! ### Teams -/

/-- A v register of one lane: 32 bits and a 6-bit sound-bit count (R13, R179). -/
structure VCell where
  val : Word
  cnt : BitVec 6
  deriving DecidableEq, Repr, Inhabited

/-- A place in code: a word's address and the instructions left of its clause; 0 left is a header (R95). -/
structure CodePt where
  pc : DWord
  left : Nat
  deriving DecidableEq, Repr, Inhabited

/-- An entry of the mark-join stack (R134): `join` true is a J entry, else a P entry. -/
structure StackEntry where
  join : Bool
  start : CodePt
  mask : LaneMask
  deriving DecidableEq, Repr, Inhabited

/-- A trap record (R204). -/
structure TrapRec where
  start : CodePt
  next : CodePt
  cause : Nat
  datum : Word
  mask : LaneMask
  deriving DecidableEq, Repr, Inhabited

/-- A result on its way to the registers of a team: lanes of a v register or predicate, counts of a v register
alone (R199), an s register, FPSTAT flags (R175), or the value of a SETSR, by word for TRAPMASK (R209). -/
inductive RegWrite where
  | v (r : Nat) (cells : List (Nat × VCell))
  | c (r : Nat) (cells : List (Nat × BitVec 6))
  | p (r : Nat) (cells : List (Nat × Bool))
  | s (r : Nat) (x : Word)
  | flags (f : Word)
  | sys (r : SysReg) (xs : List (Nat × Word))
  deriving DecidableEq, Repr

/-- A fixed-latency result: the open cycle at which it is written (R103). -/
structure FixWrite where
  due : Nat
  w : RegWrite
  deriving DecidableEq, Repr

/-- The results of a tagged instruction worked out in the core (SFU, SHFL, VOTE, GRED, GSCAN, AMOV; R92). -/
structure TagWrite where
  tag : Nat
  ws : List RegWrite
  deriving DecidableEq, Repr

/-- One pass of a scratchpad instruction that is not complete (R238): its cycle and its register results. -/
structure SpadPass where
  tag : Nat
  ins : Nat
  due : Nat
  ord : MemOrd
  store : Bool
  ws : List RegWrite
  deriving DecidableEq, Repr

/-- What a pending load or atomic does (R254, R255), and the element of a tile load (R292). -/
inductive AccOp where
  | load (size : LdSize)
  | atom (op : AOp) (w64 : Bool)
  | cas (w64 : Bool)
  | tile (i : Nat) (int : Bool)
  deriving DecidableEq, Repr

/-- Where a lane's access of `n` bytes lies: its virtual address, the size of the page that translated it, 2^`log` bytes (R247),
and where its bytes are, which is one place for the two names of a device's own memory (R234). -/
structure Spot where
  va : DWord
  n : Nat
  log : Nat
  home : Nat
  deriving DecidableEq, Repr

/-- How far an access has come (R261, R266): held, sent, or performed and not yet answered. -/
inductive AccSt where
  | unsent | sent | performed
  deriving DecidableEq, Repr

/-- One lane's load or atomic (R267, R268): `ins` is its place in program order, `b` and `c` its operands,
`x` the value read once it is performed. -/
structure Access where
  seq : Nat
  ins : Nat
  tag : Nat
  lane : Nat
  op : AccOp
  d : Nat
  pa : Nat
  bytes : Nat
  spot : Spot
  ord : MemOrd
  scope : Scope
  fail : FailOrd
  dev : Bool
  b : Nat
  c : Nat
  st : AccSt
  x : Nat
  deriving DecidableEq, Repr

/-- An entry of the store buffer (R262): one 256-byte unit, the bytes held by where they lie, with the spots of the accesses that
put them there; `ins` and `last` are the places in program order of the first and the last store that it holds; `units` is how
many of its aligned 8-byte units are performed (R252). -/
structure StoreEntry where
  seq : Nat
  ins : Nat
  last : Nat
  unit : Nat
  spots : List Spot
  bytes : List Host.Cell
  ord : MemOrd
  scope : Scope
  dev : Bool
  st : AccSt
  units : Nat
  deriving DecidableEq, Repr

/-- A lane's store that has found no room in the buffer yet (R254). -/
structure WaitingStore where
  ins : Nat
  tag : Nat
  lane : Nat
  spot : Spot
  pa : Nat
  bytes : List Byte
  ord : MemOrd
  scope : Scope
  dev : Bool
  deriving DecidableEq, Repr

/-- A lane's access held on a recoverable fault (R249), by its TOKEN: what to do again on RETRY; `whole` marks an
access of AST or ALD, whose faults are the whole word's (R295); `flags` is what the element's conversion raised (R293), and
`failed` is the cause, with its datum, that one raised while the team held as many records as it can (R204). -/
structure HeldAccess where
  token : Nat
  ins : Nat
  tag : Nat
  lane : Nat
  whole : Bool
  va : DWord
  kind : AccKind
  op : Option AccOp
  d : Nat
  b : Nat
  c : Nat
  bytes : List Byte
  size : Nat
  ord : MemOrd
  scope : Scope
  fail : FailOrd
  start : CodePt
  next : CodePt
  flags : Word
  failed : Option (Nat × Word)
  deriving DecidableEq, Repr

/-- An access that a D-mode team holds until the commit (R269), with its place in program order. -/
inductive DHeld where
  | store (w : WaitingStore)
  | atom (ins : Nat) (tag : Nat) (lane : Nat) (op : AccOp) (d : Nat) (spot : Spot) (pa : Nat) (b c : Nat)
  | sts (ins : Nat) (lane : Nat) (off : Nat) (bytes : List Byte)
  | atoms (ins : Nat) (tag : Nat) (lane : Nat) (op : Option AOp) (w64 : Bool) (d : Nat) (off : Nat) (b c : Nat)
  deriving DecidableEq, Repr

/-- An item of the cpy, mtx or msg counter (R298): what it stands for, and whether that is complete. -/
structure CntItem where
  key : Nat
  done : Bool
  deriving DecidableEq, Repr

/-- The special state of a window (R277): none, an infinity or NaN. -/
inductive Special where
  | none | inf (neg : Bool) | nan
  deriving DecidableEq, Repr

/-- One element of a tile (R277): value, count, window integer, the window's exponent, its largest floor, its
special state and the k-steps since the last promotion. -/
structure Elem where
  val : Word
  cnt : BitVec 6
  win : Int
  xw : Option Int
  fw : Option Int
  sw : Special
  nw : Nat
  deriving DecidableEq, Repr

/-- A tile of one word (R277): the number of its physical tile, its type and its 256 elements, row by row. -/
structure Tile where
  no : Nat
  int : Bool
  elems : List Elem
  deriving DecidableEq, Repr

/-- A physical tile in use (R278): its number, and the team, the name and the word that it was bound for. -/
structure PhysTile where
  no : Nat
  uid : Nat
  name : Nat
  word : Nat
  deriving DecidableEq, Repr

/-- A matrix instruction not done (R279, R288, R289): its team, its batch plus 1 (0 for one that no batch holds), its busy
cycles left and the physical tiles it uses. -/
structure MtxWork where
  uid : Nat
  batch : Nat
  busy : Nat
  uses : List Nat
  deriving DecidableEq, Repr

/-- What an instruction does in one lane: its results, the flags it raises, or a trap instead. -/
structure LaneRes where
  vs : List (Nat × VCell)
  ps : List (Nat × Bool)
  flags : Word
  trap : Option (Nat × Word)
  deriving DecidableEq, Repr

/-- What keeps a team from issuing (R29), beyond DLY: `matrix` a full queue, a tile that is filled, or no physical tile for the
words of a name (R278, R279; `fresh` and `make` as a `TileUse` has them); `finish` that its last matrix instructions are not done
(R289); `walker` that its pier's table walker is frozen (R220; log 109); `rep` of a clause wait says that its first instruction
reports a copy fault (R307). -/
inductive Wait where
  | none
  | clause (hdr : DWord) (tags : Nat) (cls : Option CCls) (thr : Nat) (drain : Bool) (rep : Bool)
  | counter (cls : CCls) (n : Nat)
  | yielded (cls : CCls) (n : Nat) (resume : DWord)
  | full (cls : CCls)
  | matrix (name : Nat) (words : List Nat) (fresh make : Bool)
  | finish
  | barrier (b : Nat)
  | release (scope : Scope)
  | fence (ord : MemOrd) (scope : Scope) (ins : Nat)
  | scratch (ord : MemOrd)
  | markw (n : Nat)
  | reorder
  | parked
  | walker
  | commit (i : Instr)
  deriving DecidableEq, Repr

/-- Whether a team is in use: vacant, resident, ended (R22), or frozen by a violation (R220). -/
inductive TeamSt where
  | vacant | resident | ended | frozen
  deriving DecidableEq, Repr

/-- What the launch fixes for its teams and blocks (R17, R65, R70). -/
structure Desc where
  kernel : DWord
  gridx : Nat
  gridy : Nat
  gridz : Nat
  teamw : Nat
  groupw : Nat
  teams : Nat
  regs : Nat
  cls : Nat
  prio : Nat
  idem : Bool
  dmode : Bool
  csb : Bool
  scratch : Nat
  quant : Nat
  setout : DWord
  setoutn : Nat
  argn : Nat
  tenant : Nat
  fpctl0 : Word
  sbthr0 : Word
  traph : DWord
  asid : Nat
  part : Nat
  messages : Bool
  deriving DecidableEq, Repr

/-- What a predicted window issued: an instruction, or words that are none, with their trap and their length. -/
inductive WinWhat where
  | instr (i : Instr)
  | word (cause : Nat) (datum : Word) (len : Nat)
  deriving DecidableEq, Repr

/-- An item of a window (R144): what was issued, where it stands, and whether the header before it waits for every fixed-latency
result (R95). -/
structure WinItem where
  what : WinWhat
  start : CodePt
  drain : Bool
  deriving DecidableEq, Repr

/-- A pass of a window held in a shadow (R145): its item, the cycle at which a fixed-latency result lands or the tag of
a tagged one, whether it writes counts alone (R199), and its lanes with their results and held traps. -/
structure WinPass where
  item : Nat
  due : Nat
  tag : Option Nat
  counts : Bool
  rs : List (Nat × LaneRes)
  deriving DecidableEq, Repr

/-- A lane's LDS or STS in a window (R145): the cycle at which its pass issued (R238), `load` the size and destination of an LDS,
`bytes` the data of an STS, `kept` that the lane is not one that the prediction wrongly included (R146). -/
structure WinSpad where
  item : Nat
  cycle : Nat
  tag : Nat
  lane : Nat
  off : Nat
  load : Option (LdSize × Nat)
  bytes : List Byte
  kept : Bool
  deriving DecidableEq, Repr

/-- A selective replay under way (R146): the items still to be issued again, the lanes of both masks, those for which a team that
waited would issue the present item, and where the path goes on afterwards. -/
structure Redo where
  todo : List Nat
  keep : LaneMask
  lanes : LaneMask
  place : CodePt
  wait : Wait
  deriving DecidableEq, Repr

/-- The predicted window of a branch (R143 to R146): where the branch stands and leads, the predicted and true taken
sets, the open cycle at which the outcome is known, whether the window has ended, its items with everything that they
hold back, and the tags that they allocated. -/
structure Window where
  pc : DWord
  target : CodePt
  fall : CodePt
  pred : LaneMask
  taken : LaneMask
  active : LaneMask
  knownAt : Nat
  closed : Bool
  items : List WinItem
  passes : List WinPass
  mem : List (Nat × HeldAccess)
  spad : List WinSpad
  tags : BitVec 6
  redo : Option Redo
  deriving DecidableEq, Repr

/-- A team's slice of a collective copy (R302, R304). -/
structure Slice where
  tno : Nat
  ga : DWord
  off : Nat
  n : Nat
  s2g : Bool
  ring : Option (Nat × Nat)
  deriving DecidableEq, Repr

/-- The operands of a COPY or a SEND that has issued and waits (R103, R302, R311): a slice, or each lane's core and words. -/
inductive Kept where
  | copy (x : Slice)
  | send (ms : List (Nat × Word × List Word))
  deriving DecidableEq, Repr

/-- What kills a block (R219): the code's parts and the record's fields, or none for a kill without a record. -/
structure KillInfo where
  cause : Nat
  unitc : Nat
  grade : Nat
  wher : DWord
  data : Word
  srcid : Word
  report : Bool
  deriving DecidableEq, Repr

/-- Bytes that a lane of a store has put on their way while other lanes of it are held on a fault (R249, R253): the instruction's
place, the lane, where they lie and how many. -/
structure Laid where
  ins : Nat
  lane : Nat
  home : Nat
  n : Nat
  deriving DecidableEq, Repr

/-- A pass of a GETSR of CLOCK or MSM that is still to issue (R107): its open cycle, destination and word. -/
structure SrRead where
  at_ : Nat
  dst : Nat
  word : Nat
  sr : SysReg
  deriving DecidableEq, Repr

/-- A team (R13, R21, R225): `pins` names the physical tiles that an ALD or AST keeps, by its place in program order (R278, R295),
`opened` says that the open batch holds an MMA or MMAS (R289), `synced` is the place of a BAR.SYNC or a REORDER that has arrived
and waits, with the barrier, 16 for a REORDER, `begun` is the place of an instruction whose passes are charged while it waits
(R36), with the open cycle after the last of them, `kept` the operands of an instruction that has issued and waits, `bad` the words
of its registers and tiles with an uncorrectable error (R240), `laid` what held stores have laid down (R249, R253), `srReads` the
passes that still read a register that runs (R107). Of a D-mode team, `qacted` says that it has done something in the quantum in progress (R273) and
`dkill` keeps the trap that kills its block at the commit (R274). -/
structure Team where
  st : TeamSt
  uid : Nat
  bid : Nat
  lid : Nat
  d : Desc
  tno : Nat
  bx : Nat
  byy : Nat
  bz : Nat
  core : Nat
  quad : Nat
  slot : Nat
  handler : Bool
  age : Nat
  starve : Nat
  at_ : CodePt
  mask : LaneMask
  ended : LaneMask
  v : List (List VCell)
  p : List LaneMask
  s : List Word
  origin : List Nat
  tiles : List (List (Option Tile))
  tags : BitVec 6
  cpy : List CntItem
  mtx : List CntItem
  msg : List CntItem
  unreported : List Nat
  batch : Nat
  opened : Bool
  pins : List (Nat × List Nat)
  mark : Nat
  late : Nat
  stack : List StackEntry
  ins : Nat
  stores : List StoreEntry
  waiting : List WaitingStore
  flight : List StoreEntry
  uloc : Nat
  urem : Nat
  accesses : List Access
  fences : List (Nat × Scope)
  fix : List FixWrite
  tagged : List TagWrite
  spad : List SpadPass
  held : List HeldAccess
  draw : Word
  rndkey : DWord
  fpctl : Word
  fpstat : Word
  sbthr : Word
  replays : Word
  quant : Word
  cpyerr : Word
  amask : Bool
  hmode : Bool
  nopre : Bool
  apend : Option Word
  recs : List TrapRec
  cause : BitVec 8
  datum : Word
  trapmask : LaneMask
  trappc : DWord
  trappcHi : Option Word
  clockHi : Option Word
  rndkeyHi : Option Word
  base : Nat
  savedAmask : Bool
  last : List (Option Word)
  synced : Option (DWord × Nat)
  begun : Option (DWord × Nat)
  kept : Option Kept
  yieldAt : Option (CCls × Nat × DWord)
  burn : Nat × Nat
  burnFrom : Nat
  window : Option Window
  wait : Wait
  readyAt : Nat
  drainFirst : Bool
  named : List Nat
  tagRegs : List (Nat × Nat × Nat)
  retired : Nat
  qdone : Bool
  qacted : Bool
  dkill : Option KillInfo
  dheld : List DHeld
  laid : List Laid
  srReads : List SrRead
  bad : List CoreWord
  deriving DecidableEq, Repr

/-! ### Blocks, copies and launches -/

/-- A barrier (R152): what it expects, arrivals, phase. -/
structure Barrier where
  exp : Option BarWant
  arr : Nat
  ph : Word
  deriving DecidableEq, Repr

/-- Why a slice faulted (R307, R308): KIND 1 to 4, with the slice's team; WHERE and DATA of its record (R218). -/
structure CopyFault where
  tno : Nat
  kind : Nat
  wher : DWord
  data : Word
  deriving DecidableEq, Repr

/-- A collective copy (R304): its slices, the beats moved, its faults, the beats held on a token (token, team,
byte of its slice, reason). -/
structure Copy where
  k : Nat
  slices : List Slice
  started : Bool
  complete : Bool
  beat : Nat
  faults : List CopyFault
  holds : List (Nat × Nat × Nat × Nat × DWord)
  deriving DecidableEq, Repr

/-- How a block leaves its core at the end of a slice (R221): `nopre` is drained while a team has NOPRE set (R229). -/
inductive Leaving where
  | no | drain | nopre | flush | save
  deriving DecidableEq, Repr

/-- A block (R13, R21, R221): `ctx` holds the beats of its context that are still to move on its home core and on the mate, while
it is saved or restored (R38, R224), `spadBad` are the offsets of its scratchpad with an uncorrectable error (R240). -/
structure Block where
  live : Bool
  bid : Nat
  lid : Nat
  d : Desc
  index : Nat
  home : Nat
  pair : Bool
  handler : Bool
  spad : List Host.Cell
  bars : List Barrier
  t1 : Nat
  t2 : Nat
  t1win : Nat
  t2win : Nat
  hold : Nat
  auto : Bool
  alvl : Nat
  copies : List Copy
  supplied : List (Nat × Nat)
  reorder : List (Nat × Nat × Nat × Nat)
  issued : Bool
  cycles : Nat
  lastIssue : Nat
  kill : Option KillInfo
  killAt : DWord
  leaving : Leaving
  ctx : Option (Nat × Nat)
  leftAt : Nat
  spadBad : List Nat
  deriving DecidableEq, Repr

/-- A setting-out entry as the table gives it (R313). -/
structure SetEntry where
  issue : Nat
  due : Nat
  kind : Nat
  slice : Nat
  gaddr : DWord
  soff : Nat
  len : Nat
  gstride : Nat
  sstride : Nat
  deriving DecidableEq, Repr

/-- State of an entry that has started for a block (R316, R317, R321). -/
inductive EntSt where
  | running | complete | faulted | cancelled | held (token : Nat) (va : DWord)
  deriving DecidableEq, Repr

structure EntRun where
  bid : Nat
  index : Nat
  idx : Nat
  st : EntSt
  deriving DecidableEq, Repr

/-- A range of blocks in a leaf's queue (R79). -/
structure BlockRange where
  lid : Nat
  first : Nat
  count : Nat
  part : Nat
  prio : Nat
  noSteal : Bool
  deriving DecidableEq, Repr

/-- An accepted launch (R75): counts of its blocks, the first fault posted, whether a block that has since gone back to its queue
had issued (R82, R223), and, of a D-mode launch, the cycle after that of its last commit (R268). -/
structure Launch where
  lid : Nat
  f : Nat
  q : Nat
  tag : Word
  cmpl : Bool
  d : Desc
  args : List Word
  table : List SetEntry
  blocks : Nat
  chunk : Nat
  dealt : Nat
  ended : Nat
  killed : Nat
  fault : Option Nat
  cancelled : Bool
  ents : List EntRun
  takenAt : Nat
  num : Word
  begun : Bool
  commitAt : Nat
  deriving DecidableEq, Repr

/-- A saved block with its teams (R225). -/
structure SavedBlock where
  blk : Block
  teams : List Team
  restorePier : Option Nat
  deriving DecidableEq, Repr

/-- A message in the mesh's message channel or in an inbox (R261, R311): its sender, that team's SEND, its launch, and the queue that
the launch came from (R84). -/
structure Message where
  dst : Nat
  handler : Nat
  words : List Word
  src : Word
  uid : Nat
  key : Nat
  lid : Nat
  queue : Option (Nat × Nat)
  deriving DecidableEq, Repr

/-! ### Cores, piers and the device -/

/-- An entry of the mask predictor (R142). -/
structure PredEntry where
  valid : Bool
  addr : DWord
  taken : LaneMask
  deriving DecidableEq, Repr

/-- A quadrant (R30, R142, R278, R279, R288): `mtxq` holds the matrix instructions not done, oldest first, and `phys` the
physical tiles in use; a bound tile that is not among them lies in its team's context area. -/
structure Quad where
  current : Nat
  greedy : Nat
  busyTo : Nat
  yhint : Bool
  mtxq : List MtxWork
  phys : List PhysTile
  pred : List (Nat × PredEntry)
  deriving DecidableEq, Repr

/-- A core (R23, R39, R86, R220): estimates are sums over cycles in units of 5 mA; `floorLvl`, `ballast` and `idle`
are the floor level, the wait of all its teams and the level of idle ballast as the cycle before left them (R54, R55, R58);
`icache` holds the words of code it has fetched, by address (R114); `fixes` its corrected errors by time (R337), `failed` a failure
at bring-up (R345). -/
structure Core where
  opens : Nat
  halved : Bool
  sum : Nat
  est : Nat
  acc : Nat
  acts : List Nat
  floorLvl : Nat
  ballast : Bool
  idle : Nat
  passes : List (Nat × Nat)
  qptr : Nat
  inbox : List Message
  bteFrozen : Bool
  icache : List (Nat × Word)
  quads : List Quad
  fixes : List (Nat × Nat)
  failed : Bool
  deriving DecidableEq, Repr

/-- A bed joint (R42 to R52): `m` is the difference of the two sums of the last window; `boostOver` and `coolOver` say that the
windows of a boost or of a cool-down have run, and that its end is due. -/
structure Joint where
  m : Int
  t2count : Nat
  boost : Nat
  cool : Nat
  halves : Nat
  t2traps : Nat
  t3trips : Nat
  boostOver : Bool
  coolOver : Bool
  deriving DecidableEq, Repr

/-- A report that a leaf has for the scheduler core (R77): a block done, killed with its fault code, or saved. -/
inductive Report where
  | done (lid : Nat)
  | killed (lid bid : Nat)
  | saved (bid : Nat)
  deriving DecidableEq, Repr

/-- A leaf and its pier (R50, R77, R79, R81): `link` holds the dispatches sent and not taken; `backoff` the times
until which partitions do not ask, `stealing` those that await an answer, `asked` the askers (pier, partition). -/
structure Pier where
  clampTo : Nat
  joints : List Joint
  queue : List BlockRange
  cmdPermits : Nat
  repPermits : Nat
  shift : BitVec 16
  link : List BlockRange
  reports : List Report
  backoff : List (Nat × Nat)
  asked : List (Nat × Nat)
  stealing : List Nat
  leafFrozen : Bool
  walkerFrozen : Bool
  fixes : List (Nat × Nat)
  failed : Bool
  deriving DecidableEq, Repr

/-- A cached translation (R247), of a core's TLB or, without a core, of its pier's: pages of 2^`log` bytes. -/
structure TlbEntry where
  pier : Nat
  core : Option Nat
  asid : Nat
  vpn : Nat
  log : Nat
  frame : Nat
  dev : Bool
  ex : Bool
  wr : Bool
  rd : Bool
  dirty : Bool
  leaf : Nat
  deriving DecidableEq, Repr

/-- An ASID's registers (R327). -/
structure AsidEntry where
  root : Nat
  recov : Bool
  valid : Bool
  deriving DecidableEq, Repr

/-- What holds a recoverable fault (R249): a team, a copy or an entry; `retried` a team whose RETRY waits for its pier's frozen
table walker (R220; log 109). -/
inductive Holder where
  | team (uid : Nat)
  | retried (uid : Nat)
  | copy (bid : Nat)
  | entry (lid idx bid : Nat)
  deriving DecidableEq, Repr

/-- An invalidation accepted and not complete (R327). -/
structure Inval where
  f : Nat
  vpn : Nat
  scope : BitVec 2
  asid : Nat
  deriving DecidableEq, Repr

inductive QState where
  | idle | active | resetting | reset | faulted
  deriving DecidableEq, Repr

/-- The read-only half of a QCB as the device read it (R65). -/
structure QcbHalf where
  ringbase : DWord
  ringlog : Nat
  cmpllog : Nat
  asid : Nat
  part : Nat
  func : Nat
  tenant : Nat
  cmplbase : DWord
  priomin : Nat
  rights : Nat
  coalt : Nat
  coaln : Nat
  irqvec : Nat
  deriving DecidableEq, Repr

/-- A command as the ring gives it (R68). -/
structure Command where
  kind : Nat
  order : Bool
  cmpl : Bool
  zero : Bool
  tag : Word
  addr : DWord
  value : DWord
  deriving DecidableEq, Repr

/-- A command taken and not complete (R69): a launch by its number, or a NOP, WAIT or SIGNAL that waits. -/
structure Taken where
  n : Nat
  cmd : Command
  lid : Option Nat
  deriving DecidableEq, Repr

/-- A queue (R64 to R67, R88). -/
structure Queue where
  half : QcbHalf
  head : Word
  tail : Word
  cmplTail : Word
  chead : Word
  st : QState
  lastFault : Nat
  stopped : Bool
  frozen : Bool
  taken : List Taken
  owed : List (Word × Nat × Nat × Nat × Word)
  pending : Nat
  oldest : Nat
  idleFrom : Option Nat
  silent : Bool
  deriving DecidableEq, Repr

/-- A fault or page-request ring (R327). -/
structure Ring where
  base : DWord
  vec : Nat
  log : Nat
  tail : Word
  head : Word
  lost : Word
  deriving DecidableEq, Repr

inductive TdiSt where
  | unlocked | locked | run | error
  deriving DecidableEq, Repr

/-- A function (R326, R327, R330): `keys` are those of its session, to the device and from it (R325). -/
structure Func where
  flt : Ring
  prq : Ring
  asidsel : Nat
  asidErr : Bool
  invalSent : Word
  invalDone : Word
  fpart : Nat
  fqcb : DWord
  fasidCount : Nat
  fasidBase : Nat
  tdi : TdiSt
  snapshot : List (QcbHalf × Bool)
  bars : List DWord
  keys : Option (Nat × Nat)
  stopped : Bool
  irqs : List Nat
  queues : List Queue
  deriving DecidableEq, Repr

inductive PState where
  | unused | drained | active | draining | quarantined
  deriving DecidableEq, Repr

/-- A handler table entry and the table (R85). -/
structure HandlerEntry where
  entry : DWord
  groupw : Nat
  regs : Nat
  fpctl : Word
  trap : DWord
  deriving DecidableEq, Repr

structure HandlerTable where
  asid : Nat
  tenant : Nat
  entries : List HandlerEntry
  deriving DecidableEq, Repr

/-- A tenant table entry (R333). -/
structure Tenant where
  id : Nat
  valid : Bool
  time : Nat
  energy : Nat
  deriving DecidableEq, Repr

/-- A memory region register (R330). -/
structure Region where
  valid : Bool
  base : Nat
  sets : Nat
  deriving DecidableEq, Repr

/-- A partition (R329 to R336): `pierPtr` and `nextQueue` are where dealing goes on (R78), `energy` each tenant's
count since its slice began, a fraction of 10^9 to the mJ (R40, R335), `debts` the cycles by tenant that drained blocks owe (R222). -/
structure Partition where
  st : PState
  perr : Nat
  pairs : Nat
  slices : Nat
  regions : List Region
  ports : Nat
  asidCount : Nat
  asidBase : Nat
  ctx : Nat
  ctxn : Nat
  drain : Nat
  blklim : Nat
  pht : Nat
  pten : Nat
  ptenn : Nat
  routes : List (Bool × Nat)
  handlers : Option HandlerTable
  tenants : List Tenant
  pierPtr : Nat
  nextQueue : Nat × Nat
  holder : Option Nat
  sliceStart : Int
  energy : List (Nat × (Nat × Nat))
  debts : List (Nat × Nat)
  deriving DecidableEq, Repr

/-- A Quickset or Ashlar port (R324, R332). -/
structure Port where
  up : Bool
  training : Bool
  since : Nat
  lanes : Nat
  failed : Nat
  replays : Nat
  peer : Nat
  deriving DecidableEq, Repr

/-- A fault record in the census's recent list (R338). -/
structure RecentFault where
  code : Nat
  part : Nat
  srcid : Word
  clock : Nat
  deriving DecidableEq, Repr

/-- Row-activation counts and holds of a bank (R344). -/
structure RowCount where
  ch : Nat
  bank : Nat
  row : Nat
  count : Nat
  deriving DecidableEq, Repr

/-- Error counts of a slice (R240, R338), corrected ones by time too (R337), the offsets of uncorrectable data, and
whether its tier engine is frozen (R220). -/
structure SliceHealth where
  corrected : Nat
  uncorrectable : Nat
  fixes : List (Nat × Nat)
  scannedAt : Nat
  bad : List Nat
  failed : Bool
  tierFrozen : Bool
  deriving DecidableEq, Repr

/-- A channel's census counts (R338), its corrected errors by time too (R337). -/
structure Channel where
  alerts : Nat
  corrected : Nat
  failed : Bool
  fixes : List (Nat × Nat)
  deriving DecidableEq, Repr

/-- The firmware and the attestation state (R342, R343): `flash` is the image in flash, `version` that of the image that runs. -/
structure Firmware where
  flash : FwImage
  recovery : Bool
  version : Nat
  fused : Nat
  measured : List Nat
  replies : List (List Nat)
  deriving DecidableEq, Repr

/-- The whole machine. `cur` is the team that acts and `blk` its block; `teams` and `blocks` are the others.
`agenda`, `sel`, `free` and `hostData` are the model's own (log 1, log 4): `hostData` is what the last read of the host
returned. `frozen` names the census's requesters with their partitions, `owedLink` when both Quickset ports went down
(R324), `ckrun` the checkpoint that runs: partition, to the device, host address (R336). -/
structure State where
  agenda : List Instr
  sel : Bool
  free : Nat
  clock : DWord
  wins : Nat
  mem : List Host.Cell
  cur : Team
  blk : Block
  teams : List Team
  blocks : List Block
  saved : List SavedBlock
  launches : List Launch
  nextId : Nat
  nextToken : Nat
  ages : Nat
  cores : List Core
  piers : List Pier
  funcs : List Func
  parts : List Partition
  asids : List AsidEntry
  tlb : List TlbEntry
  holders : List (Nat × Holder)
  invals : List Inval
  invalHeld : List Inval
  channel : List Message
  devno : Nat
  numvf : Nat
  raathr : Nat
  ckhost : DWord
  ckstat : Nat
  ckdir : Bool
  ckpart : Nat
  ckrun : Option (Nat × Bool × Nat)
  qports : List Port
  aports : List Port
  rows : List RowCount
  bankHolds : List (Nat × Nat × Nat)
  slices : List SliceHealth
  channels : List Channel
  recent : List RecentFault
  frozen : List (Nat × Word × Nat)
  census : List Host.Cell
  gen : Nat
  genEnd : Nat
  owedLink : Option Nat
  hostData : Nat
  fw : Firmware
  deriving DecidableEq, Repr

/-! ### Reset (R345) -/

/-- No launch: the constants of a vacant team. -/
def Desc.none : Desc where
  kernel := 0
  gridx := 0
  gridy := 0
  gridz := 0
  teamw := 0
  groupw := 0
  teams := 0
  regs := 0
  cls := 0
  prio := 0
  idem := false
  dmode := false
  csb := false
  scratch := 0
  quant := 0
  setout := 0
  setoutn := 0
  argn := 0
  tenant := 0
  fpctl0 := 0
  sbthr0 := 0
  traph := 0
  asid := 0
  part := 0
  messages := false

/-- A team before any launch: no lane, every register zero (log 2). -/
def Team.vacant : Team where
  st := .vacant
  uid := 0
  bid := 0
  lid := 0
  d := .none
  tno := 0
  bx := 0
  byy := 0
  bz := 0
  core := 0
  quad := 0
  slot := 0
  handler := false
  age := 0
  starve := 0
  at_ := ⟨0, 0⟩
  mask := 0
  ended := 0
  v := []
  p := List.replicate 7 0
  s := List.replicate 64 0
  origin := []
  tiles := List.replicate 16 []
  tags := 0
  cpy := []
  mtx := []
  msg := []
  unreported := []
  batch := 0
  opened := false
  pins := []
  mark := 0
  late := 0
  stack := []
  ins := 0
  stores := []
  waiting := []
  flight := []
  uloc := 0
  urem := 0
  accesses := []
  fences := []
  fix := []
  tagged := []
  spad := []
  held := []
  draw := 0
  rndkey := 0
  fpctl := 0
  fpstat := 0
  sbthr := 0
  replays := 0
  quant := 0
  cpyerr := 0
  amask := false
  hmode := false
  nopre := false
  apend := none
  recs := []
  cause := 0
  datum := 0
  trapmask := 0
  trappc := 0
  trappcHi := none
  clockHi := none
  rndkeyHi := none
  base := 0
  savedAmask := false
  last := List.replicate 16 none
  synced := none
  begun := none
  kept := none
  yieldAt := none
  burn := (0, 0)
  burnFrom := 0
  window := none
  wait := .none
  readyAt := 0
  drainFirst := false
  named := []
  tagRegs := []
  retired := 0
  qdone := false
  qacted := false
  dkill := none
  dheld := []
  laid := []
  srReads := []
  bad := []

/-- No block; BALCTL at its launch values (R11), barriers without arrivals (R21). -/
def Block.vacant : Block where
  live := false
  bid := 0
  lid := 0
  d := .none
  index := 0
  home := 0
  pair := false
  handler := false
  spad := []
  bars := List.replicate 16 ⟨none, 0, 0⟩
  t1 := 10
  t2 := 16
  t1win := 10
  t2win := 16
  hold := 0
  auto := false
  alvl := 0
  copies := []
  supplied := []
  reorder := []
  issued := false
  cycles := 0
  lastIssue := 0
  kill := none
  killAt := 0
  leaving := .no
  ctx := none
  leftAt := 0
  spadBad := []

/-- A quadrant, a core, a joint and a pier after reset (R25, R42, R45, R77; the shift register is log 2's). -/
def Quad.reset : Quad := ⟨0, 0, 0, false, [], [], []⟩
def Core.reset : Core where
  opens := 0
  halved := false
  sum := 0
  est := 0
  acc := 0
  acts := []
  floorLvl := 0
  ballast := false
  idle := 0
  passes := []
  qptr := 0
  inbox := []
  bteFrozen := false
  icache := []
  quads := List.replicate 4 Quad.reset
  fixes := []
  failed := false
def Joint.reset : Joint := ⟨0, 0, 0, 0, 0, 0, 0, false, false⟩
def Pier.reset : Pier where
  clampTo := 0
  joints := List.replicate 3 Joint.reset
  queue := []
  cmdPermits := 8
  repPermits := 4
  shift := 1
  link := []
  reports := []
  backoff := []
  asked := []
  stealing := []
  leafFrozen := false
  walkerFrozen := false
  fixes := []
  failed := false

def QcbHalf.zero : QcbHalf := ⟨0, 0, 0, 0, 0, 0, 0, 0, 0, 0, 0, 0, 0⟩
/-- A queue after reset (R66, R67). -/
def Queue.reset : Queue where
  half := .zero
  head := 0
  tail := 0
  cmplTail := 0
  chead := 0
  st := .idle
  lastFault := 0
  stopped := false
  frozen := false
  taken := []
  owed := []
  pending := 0
  oldest := 0
  idleFrom := some 0
  silent := false
/-- A ring with LOG at its reset value of 4 (R327). -/
def Ring.reset : Ring := ⟨0, 0, 4, 0, 0, 0⟩
/-- A function after reset (R327, R330): no partition, interface unlocked. -/
def Func.reset : Func where
  flt := .reset
  prq := .reset
  asidsel := 0
  asidErr := false
  invalSent := 0
  invalDone := 0
  fpart := 0xFF
  fqcb := 0
  fasidCount := 0
  fasidBase := 0
  tdi := .unlocked
  snapshot := []
  bars := [0, 0, 0]
  keys := none
  stopped := false
  irqs := []
  queues := List.replicate Config.numQueues Queue.reset
/-- A partition after reset (R330): UNUSED, a drain budget of 1,000 µs, no resource. -/
def Partition.reset : Partition where
  st := .unused
  perr := 0
  pairs := 0
  slices := 0
  regions := List.replicate 4 ⟨false, 0, 0⟩
  ports := 0
  asidCount := 0
  asidBase := 0
  ctx := 0
  ctxn := 0
  drain := 1000
  blklim := 0
  pht := 0
  pten := 0
  ptenn := 0
  routes := List.replicate 256 (false, 0)
  handlers := none
  tenants := []
  pierPtr := 0
  nextQueue := (0, 0)
  holder := none
  sliceStart := 0
  energy := []
  debts := []

def SliceHealth.reset : SliceHealth := ⟨0, 0, [], 0, [], false, false⟩
def Channel.reset : Channel := ⟨0, 0, false, []⟩

/-- The machine right after a device reset, at step 5 of bring-up (R345): CENSUS_REFRESH, which gives GEN 1, is its first event;
until then configuration reads have a retry status. -/
def State.reset : State where
  agenda := []
  sel := false
  free := 0
  clock := 0
  wins := 0
  mem := []
  cur := .vacant
  blk := .vacant
  teams := []
  blocks := []
  saved := []
  launches := []
  nextId := 1
  nextToken := 0
  ages := 0
  cores := List.replicate Config.numCores Core.reset
  piers := List.replicate Config.numPiers Pier.reset
  funcs := List.replicate Config.numFunctions Func.reset
  parts := List.replicate Config.numPartitions Partition.reset
  asids := List.replicate Config.numAsids ⟨0, false, false⟩
  tlb := []
  holders := []
  invals := []
  invalHeld := []
  channel := []
  devno := 0
  numvf := 0
  raathr := 1000
  ckhost := 0
  ckstat := 0
  ckdir := false
  ckpart := 0
  ckrun := none
  qports := List.replicate 2 ⟨true, false, 0, 16, 0, 0, 0⟩
  aports := List.replicate 16 ⟨false, false, 0, 0, 0, 0, 0⟩
  rows := []
  bankHolds := []
  slices := List.replicate Config.numSlices SliceHealth.reset
  channels := List.replicate 256 Channel.reset
  recent := []
  frozen := []
  census := []
  gen := 0
  genEnd := 0
  owedLink := none
  hostData := 0
  fw := ⟨⟨0, true, true⟩, false, 0, 0, [], []⟩

end Sys2Proof.Machine
end

