-- ==== Sys2Proof/Machine/Bits.lean ====
section
/-! DEFINITION. Bit-field, sign and byte-order helpers, lanes and words of a mask (R15, R19, R20), and lists
used as tables. -/

namespace Sys2Proof.Machine

/-- Bits `hi`..`lo` of `x`. -/
def bitsOf (x hi lo : Nat) : Nat := (x >>> lo) % 2 ^ (hi + 1 - lo)

/-- `x` read as a signed value of `n` bits. -/
def signed (n x : Nat) : Int :=
  if 2 * (x % 2 ^ n) < 2 ^ n then ((x % 2 ^ n : Nat) : Int) else ((x % 2 ^ n : Nat) : Int) - (2 ^ n : Nat)

/-- The `n`-bit pattern of an integer. -/
def wrap (n : Nat) (x : Int) : Nat := (x % (2 ^ n : Nat)).toNat

/-- Little-endian bytes of a number (R4). -/
def bytesOf : Nat → Nat → List Byte
  | 0, _ => []
  | n + 1, x => BitVec.ofNat 8 x :: bytesOf n (x / 256)

/-- The number that little-endian bytes hold (R4). -/
def numOf : List Byte → Nat
  | [] => 0
  | b :: r => b.toNat + 256 * numOf r

/-- The low and high words of a 64-bit value and back (R4). -/
def lo32 (x : DWord) : Word := x.extractLsb' 0 32
def hi32 (x : DWord) : Word := x.extractLsb' 32 32
def pair64 (lo hi : Word) : DWord := hi ++ lo

def ceilDiv (a b : Nat) : Nat := (a + b - 1) / b

/-! ### Lanes -/

/-- Word `w` of a mask (R19). -/
def maskWord (m : LaneMask) (w : Nat) : Word := m.extractLsb' (32 * w) 32

/-- The words that hold a lane of the mask, ascending (R20). -/
def activeWords (m : LaneMask) : List Nat := (List.range 32).filter fun w => maskWord m w != 0

/-- The lanes of a mask that lie in word `w`, ascending. -/
def wordLanes (m : LaneMask) (w : Nat) : List Nat :=
  ((List.range 32).map (32 * w + ·)).filter fun l => m.getLsbD l

/-- The lanes of a mask, ascending. -/
def lanesOf (m : LaneMask) : List Nat := (activeWords m).flatMap (wordLanes m)

/-- The mask of one lane and of a list of lanes. -/
def laneBit (l : Nat) : LaneMask := 1#1024 <<< l
def maskOf (ls : List Nat) : LaneMask := ls.foldl (fun m l => m ||| laneBit l) 0

/-- The lowest lane of a mask, 0 when there is none. -/
def lowestLane (m : LaneMask) : Nat := (lanesOf m).headD 0

/-- Lanes 0 to n − 1. -/
def fullMask (n : Nat) : LaneMask := BitVec.ofNat 1024 (2 ^ n - 1)

/-! ### Lists as tables -/

/-- Element `i` changed by `f`, if there is one. -/
def upd {α : Type} (l : List α) (i : Nat) (f : α → α) : List α := l.modify i f

/-- An insertion sort by a key: stable, ascending. -/
def insertBy {α : Type} (key : α → Nat) (a : α) : List α → List α
  | [] => [a]
  | b :: r => if key a < key b then a :: b :: r else b :: insertBy key a r
def sortBy {α : Type} (key : α → Nat) (l : List α) : List α := l.foldl (fun acc a => insertBy key a acc) []

/-- The first element with the least key. -/
def minBy {α : Type} (key : α → Nat) : List α → Option α
  | [] => none
  | a :: r =>
    match minBy key r with
    | none => some a
    | some b => if key b < key a then some b else some a

/-- Repeats dropped, first occurrences kept. -/
def distinct {α : Type} [BEq α] (l : List α) : List α := l.foldl (fun acc a => if acc.contains a then acc else acc ++ [a]) []

end Sys2Proof.Machine
end

