-- ==== Sys2Proof/Machine/Mem.lean ====
section
/-! DEFINITION. Memory: a list of (address, byte) in one canonical form, the physical map (R233), the channel of
an address (R235), and who owns it (R234, R329). -/

namespace Sys2Proof.Machine

/-- Bytes by address: addresses strictly rising, no byte equal to what an unlisted address reads as. -/
abbrev Mem := List Host.Cell

/-- What an unlisted address reads as: zero, as slices and scratchpads are after reset and block start (R345,
R237); for package, host and peer memory the spec states no power-on contents (DESIGN CHOICE, log 3). -/
def Mem.unlisted : Byte := 0

/-- Whether the addresses rise and no listed byte is the unlisted one, from a lower bound on. -/
def Mem.wfFrom (lo : Nat) : Mem → Bool
  | [] => true
  | (a, b) :: r => decide (lo ≤ a) && b != Mem.unlisted && Mem.wfFrom (a + 1) r

/-- The canonical form. -/
def Mem.wf (m : Mem) : Bool := Mem.wfFrom 0 m

/-- The byte at an address. -/
def memRead : Mem → Nat → Byte
  | [], _ => Mem.unlisted
  | (a, b) :: r, x => if x = a then b else memRead r x

/-- A byte stored, the form kept. -/
def memWrite : Mem → Nat → Byte → Mem
  | [], a, b => if b = Mem.unlisted then [] else [(a, b)]
  | (x, c) :: r, a, b =>
    if a < x then if b = Mem.unlisted then (x, c) :: r else (a, b) :: (x, c) :: r
    else if a = x then if b = Mem.unlisted then r else (a, b) :: r
    else (x, c) :: memWrite r a b

/-- `n` bytes from an address on. -/
def memReadN (m : Mem) : Nat → Nat → List Byte
  | _, 0 => []
  | a, n + 1 => memRead m a :: memReadN m (a + 1) n

/-- Bytes stored from an address on. -/
def memWriteN (m : Mem) : Nat → List Byte → Mem
  | _, [] => m
  | a, b :: bs => memWriteN (memWrite m a b) (a + 1) bs

/-- Bytes stored one by one, each at its offset from an address. -/
def memCells (m : Mem) (base : Nat) : List (Nat × Byte) → Mem
  | [] => m
  | c :: r => memCells (memWrite m (base + c.1) c.2) base r

/-- An `n`-byte number in memory (R4). -/
def memNat (m : Mem) (a n : Nat) : Nat := numOf (memReadN m a n)
def memPut (m : Mem) (a n x : Nat) : Mem := memWriteN m a (bytesOf n x)

/-- Zeros over `n` bytes: every entry of the range dropped (R331). -/
def memZero (m : Mem) (a n : Nat) : Mem := m.filter fun c => decide (c.1 < a) || decide (a + n ≤ c.1)

/-! ### The physical map -/

/-- What a physical address names (R233). -/
inductive Place where
  | package (x : Nat)
  | host (x : Nat)
  | peer (dev off : Nat)
  | slice (s off : Nat)
  | regs (x : Nat)
  | nothing
  deriving DecidableEq, Repr

def placeOf (pa : Nat) : Place :=
  if pa < 0xC000000000 then .package pa
  else if 0x1000000000000 ≤ pa ∧ pa < 0x2000000000000 then .host (pa - 0x1000000000000)
  else if 0x2000000000000 ≤ pa ∧ pa < 0x3000000000000 then
    if bitsOf pa 39 0 < 0xC000000000 + Config.numSlices * Config.sliceBytes then .peer (bitsOf pa 47 40) (bitsOf pa 39 0)
    else .nothing
  else if 0x8000000000000 ≤ pa ∧ pa < 0x8000000000000 + Config.numSlices * Config.sliceBytes then
    .slice ((pa - 0x8000000000000) / Config.sliceBytes) ((pa - 0x8000000000000) % Config.sliceBytes)
  else if 0xF000000000000 ≤ pa ∧ pa < 0xF000001000000 + 0x100000 then .regs (pa - 0xF000000000000)
  else .nothing

/-- Physical addresses of a slice and of host memory. -/
def slicePa (s off : Nat) : Nat := 0x8000000000000 + s * Config.sliceBytes + off
def hostPa (x : Nat) : Nat := 0x1000000000000 + x % 0x1000000000000

/-- The device's own memory behind a peer-window offset (R234). -/
def peerOwn (off : Nat) : Nat :=
  if off < 0xC000000000 then off else 0x8000000000000 + (off - 0xC000000000)

/-- Where a physical address lies in `mem`: the peer window of the device itself is its own memory (R234). -/
def homeOf (devno pa : Nat) : Nat :=
  match placeOf pa with
  | .peer d off => if d = devno then peerOwn off else pa
  | _ => pa

/-- Channel sets of a region, ascending (R235). -/
def regionSets (r : Region) : List Nat := (List.range 16).filter fun j => r.sets.testBit j

/-- The channel sets that a partition's regions hold. -/
def Partition.sets (p : Partition) : List Nat := (p.regions.filter (·.valid)).flatMap regionSets

/-- Whether a package address lies in a region: it spans 48k GiB from its base (R235). -/
def inRegion (r : Region) (x : Nat) : Bool :=
  r.valid && decide (r.base * 0xC00000000 ≤ x) && decide (x < (r.base + (regionSets r).length) * 0xC00000000)

/-- Channel and unit within it of a package address in a region (R235). -/
def channelOf (r : Region) (x : Nat) : Nat × Nat :=
  let js := regionSets r
  let n := 16 * js.length
  let u := (x - r.base * 0xC00000000) / 256
  let q := u / n
  let sw := (q ^^^ (q >>> 7) ^^^ (q >>> 14) ^^^ (q >>> 21)) % 128
  let c := (u % n + sw) % n
  (16 * js.getD (c / 16) 0 + c % 16, q)

/-! ### Ownership -/

/-- Partition `p`, all its fields at reset values when there is none. -/
def State.part (s : State) (p : Nat) : Partition := s.parts.getD p .reset
def State.core (s : State) (c : Nat) : Core := s.cores.getD c .reset
def State.pier (s : State) (n : Nat) : Pier := s.piers.getD n .reset
def State.func (s : State) (f : Nat) : Func := s.funcs.getD f .reset
def State.queue (s : State) (f q : Nat) : Queue := (s.func f).queues.getD q .reset
def State.asid (s : State) (a : Nat) : AsidEntry := s.asids.getD a ⟨0, false, false⟩
def State.launch (s : State) (lid : Nat) : Option Launch := s.launches.find? fun l => l.lid = lid

/-- Whether the partition owns a pair of cores (R329). -/
def ownsPair (p : Partition) (pair : Nat) : Bool := p.pairs.testBit pair
def ownsCore (p : Partition) (c : Nat) : Bool := ownsPair p (c / 2)

/-- Whether a unit owns a register of BAR0 (R67, R327, R337), and one of BAR2 (R330), by offset (R233). -/
def funcOwned (off : Nat) : Bool :=
  decide (off < 0x400 ∨ (0x1000 ≤ off ∧ off < 0x103C) ∨ (0x1040 ≤ off ∧ off < 0x104C) ∨ (0x1050 ≤ off ∧ off < 0x1060)
    ∨ (0x4000 ≤ off ∧ off < 0x6000))
def mgmtOwned (off : Nat) : Bool :=
  if off < 0x10000 then decide (off < 0x14 ∨ (0x18 ≤ off ∧ off < 0x1C))
  else if off < 0x20000 then
    decide (off % 0x1000 < 0x00C ∨ (0x010 ≤ off % 0x1000 ∧ off % 0x1000 < 0x01C) ∨ (0x020 ≤ off % 0x1000 ∧ off % 0x1000 < 0x06C)
      ∨ (0x400 ≤ off % 0x1000 ∧ off % 0x1000 < 0x800))
  else decide (off < 0x20000 + 0x100 * Config.numFunctions ∧
    (off % 0x100 < 0x04 ∨ (0x08 ≤ off % 0x100 ∧ off % 0x100 < 0x14) ∨ (0x18 ≤ off % 0x100 ∧ off % 0x100 < 0x1C)))

/-- Whether the partition may reach what a physical address names (R234, R326, R332): none when nothing is there. A function's
registers belong to its partition; those of a function without one, and the management registers, to none (log 91). -/
def reach (s : State) (pn : Nat) (pa : Nat) : Option Bool :=
  let p := s.part pn
  let own := fun (pl : Place) =>
    match pl with
    | .package x => p.regions.any fun r => inRegion r x
    | .slice sl _ => p.slices.testBit sl
    | _ => false
  match placeOf pa with
  | .package x => some (own (.package x))
  | .host _ => some true
  | .slice sl o => some (own (.slice sl o))
  | .peer d off =>
    if d = s.devno then some (own (placeOf (peerOwn off)))
    else
      let r := p.routes.getD d (false, 0)
      some (r.1 && r.2 &&& p.ports != 0)
  | .regs x =>
    if x < 0x1000000 then
      let f := x / 0x10000
      if f ≤ s.numvf && f < Config.numFunctions && funcOwned (x % 0x10000) then
        some ((s.func f).fpart == pn || decide (Config.numPartitions ≤ (s.func f).fpart))
      else none
    else if mgmtOwned (x - 0x1000000) then some true
    else none
  | .nothing => none

/-- Whether an address counts in UREM: the host and peer windows (R261, R234). -/
def remote (pa : Nat) : Bool :=
  match placeOf pa with
  | .host _ | .peer _ _ => true
  | _ => false

/-- A byte of the device's memory by physical address (R233). -/
def State.byte (s : State) (pa : Nat) : Byte := memRead s.mem (homeOf s.devno pa)
def State.bytesAt (s : State) (pa n : Nat) : List Byte := memReadN s.mem (homeOf s.devno pa) n
def State.num (s : State) (pa n : Nat) : Nat := memNat s.mem (homeOf s.devno pa) n
def State.store (s : State) (pa : Nat) (bs : List Byte) : State :=
  { s with mem := memWriteN s.mem (homeOf s.devno pa) bs }

end Sys2Proof.Machine
end

