-- ==== Sys2Proof/Machine/Operands.lean ====
section
/-! DEFINITION. Operand forms: how a team's registers are read (R100, R116), which registers an instruction names
and of what kind (R97, R108 to R112), and the checks of R100. -/

namespace Sys2Proof

/-- v registers of a value of a type, and of a load or store size (R100, R109). -/
def IntTy.regs : IntTy → Nat
  | .int64 | .uint64 => 2
  | _ => 1
def FTy.regs : FTy → Nat
  | .fp64 => 2
  | _ => 1
def LdSize.regs : LdSize → Nat
  | .b64 => 2
  | .b128 => 4
  | _ => 1
def StSize.regs : StSize → Nat
  | .b64 => 2
  | .b128 => 4
  | _ => 1
def Machine.w64regs (w : Bool) : Nat := if w then 2 else 1

/-- Element width in bits of a matrix format (R280). -/
def MFmt.width : MFmt → Nat
  | .bf16 | .fp16 => 16
  | .f8a | .f8b | .int8 => 8
  | .f4 | .int4 => 4
def MFmt.isInt : MFmt → Bool
  | .int8 | .int4 => true
  | _ => false
def SpN.n : SpN → Nat
  | .n6 => 6
  | .n8 => 8
  | .n12 => 12

end Sys2Proof

namespace Sys2Proof.Machine

/-! ### Reading registers -/

/-- Register `r` of lane `l`; a register or lane that is not there reads as zero. -/
def Team.rv (t : Team) (r l : Nat) : VCell := (t.v.getD r []).getD l ⟨0, 0⟩

/-- Predicate `r` of lane `l`: 7 is pt, which reads as true (R100). -/
def Team.rp (t : Team) (r l : Nat) : Bool := if r = 7 then true else (t.p.getD r 0).getLsbD l

/-- s register `r`: 127 is z, which reads as zero (R100). -/
def Team.rs (t : Team) (r : Nat) : Word := if r = 127 then 0 else t.s.getD r 0

/-- Whether a guard selects lane `l` (R97). -/
def Team.guardOn (t : Team) (g : Guard) (l : Nat) : Bool := (t.rp g.p.toNat l) != g.neg

/-- Register pairs: the even register holds the low half (R4). -/
def Team.rvPair (t : Team) (r l : Nat) : DWord := pair64 (t.rv r l).val (t.rv (r + 1) l).val
def Team.rsPair (t : Team) (r : Nat) : DWord := pair64 (t.rs r) (t.rs (r + 1))

/-- Source A of lane `l`: an s register in the uniform form (R101). -/
def Team.srcA (t : Team) (u : Bool) (r : Reg) (l : Nat) : Word :=
  if u then t.rs r.toNat else (t.rv r.toNat l).val
def Team.srcA64 (t : Team) (u : Bool) (r : Reg) (l : Nat) : DWord :=
  if u then t.rsPair r.toNat else t.rvPair r.toNat l

/-- Source B of lane `l`, of the kind BK names (R97). -/
def Team.srcB (t : Team) (bk : Bool) (r : Reg) (l : Nat) : Word :=
  if bk then t.rs r.toNat else (t.rv r.toNat l).val
def Team.srcB64 (t : Team) (bk : Bool) (r : Reg) (l : Nat) : DWord :=
  if bk then t.rsPair r.toNat else t.rvPair r.toNat l

/-- A v register's cell, or an s register as an untracked value (R162): source B of floating-point work. -/
def Team.cellB (t : Team) (bk : Bool) (r : Reg) (l : Nat) : VCell :=
  if bk then ⟨t.rs r.toNat, 63⟩ else t.rv r.toNat l

/-! ### The registers an instruction names -/

/-- A use of `n` registers of a kind from `r` on, a multiple of `al`, as a source or a destination. -/
structure Use where
  kind : OpKind
  r : Nat
  n : Nat
  al : Nat
  dst : Bool
  deriving DecidableEq, Repr

/-- Whether a use breaks R100, for a team that declared `regs` v registers (R18). -/
def Use.bad (u : Use) (regs : Nat) : Bool :=
  match u.kind with
  | .v => decide (u.r % u.al ≠ 0) || decide (regs < u.r + u.n)
  | .s =>
    if u.n = 1 then if u.dst then decide (64 ≤ u.r) else decide (64 ≤ u.r) && u.r != 127
    else decide (u.r % u.al ≠ 0) || decide (64 < u.r + u.n)
  | .p => if u.dst then decide (7 ≤ u.r) else decide (8 ≤ u.r)
  | .tile => decide (16 ≤ u.r)

def useV (r : Reg) (n al : Nat) : Use := ⟨.v, r.toNat, n, al, false⟩
def useS (r : Reg) (n al : Nat) : Use := ⟨.s, r.toNat, n, al, false⟩
def useP (r : Nat) : Use := ⟨.p, r, 1, 1, false⟩
def defV (r : Reg) (n al : Nat) : Use := ⟨.v, r.toNat, n, al, true⟩
def defS (r : Reg) (n al : Nat) : Use := ⟨.s, r.toNat, n, al, true⟩
def defP (r : Nat) : Use := ⟨.p, r, 1, 1, true⟩
def useT (r : Reg) (dst : Bool) : Use := ⟨.tile, r.toNat, 1, 1, dst⟩

/-- D, A or C of the kind that U gives, `n` registers (R101). -/
def useU (u : Bool) (r : Reg) (n : Nat) : Use := if u then useS r n n else useV r n n
def defU (u : Bool) (r : Reg) (n : Nat) : Use := if u then defS r n n else defV r n n
/-- B of the kind BK names. -/
def useB (bk : Bool) (r : Reg) (n : Nat) : Use := if bk then useS r n n else useV r n n

/-- A, B, D of a two-source form. -/
def uses2 (u : Bool) (o : Ops) (n : Nat) : List Use := [useU u o.a n, useB o.bk o.b n, defU u o.d n]
/-- A, D of a one-source form. -/
def uses1 (u : Bool) (o : OpsDA) : List Use := [useU u o.a 1, defU u o.d 1]
/-- A, B, C, D of a three-source form. -/
def uses3 (u : Bool) (o : Ops) (c : Reg) (n : Nat) : List Use :=
  [useU u o.a n, useB o.bk o.b n, useU u c n, defU u o.d n]

/-- Metadata registers of an MMAS: ceil(N × G / 12) with G = 32 / w (R281). -/
def metaRegs (w : Nat) (n : SpN) : Nat := ceilDiv (n.n * (32 / w)) 12

/-- The s register of a format-block descriptor. -/
def useDesc (d : Option (BitVec 6)) : List Use :=
  match d with
  | none => []
  | some r => [⟨.s, r.toNat, 1, 1, false⟩]

/-- The registers an instruction names, sources in the order A, B, C and then destinations, without its guard;
`gw` is the group width, which decides whether VOTE.BALLOT writes a pair (R157). A REORDER names its key and its live mask's s
registers, not the v registers that the mask lists (R104; log 123). -/
def uses (gw : Nat) : Instr → List Use
  | .nopShort .. | .nopLong .. => []
  | .iaddShort _ o | .isubShort _ o | .imulShort _ o | .iminShort _ o | .imaxShort _ o | .andShort _ o
  | .orShort _ o | .xorShort _ o | .shlShort _ o | .shrShort _ o | .sarShort _ o => uses2 false o 1
  | .iaddLong _ _ o _ u | .isubLong _ _ o _ u | .imulLong _ _ o u | .imulh _ _ o _ u | .iminLong _ _ o _ u
  | .imaxLong _ _ o _ u | .andLong _ _ o u | .orLong _ _ o u | .xorLong _ _ o u | .shlLong _ _ o u
  | .shrLong _ _ o u | .sarLong _ _ o u | .bfx _ _ o _ u | .rot _ _ o u => uses2 u o 1
  | .imad _ _ o c u | .bfi _ _ o c u => uses3 u o c 1
  | .popc _ _ o u | .clz _ _ o u | .brev _ _ o u | .notB _ _ o u | .iabs _ _ o u | .ineg _ _ o u => uses1 u o
  | .icmp _ _ o _ => [useV o.a 1 1, useB o.bk o.b 1, defP o.d.toNat]
  | .movShort _ d b bk => [useB bk b 1, defV d 1 1]
  | .movLong _ _ d b bk u => [if u then useS b 1 1 else useB bk b 1, defU u d 1]
  | .li _ _ d u _ => [defU u d 1]
  | .iaddi _ _ o u _ => uses1 u o
  | .sel _ _ o cp _ => [useV o.a 1 1, useB o.bk o.b 1, useP cp.toNat, defV o.d 1 1]
  | .lea _ _ o _ _ u => [useU u o.a 2, useB o.bk o.b 1, defU u o.d 2]
  | .iaddW _ _ o u | .isubW _ _ o u => uses2 u o 2
  | .shlW _ _ o u | .shrW _ _ o u => [useU u o.a 2, useB o.bk o.b 1, defU u o.d 2]
  | .imulWl _ _ o _ u => [useU u o.a 1, useB o.bk o.b 1, defU u o.d 2]
  | .pand _ _ d a b _ _ | .por _ _ d a b _ _ | .pxor _ _ d a b _ _ => [useP a.toNat, useP b.toNat, defP d.toNat]
  | .pnot _ _ d a _ => [useP a.toNat, defP d.toNat]
  | .pget _ _ d => (List.range 7).map useP ++ [defV d 1 1]
  | .pset _ _ a => useV a 1 1 :: (List.range 7).map defP
  | .icvt _ _ o src dst _ u => [useU u o.a src.regs, defU u o.d dst.regs]
  | .rnd _ _ d key =>
    (match key with
     | some a => [useS a 2 2]
     | none => []) ++ [defV d 1 1]
  | .faddShort _ o | .fsubShort _ o | .fmulShort _ o => uses2 false o 1
  | .faddLong _ _ o _ _ | .fsubLong _ _ o _ _ | .fmulLong _ _ o _ _ | .fmin _ _ o _ | .fmax _ _ o _ =>
    uses2 false o 1
  | .ffma _ _ o c _ _ => uses3 false o c 1
  | .fcmp _ _ o _ => [useV o.a 1 1, useB o.bk o.b 1, defP o.d.toNat]
  | .fclass _ _ o _ => [useV o.a 1 1, defP o.d.toNat]
  | .frnd _ _ o _ _ | .ffrac _ _ o _ _ => uses1 false o
  | .frcp _ _ _ o _ | .frsq _ _ _ o _ | .fsqrt _ _ _ o _ | .fexp2 _ _ _ o _ | .flog2 _ _ _ o _
  | .fsin _ _ _ o _ | .fcos _ _ _ o _ => uses1 false o
  | .dadd _ _ o _ _ | .dmul _ _ o _ _ | .dmin _ _ o _ | .dmax _ _ o _ => uses2 false o 2
  | .dfma _ _ o c _ _ => uses3 false o c 2
  | .dcmp _ _ o _ _ => [useV o.a 2 2, useB o.bk o.b 2, defP o.d.toNat]
  | .hadd2 _ _ o _ | .hmul2 _ _ o _ | .hmin2 _ _ o _ | .hmax2 _ _ o _ => uses2 false o 1
  | .hfma2 _ _ o c _ => uses3 false o c 1
  | .f2i _ _ o _ src dst => [useV o.a src.regs src.regs, defV o.d dst.regs dst.regs]
  | .i2f _ _ o _ src dst => [useV o.a src.regs src.regs, defV o.d dst.regs dst.regs]
  | .f2f _ _ o _ src dst => [useV o.a src.regs src.regs, defV o.d dst.regs dst.regs]
  | .pack _ _ o c _ _ => [useV o.a 1 1, useV c 1 1, defV o.d 1 1]
  | .unpk _ _ o _ _ => uses1 false o
  | .dp2 _ _ o c _ | .dp4 _ _ o c _ | .dp8 _ _ o c _ => uses3 false o c 1
  | .getsb _ _ o => uses1 false o
  | .setsb _ _ d b bk => [useB bk b 1, defV d 1 1]
  | .sbcmp _ _ o _ => [useV o.a 1 1, useB o.bk o.b 1, defP o.d.toNat]
  | .shfl _ _ _ o _ => uses2 false o 1
  | .voteAll _ _ _ o | .voteAny _ _ _ o => [useP o.a.toNat, defP o.d.toNat]
  | .voteBallot _ _ _ o => [useP o.a.toNat, if gw = 64 then defV o.d 2 2 else defV o.d 1 1]
  | .voteEq _ _ _ o => [useV o.a 1 1, defP o.d.toNat]
  | .gred _ _ _ o _ _ | .gscan _ _ _ o _ _ _ => uses1 false o
  | .reorder _ a b => [useV a 1 1, useS b 4 4]
  | .ld _ _ _ o size _ _ _ => [useV o.a 2 2, defV o.d size.regs size.regs]
  | .st _ _ _ a b size _ _ _ => [useV a 2 2, useV b size.regs size.regs]
  | .lds _ _ _ o size _ => [useV o.a 1 1, defV o.d size.regs size.regs]
  | .sts _ _ _ a b size _ => [useV a 1 1, useV b size.regs size.regs]
  | .atom _ _ _ d a b _ w64 _ _ _ => [useV a 2 2, useV b (w64regs w64) (w64regs w64), defV d (w64regs w64) (w64regs w64)]
  | .cas _ _ _ d a b c w64 _ _ _ _ =>
    [useV a 2 2, useV b (w64regs w64) (w64regs w64), useV c (w64regs w64) (w64regs w64),
     defV d (w64regs w64) (w64regs w64)]
  | .atoms _ _ _ d a b op w64 _ _ =>
    [useV a 1 1, useV b (w64regs w64) (w64regs w64)]
      ++ (if op = none then [useV d (w64regs w64) (w64regs w64)] else [])
      ++ [defV d (w64regs w64) (w64regs w64)]
  | .fence .. => []
  | .mma _ d a b desc _ _ _ _ => [useV a 8 8, useV b 8 8] ++ useDesc desc ++ [useT d true]
  | .mmas _ d a b desc _ af _ _ n mreg =>
    [useV a (n.n / 2) 8, useV b 12 8] ++ useDesc desc ++ [⟨.v, mreg.toNat, metaRegs af.width n, 1, false⟩, useT d true]
  | .azero _ d _ => [useT d true]
  | .ald _ _ d a b _ => [useS a 2 2, useS b 1 1, useT d true]
  | .ast _ _ a b c _ _ _ _ => [useS a 2 2, ⟨.s, b.toNat, 4, 1, false⟩, useT c false]
  | .amov _ _ d c => [useT c false, defV d 8 8]
  | .qtile _ _ a b c _ _ => [useS a 1 1, useS b 1 1, useT c false]
  | .copy _ a b c _ rec => [useS a 2 2, useS b 1 1, if rec = none then useS c 1 1 else ⟨.s, c.toNat, 2, 1, false⟩]
  | .waitc .. | .yieldC .. | .batch .. | .mark .. | .markW .. => []
  | .send _ _ a b _ w => useV a 1 1 :: (if w = 0 then [] else [⟨.v, b.toNat, w.toNat, 1, false⟩])
  | .bra .. => []
  | .jmp _ a | .ret _ a => [useS a 2 2]
  | .call _ d _ => [defS d 2 2]
  | .mjoin .. | .join .. | .exit .. | .barArr .. | .barWait .. | .barSync .. => []
  | .balBurn _ _ len =>
    match len with
    | .imm _ => []
    | .reg b => [useS b 1 1]
  | .balShunt .. | .balHold .. | .trap .. | .rttRes .. | .rttSkip .. | .rttKill .. => []
  | .getsr _ _ d k _ => [if k then defS d 1 1 else defV d 1 1]
  | .setsr _ b bk _ => [useB bk b 1]
  | .qend .. => []
  | _ => []

/-- Registers that SETSR may write (R105, R106). -/
def SysReg.writable : SysReg → Bool
  | .balctl | .fpctl | .fpstat | .sbthr | .trapn | .trapcause | .trapdata | .trapmask | .trappcLo | .trappcHi
  | .cpyerr | .replays | .rndkeyLo | .rndkeyHi => true
  | .lane | .word | .team | .teams | .teamw | .groupw | .blockx | .blocky | .blockz | .gridx | .gridy | .gridz
  | .core | .pier | .course | .origin | .srcid | .msm | .clockLo | .clockHi | .marks | .quant | .part | .asid => false

/-- Whether an instruction breaks R100, the format pairing and one-s-register rules of R108, R111 and R290, or the
read-only registers of R106. -/
def badOperands (t : Team) (i : Instr) : Bool :=
  (uses t.d.groupw i).any (fun u => u.bad t.d.regs)
    || match i with
       | .movLong _ _ _ _ bk u => u && !bk
       | .mma _ _ _ _ desc _ af bf _ => af.width != bf.width || af.isInt != bf.isInt || desc.isSome && af.isInt
       | .mmas _ _ _ _ desc _ af bf _ _ _ => af.width != bf.width || af.isInt != bf.isInt || desc.isSome && af.isInt
       | .setsr _ _ _ r => !SysReg.writable r
       | _ => false

/-- The v registers an instruction names as destinations (R104). -/
def destsV (gw : Nat) (i : Instr) : List Nat :=
  ((uses gw i).filter fun u => u.dst && u.kind == .v).flatMap fun u => (List.range u.n).map (u.r + ·)

/-- Bits of word 0 and of the form: DLY (R97), the primary opcode. -/
def dlyOf (i : Instr) : Nat := ((encodeWord0 i).extractLsb' 22 3).toNat
def opcodeOf (i : Instr) : Nat := ((encodeWord0 i).extractLsb' 26 6).toNat

/-- The uniform forms (R101): one pass, one result in an s register. -/
def isUniform : Instr → Bool
  | .iaddLong _ _ _ _ u | .isubLong _ _ _ _ u | .imulLong _ _ _ u | .imad _ _ _ _ u | .imulh _ _ _ _ u
  | .iminLong _ _ _ _ u | .imaxLong _ _ _ _ u | .andLong _ _ _ u | .orLong _ _ _ u | .xorLong _ _ _ u
  | .shlLong _ _ _ u | .shrLong _ _ _ u | .sarLong _ _ _ u | .popc _ _ _ u | .clz _ _ _ u | .brev _ _ _ u
  | .bfx _ _ _ _ u | .bfi _ _ _ _ u | .rot _ _ _ u | .notB _ _ _ u | .iabs _ _ _ u | .ineg _ _ _ u
  | .movLong _ _ _ _ _ u | .li _ _ _ u _ | .iaddi _ _ _ u _ | .lea _ _ _ _ _ u | .iaddW _ _ _ u
  | .isubW _ _ _ u | .shlW _ _ _ u | .shrW _ _ _ u | .imulWl _ _ _ _ u | .icvt _ _ _ _ _ _ u => u
  | _ => false

/-- Whether an instruction takes one pass (R20): uniform, or unguarded, and naming no v register, predicate or tile. RND and
the matrix instructions take a pass for each word. -/
def onePass (t : Team) (i : Instr) (g : Guard) : Bool :=
  isUniform i || (g.p == 7 && !((uses t.d.groupw i).any fun u => u.kind == .v || u.kind == .p || u.kind == .tile))

/-- The words an instruction's passes run on, in order (R20). -/
def passWords (t : Team) (i : Instr) (g : Guard) : List Nat :=
  if onePass t i g then (activeWords t.mask).take 1 else activeWords t.mask

/-- The current of one pass, in units of 5 mA (R37, R38), by primary opcode. -/
def passCurrent (op : Nat) : Nat :=
  if op = 0x00 then 0
  else if op = 0x20 then 220
  else if op = 0x1E then 120
  else if (0x18 ≤ op ∧ op ≤ 0x1F) ∨ (0x21 ≤ op ∧ op ≤ 0x24) then 110
  else if op = 0x32 ∨ op = 0x33 ∨ op = 0x36 then 80
  else if (0x30 ≤ op ∧ op ≤ 0x37) then 60
  else 70

end Sys2Proof.Machine
end

