-- ==== Sys2Proof/Machine/Flags.lean ====
section
/-! DEFINITION. Status and control registers: the bits each keeps (R11, R12, R175, R176, R201, R208, R209, R308),
the FPSTAT flags and the causes they trap with (R177). -/

namespace Sys2Proof.Machine

/-! ### FPSTAT flags (R175) -/

def flagIV : Word := 0x01
def flagDZ : Word := 0x02
def flagOF : Word := 0x04
def flagUF : Word := 0x08
def flagNX : Word := 0x10

/-- The cause of the lowest enabled flag among those raised, if any is enabled (R177). -/
def flagCause (fpctl f : Word) : Option Nat :=
  if (fpctl &&& f).getLsbD 0 then some 0x0A
  else if (fpctl &&& f).getLsbD 1 then some 0x0B
  else if (fpctl &&& f).getLsbD 2 then some 0x0C
  else if (fpctl &&& f).getLsbD 3 then some 0x0D
  else if (fpctl &&& f).getLsbD 4 then some 0x0E
  else none

/-- TRAPDATA of causes 0x0A to 0x0E: the register and the flags (R177). -/
def flagDatum (reg : Nat) (f : Word) : Word := (BitVec.ofNat 32 (reg % 128) <<< 16) ||| (f &&& 0x1F)

/-! ### What registers keep of a value -/

/-- FPCTL keeps CSB and the five enables, FPSTAT its flags (R175, R176). -/
def fpctlOf (x : Word) : Word := x &&& 0x11F
def fpstatOf (x : Word) : Word := x &&& 0x1F

/-- SBTHR keeps EN and θ, a θ above 24 as 24 (R201). -/
def sbthrOf (x : Word) : Word :=
  (x &&& 0x80000000) ||| (if 24 < (x &&& 0x3F).toNat then 24 else x &&& 0x3F)

/-- CPYERR written by SETSR: V is cleared by a one, the RW fields take the value (R308). -/
def cpyerrSet (old x : Word) : Word :=
  ((old &&& ~~~ x) &&& 0x80000000) ||| (x &&& 0x073FFC00)

/-- Whether the checking scoreboard is on, and the enables (R104, R176). -/
def Team.csb (t : Team) : Bool := t.fpctl.getLsbD 8

/-- BALCTL as one word, and a write of it: limits only fall, 0 counts as 1 (R11, R12). AUTO and ALVL take
force as the write lands, the limits with the next window (log 94). -/
def Block.balctl (b : Block) : Word :=
  BitVec.ofNat 32 (b.t2 * 2 ^ 21 + b.t1 * 2 ^ 16 + b.hold * 2 ^ 8 + (if b.auto then 16 else 0) + b.alvl)
def Block.setBalctl (b : Block) (x : Word) : Block :=
  let t1 := Nat.max 1 (bitsOf x.toNat 20 16)
  let t2 := Nat.max 1 (bitsOf x.toNat 25 21)
  { b with t1 := Nat.min b.t1 t1, t2 := Nat.min b.t2 t2, auto := x.getLsbD 4, alvl := bitsOf x.toNat 3 0 }

/-- TRAPN as one word (R208). -/
def Team.trapn (t : Team) : Word :=
  BitVec.ofNat 32 ((if t.hmode then 2 ^ 31 else 0) + (if t.amask then 2 ^ 30 else 0) + (if t.nopre then 2 ^ 29 else 0)
    + (if t.apend.isSome then 2 ^ 28 else 0) + t.recs.length)

/-- The lanes that a one clears in a word of TRAPMASK (R209). -/
def clearWord (m : LaneMask) (wx : Nat × Word) : LaneMask :=
  let bits : LaneMask := wx.2.setWidth 1024
  m &&& ~~~ (bits <<< (32 * wx.1))

/-- Causes for which TRAPDATA has a map, whose every field is RO (R48, R93, R164, R177, R271, R312, R319). -/
def mappedCause (c : BitVec 8) : Bool :=
  c == 0x04 || c == 0x09 || decide (0x0A ≤ c ∧ c ≤ 0x0E) || c == 0x10 || c == 0x12 || c == 0x15 || c == 0x16

/-- A SETSR landing in a team's registers (R209, R215): `xs` gives one value, or one for each word (TRAPMASK).
Identity and read-only registers take nothing; BALCTL is the block's. TRAPDATA takes nothing where the map of its cause gives every
field RO (R105, R215; log 115). -/
def Team.sysWrite (t : Team) (r : SysReg) (xs : List (Nat × Word)) : Team :=
  let x := (xs.headD (0, 0)).2
  match r with
  | .fpctl => { t with fpctl := fpctlOf x }
  | .fpstat => { t with fpstat := fpstatOf x }
  | .sbthr => { t with sbthr := sbthrOf x }
  | .trapn => { t with amask := x.getLsbD 30, nopre := x.getLsbD 29 }
  | .trapcause => { t with cause := x.setWidth 8 }
  | .trapdata => { t with datum := if mappedCause t.cause then t.datum else x }
  | .trapmask =>
    { t with trapmask := xs.foldl clearWord t.trapmask }
  | .trappcLo => { t with trappc := pair64 x (hi32 t.trappc) }
  | .trappcHi => { t with trappc := pair64 (lo32 t.trappc) x }
  | .cpyerr => { t with cpyerr := cpyerrSet t.cpyerr x }
  | .replays => { t with replays := x }
  | .rndkeyLo => { t with rndkey := pair64 x (hi32 t.rndkey) }
  | .rndkeyHi => { t with rndkey := pair64 (lo32 t.rndkey) x }
  | .balctl | .lane | .word | .team | .teams | .teamw | .groupw | .blockx | .blocky | .blockz | .gridx | .gridy
  | .gridz | .core | .pier | .course | .origin | .srcid | .msm | .clockLo | .clockHi | .marks | .quant | .part
  | .asid => t

/-- Fault codes (R216): grade, unit class and cause. -/
def faultCode (grade unitc cause : Nat) : Nat := grade * 2 ^ 14 + unitc * 2 ^ 8 + cause

/-- Grade of a kill by a trap (R217): R for an idempotent launch, else C; cause 0x17 is always C. -/
def killGrade (d : Desc) (cause : Nat) : Nat := if cause = 0x17 then 1 else if d.idem then 0 else 1

end Sys2Proof.Machine
end

