-- ==== Sys2Proof/Machine/Ops.lean ====
section
/-! DEFINITION. The shared operations of a team: results and when they land (R92, R103), traps and taking them
(R204 to R207, R211), the end of paths, teams and barrier phases (R137, R22, R152), passes and their current
(R20, R38), and the runners that carry an instruction over its lanes. -/

namespace Sys2Proof.Machine

/-- Open cycles of the current team's core so far: the time base of latencies and DLY (R103). -/
def State.now (s : State) : Nat := (s.core s.cur.core).opens

/-- Bit of a scoreboard tag, 0 to 5 (R91). -/
def tagIndex (t : Tag) : Nat := t.code.toNat - 1
def tagBit (n : Nat) : BitVec 6 := 1#6 <<< n

/-! ### Results landing -/

/-- Cells of a register put in place. -/
def setCells (l : List VCell) (cells : List (Nat × VCell)) : List VCell := cells.foldl (fun l c => l.set c.1 c.2) l

/-- Counts of a register put in place, the values left. -/
def setCounts (l : List VCell) (cells : List (Nat × BitVec 6)) : List VCell :=
  cells.foldl (fun l c => upd l c.1 fun x => { x with cnt := c.2 }) l

/-- Lanes of a predicate put in place. -/
def setPreds (m : LaneMask) (cells : List (Nat × Bool)) : LaneMask :=
  cells.foldl (fun m c => if c.2 then m ||| laneBit c.1 else m &&& ~~~ laneBit c.1) m

/-- Whether a word with an error is among those of a register that are written (R240). -/
def CoreWord.hit (e : CoreWord) (k : OpKind) (r : Nat) (lanes : List Nat) : Bool := e.kind == k && e.r == r && lanes.contains e.lane

/-- One result written to the team's registers; what it replaces has no error any more (R240). -/
def Team.put (t : Team) : RegWrite → Team
  | .v r cells => { t with v := upd t.v r fun l => setCells l cells, bad := t.bad.filter fun e => !(CoreWord.hit e .v r (cells.map (·.1))) }
  | .c r cells => { t with v := upd t.v r fun l => setCounts l cells }
  | .p r cells => { t with p := upd t.p r fun m => setPreds m cells, bad := t.bad.filter fun e => !(CoreWord.hit e .p r (cells.map (·.1))) }
  | .s r x => { t with s := t.s.set r x, bad := t.bad.filter fun e => !(CoreWord.hit e .s r [0]) }
  | .flags f => { t with fpstat := t.fpstat ||| f }
  | .sys r xs => t.sysWrite r xs

def Team.putAll (t : Team) (ws : List RegWrite) : Team := ws.foldl Team.put t

/-- The order in which results land: by cycle, flags after a SETSR of the same cycle, so none is lost (R178). -/
def landKey (e : FixWrite) : Nat :=
  match e.w with
  | .flags _ => 2 * e.due + 1
  | _ => 2 * e.due

/-- The fixed-latency results due by cycle `n`, in the order they land. -/
def Team.due (t : Team) (n : Nat) : List FixWrite := sortBy landKey (t.fix.filter fun e => decide (e.due ≤ n))

/-- Everything that is written to the registers by cycle `n`, in the order of its cycles: fixed-latency results and, behind those
of their cycle, the passes of scratchpad instructions (R92, R103, R238). -/
def Team.arrivals (t : Team) (n : Nat) : List FixWrite :=
  sortBy landKey ((t.fix.filter fun e => decide (e.due ≤ n))
    ++ (t.spad.filter fun p => decide (p.due ≤ n)).flatMap fun p => p.ws.map (⟨p.due, ·⟩))

/-- A scratchpad pass whose results are in the registers by cycle `n`: it is still to be completed. -/
def SpadPass.landed (p : SpadPass) (n : Nat) : SpadPass := if p.due ≤ n then { p with ws := [] } else p

/-- The team with everything due by cycle `n` in its registers (R103, R238). -/
def Team.landed (t : Team) (n : Nat) : Team :=
  ((t.arrivals n).foldl (fun t e => t.put e.w) t : Team) |> fun u =>
    { u with fix := t.fix.filter fun e => decide (n < e.due), spad := t.spad.map fun p => p.landed n }

/-- BALCTL writes among results act on the block (R12, R103). -/
def landBalctl (b : Block) (es : List FixWrite) : Block :=
  es.foldl (fun b e =>
    match e.w with
    | .sys .balctl xs => b.setBalctl (xs.headD (0, 0)).2
    | _ => b) b

/-- Whether the present cycle is open on a core (R44, R50, R51). -/
def State.openCycle (s : State) (c : Nat) : Bool :=
  let k := s.clock.toNat
  !((s.core c).halved && k % 2 = 1) && !(decide (k < (s.pier (c / 4)).clampTo) && k % 8 != 0)

/-- The open cycle of a core up to which results have landed: none lands in a cycle that is not open (R103). -/
def State.landAt (s : State) (c : Nat) : Nat :=
  if s.openCycle c then (s.core c).opens else (s.core c).opens - 1

/-- The current team with everything due by now in place. -/
def State.settle (s : State) : State :=
  { s with cur := s.cur.landed (s.landAt s.cur.core), blk := landBalctl s.blk (s.cur.due (s.landAt s.cur.core)) }

/-- What is left of an older result when a newer one to the same register lands before it (R103). -/
def RegWrite.without (old new : RegWrite) : Option RegWrite :=
  match old, new with
  | .v r cs, .v r' ds =>
    if r = r' then
      match cs.filter fun c => !(ds.any fun d => d.1 == c.1) with
      | [] => none
      | cs' => some (.v r cs')
    else some old
  | .v r cs, .c r' ds =>
    if r = r' then
      match cs.filter fun c => !(ds.any fun d => d.1 == c.1) with
      | [] => none
      | cs' => some (.v r cs')
    else some old
  | .p r cs, .p r' ds =>
    if r = r' then
      match cs.filter fun c => !(ds.any fun d => d.1 == c.1) with
      | [] => none
      | cs' => some (.p r cs')
    else some old
  | .s r _, .s r' _ => if r = r' then none else some old
  | _, _ => some old

/-- The register that a result is for. -/
def RegWrite.reg : RegWrite → Option (OpKind × Nat)
  | .v r _ | .c r _ => some (.v, r)
  | .p r _ => some (.p, r)
  | .s r _ => some (.s, r)
  | .flags _ | .sys _ _ => none

/-- A fixed-latency result scheduled: an older result of the register that would land later is discarded (R103). -/
def addFix (fx : List FixWrite) (e : FixWrite) : List FixWrite :=
  (fx.filterMap fun o => if e.due < o.due then (o.w.without e.w).map (⟨o.due, ·⟩) else some o) ++ [e]

def Team.schedule (t : Team) (due : Nat) (ws : List RegWrite) : Team :=
  { t with fix := ws.foldl (fun fx w => addFix fx ⟨due, w⟩) t.fix }

/-! ### What a pass reads -/

/-- The results of one pass's lanes that raised no trap, register by register. -/
def passWrites (rs : List (Nat × LaneRes)) : List RegWrite :=
  let ok := rs.filter fun r => r.2.trap.isNone
  let vr := distinct (ok.flatMap fun r => r.2.vs.map (·.1))
  let pr := distinct (ok.flatMap fun r => r.2.ps.map (·.1))
  let f : Word := ok.foldl (fun (f : Word) r => f ||| r.2.flags) 0
  vr.map (fun d => .v d (ok.filterMap fun r => (r.2.vs.find? fun x => x.1 == d).map fun x => (r.1, x.2)))
    ++ pr.map (fun d => .p d (ok.filterMap fun r => (r.2.ps.find? fun x => x.1 == d).map fun x => (r.1, x.2)))
    ++ (if f == 0 then [] else [.flags f])

/-- The counts alone of a result (R199). -/
def countsOnly : RegWrite → RegWrite
  | .v r cells => .c r (cells.map fun c => (c.1, c.2.cnt))
  | w => w

/-- What a pass of a window writes (R145). -/
def WinPass.writes (p : WinPass) : List RegWrite :=
  if p.counts then (passWrites p.rs).map countsOnly else passWrites p.rs

/-- The fixed-latency results on their way to a team, those of an open window behind the others (R145). -/
def Team.fixAll (t : Team) : List FixWrite :=
  match t.window with
  | none => t.fix
  | some w => (w.passes.filter fun p => p.tag.isNone).foldl (fun fx p => p.writes.foldl (fun fx x => addFix fx ⟨p.due, x⟩) fx) t.fix

/-- The team as a pass that issues at cycle `n` reads it (R103, R238): with the results of an open window (R145). -/
def Team.view (t : Team) (n : Nat) : Team := ({ t with fix := t.fixAll } : Team).landed n

/-! ### Which team and block act -/

/-- Every team but the current one that is resident, and with it. -/
def State.allTeams (s : State) : List Team := s.cur :: s.teams
def State.allBlocks (s : State) : List Block := s.blk :: s.blocks
def State.blockTeams (s : State) (bid : Nat) : List Team :=
  s.allTeams.filter fun t => t.bid == bid && t.st != .vacant
def State.block (s : State) (bid : Nat) : Option Block := s.allBlocks.find? fun b => b.live && b.bid == bid
def State.team (s : State) (uid : Nat) : Option Team := s.allTeams.find? fun t => t.st != .vacant && t.uid == uid

/-- Every team changed, and every block. -/
def State.mapTeams (s : State) (f : Team → Team) : State := { s with cur := f s.cur, teams := s.teams.map f }
def State.mapBlocks (s : State) (f : Block → Block) : State := { s with blk := f s.blk, blocks := s.blocks.map f }

/-- The teams of a block, and a block by name, changed. -/
def State.onBlockTeams (s : State) (bid : Nat) (f : Team → Team) : State :=
  s.mapTeams fun t => if t.bid == bid && t.st != .vacant then f t else t
def State.onBlock (s : State) (bid : Nat) (f : Block → Block) : State :=
  s.mapBlocks fun b => if b.live && b.bid == bid then f b else b
def State.onTeam (s : State) (uid : Nat) (f : Team → Team) : State :=
  s.mapTeams fun t => if t.st != .vacant && t.uid == uid then f t else t

/-- Block `bid` made the current block: a change of representation only. -/
def State.focusBlock (s : State) (bid : Nat) : State :=
  if s.blk.live && s.blk.bid == bid then s
  else
    match s.blocks.find? fun b => b.live && b.bid == bid with
    | none => s
    | some b =>
      { s with blk := b
               blocks := (if s.blk.live then [s.blk] else []) ++ s.blocks.filter fun c => !(c.live && c.bid == bid) }

/-- Team `uid` made the current team, and its block the current block; nothing where there is no such team. -/
def State.focus (s : State) (uid : Nat) : State :=
  if s.cur.st != .vacant && s.cur.uid == uid then s.focusBlock s.cur.bid
  else
    match s.teams.find? fun t => t.st != .vacant && t.uid == uid with
    | none => s
    | some t =>
      State.focusBlock { s with cur := t
                                teams := (if s.cur.st != .vacant then [s.cur] else [])
                                  ++ s.teams.filter fun c => !(c.st != .vacant && c.uid == uid) } t.bid

def State.onCore (s : State) (c : Nat) (f : Core → Core) : State := { s with cores := upd s.cores c f }
def State.onQuad (s : State) (c q : Nat) (f : Quad → Quad) : State :=
  s.onCore c fun k => { k with quads := upd k.quads q f }
def State.onPier (s : State) (n : Nat) (f : Pier → Pier) : State := { s with piers := upd s.piers n f }
def State.onFunc (s : State) (n : Nat) (f : Func → Func) : State := { s with funcs := upd s.funcs n f }
def State.onQueue (s : State) (n q : Nat) (f : Queue → Queue) : State :=
  s.onFunc n fun k => { k with queues := upd k.queues q f }
def State.onPart (s : State) (p : Nat) (f : Partition → Partition) : State := { s with parts := upd s.parts p f }
def State.onLaunch (s : State) (lid : Nat) (f : Launch → Launch) : State :=
  { s with launches := s.launches.map fun l => if l.lid = lid then f l else l }

/-- The SRCID of a team (R27). -/
def State.srcid (s : State) (t : Team) : Word :=
  BitVec.ofNat 32 (s.devno * 2 ^ 16 + t.core * 2 ^ 8 + t.quad * 32 + t.slot)

/-! ### Passes, readiness and the estimate -/

/-- `x` added to entry `k` of a list of amounts by cycle. -/
def addAt : Nat → Nat → List Nat → List Nat
  | 0, x, [] => [x]
  | 0, x, a :: r => (a + x) :: r
  | k + 1, x, [] => 0 :: addAt k x []
  | k + 1, x, a :: r => a :: addAt k x r

/-- Issue cycles of a pass: 2 for FP64, 4 for the special functions, else 1 (R184). -/
def passCycles (i : Instr) : Nat := if opcodeOf i = 0x20 then 2 else if opcodeOf i = 0x1E then 4 else 1

/-- Events of `n` passes of `w` cycles on a core, from the present open cycle on (R36). -/
def chargeRun (acts : List Nat) (n w x : Nat) : List Nat := (List.range n).foldl (fun a k => addAt (k * w) x a) acts

/-- Passes counted for a tenant in the window (R335). -/
def addPasses (ps : List (Nat × Nat)) (tenant n : Nat) : List (Nat × Nat) :=
  if ps.any fun p => p.1 = tenant then ps.map fun p => if p.1 = tenant then (p.1, p.2 + n) else p
  else ps ++ [(tenant, n)]

/-- The `n` passes of an instruction charged to the current team's core, its quadrant busy for their `m` slots. -/
def State.chargePasses (s : State) (n m w x : Nat) : State :=
  { s with cores := upd s.cores s.cur.core fun c =>
      { c with acts := chargeRun c.acts n w x
               passes := addPasses c.passes s.cur.d.tenant n
               quads := upd c.quads s.cur.quad fun q => { q with busyTo := c.opens + m * w, greedy := q.greedy + n * w } } }

/-- The place after an instruction (R95). -/
def nextPt (p : CodePt) (i : Instr) : CodePt := ⟨p.pc + BitVec.ofNat 64 (4 * wordCount i), p.left - 1⟩

/-- Instructions that end a D-mode quantum (R268). -/
def endsQuantum : Instr → Bool
  | .atom .. | .cas .. | .atoms .. | .barArr .. | .barWait .. | .barSync .. | .reorder .. | .copy .. | .waitc ..
  | .yieldC .. | .mark .. | .markW .. | .exit .. => true
  | _ => false

/-- Waits that the quantum of a D-mode team lasts through: they end by the passing of cycles alone, unless the team holds a fault
(R268, R274). -/
def Wait.byTime : Wait → Bool
  | .none | .scratch _ | .matrix .. => true
  | _ => false

/-- Whether the current team's instruction has issued and waits: its passes are charged. -/
def Team.paid (t : Team) : Bool := t.begun.any fun b => b.1 == t.at_.pc

/-- How many pass slots an instruction takes: in a selective replay those of a team that waited for the outcome (R146). -/
def State.span (s : State) (i : Instr) (n : Nat) : Nat :=
  match s.cur.window.bind (·.redo) with
  | none => n
  | some r => if onePass s.cur i .pt then n else (activeWords r.lanes).length

/-- The open cycle after the last pass of the current instruction: of the passes already charged, or of `n` from this cycle on. -/
def State.lastPass (s : State) (i : Instr) (n : Nat) : Nat :=
  if s.cur.paid then (s.cur.begun.map (·.2)).getD 0 else s.now + s.span i n * passCycles i

/-- The passes of an instruction that issues and then waits (R30, R36, R38): `begun` keeps that they are charged,
and where the last of them ends. -/
def State.begin (s : State) (i : Instr) (n : Nat) : State :=
  if s.cur.paid then s
  else
    { s with
      cores := (s.chargePasses n n (passCycles i) (passCurrent (opcodeOf i))).cores
      blk := { s.blk with issued := true, lastIssue := s.clock.toNat }
      cur := { s.cur with begun := some (s.cur.at_.pc, s.now + n * passCycles i), qacted := s.cur.qacted || s.cur.d.dmode, starve := 0 } }

/-- An instruction of `n` passes behind the team (R95, R97): it stands at the next place and is not ready for its passes
and DLY, which is counted from its last pass (R97, R103). One whose passes were charged before it waited takes no other, and the
team issues from the next open cycle on at the earliest. -/
def State.advance (s : State) (i : Instr) (n : Nat) : State :=
  let t := s.cur
  let d := dlyOf i
  let cur' : Team :=
    { t with
      at_ := nextPt t.at_ i
      readyAt := max (s.now + 1) (s.lastPass i n + (if d = 7 then 0 else d))
      drainFirst := d == 7
      wait := .none
      begun := none
      qacted := t.qacted || t.d.dmode
      starve := if t.paid then t.starve else 0 }
  { s with
    cores := if t.paid then s.cores else (s.chargePasses n (s.span i n) (passCycles i) (passCurrent (opcodeOf i))).cores
    cur := cur'
    blk := { s.blk with issued := true, lastIssue := if t.paid then s.blk.lastIssue else s.clock.toNat }
    sel := false }

/-- What the retirement of an instruction counts: its destinations as named (R104); in D-mode it counts towards the
quantum (R268). What lanes of a store have written is kept while others of it are held on a fault (R249). -/
def Team.counted (t : Team) (i : Instr) : Team :=
  { t with
    named := destsV t.d.groupw i ++ t.named
    laid := t.laid.filter fun x => t.held.any fun h => h.ins == x.ins
    retired := t.retired + 1
    qdone := t.qdone || t.d.dmode && (endsQuantum i || decide (t.d.quant ≤ t.retired + 1)) }

/-- An instruction of `n` passes retired. -/
def State.retire (s : State) (i : Instr) (n : Nat) : State :=
  let s' := s.advance i n
  { s' with cur := s'.cur.counted i }

/-- An instruction that may not act yet: the team waits where it stands (R29) and tries again. -/
def State.stall (s : State) (w : Wait) : State :=
  { s with cur := { s.cur with wait := w, qdone := s.cur.d.dmode && (!w.byTime || !s.cur.held.isEmpty) }, sel := false }

/-! ### Kills and traps -/

/-- The teams of a block stopped (R219, R223): windows and unsent stores are discarded, and what they held. -/
def State.stopBlock (s : State) (bid : Nat) : State :=
  { s.onBlockTeams bid fun t =>
      { t with window := none
               stores := t.stores.filter fun e => e.st != .unsent
               waiting := []
               held := []
               dheld := []
               accesses := t.accesses.filter fun a => a.st != .unsent } with
    sel := false
    holders := s.holders.filter fun h =>
      match h.2 with
      | .team uid | .retried uid => !(s.blockTeams bid).any fun t => t.uid = uid
      | .copy c => c != bid
      | .entry _ _ _ => true }

/-- A block killed (R219): its teams stop and its copies are abandoned. A kill of a block already killed changes
nothing. -/
def State.killWith (s : State) (bid : Nat) (k : KillInfo) : State :=
  match s.block bid with
  | none => s
  | some b => if b.kill.isSome then s else (s.onBlock bid fun b => { b with kill := some k, killAt := s.clock }).stopBlock bid

/-- The current team's block killed by a trap (R206, R211, R87): the record carries the cause, or 0x16 for a
handler team. A D-mode team's trap ends its quantum and kills the block at the commit, where the team of lowest G comes first, so
that the record does not depend on timing (R274; log 121). -/
def State.killTrap (s : State) (cause : Nat) (pc : DWord) (datum : Word) : State :=
  let c := if s.blk.handler then 0x16 else cause
  let k : KillInfo := ⟨c, 0x00, killGrade s.cur.d c, pc, datum, s.srcid s.cur, true⟩
  if s.cur.d.dmode then { s with cur := { s.cur with dkill := some (s.cur.dkill.getD k), qdone := true, wait := .none }, sel := false }
  else s.killWith s.cur.bid k

/-- The handler entered with a record (R207): its first pass waits for every fixed-latency result. -/
def Team.enter (t : Team) (r : TrapRec) : Team :=
  { t with
    savedAmask := t.amask
    amask := true
    hmode := true
    cause := BitVec.ofNat 8 r.cause
    datum := r.datum
    trappc := r.start.pc
    trapmask := r.mask
    base := t.stack.length
    mask := r.mask
    at_ := ⟨t.d.traph, 0⟩
    drainFirst := true
    begun := none
    qacted := t.qacted || t.d.dmode
    kept := none
    wait := .none }

/-- A path pushed to wait (R141), unless it has no lane. -/
def pushPath (st : List StackEntry) (p : CodePt) (m : LaneMask) : List StackEntry :=
  if m = 0 then st else ⟨false, p, m⟩ :: st

/-- The records taken (R207): the path held, the oldest record handled; the block killed without a handler. -/
def State.takeTrap (s : State) : State :=
  match s.cur.recs with
  | [] => s
  | r :: _ =>
    if s.cur.d.traph = 0 then s.killTrap r.cause r.start.pc r.datum
    else
      { s with cur := ({ s.cur with stack := pushPath s.cur.stack s.cur.at_ s.cur.mask } : Team).enter r
               blk := { s.blk with issued := true }
               sel := false }

/-- Lanes of one instruction that raise one cause. -/
structure Hit where
  cause : Nat
  datum : Word
  mask : LaneMask
  deriving DecidableEq, Repr

/-- The datum of a record of several lanes (R210): the union of FP flags, the lowest significance count with the threshold of its
pass (log 115), else the lowest lane's. -/
def joinDatum (cause : Nat) (a b : Word) : Word :=
  if 0x0A ≤ cause ∧ cause ≤ 0x0E then a ||| b
  else if cause = 0x09 then if (b &&& 0x3F).toNat < (a &&& 0x3F).toNat then b else a
  else a

/-- One lane's trap joined to the records of its instruction, one for each cause (R177, R204). -/
def addHit (hs : List Hit) (l cause : Nat) (datum : Word) : List Hit :=
  match hs with
  | [] => [⟨cause, datum, laneBit l⟩]
  | h :: r =>
    if h.cause = cause then ⟨cause, joinDatum cause h.datum datum, h.mask ||| laneBit l⟩ :: r
    else h :: addHit r l cause datum

/-- The lanes of some records. -/
def hitMask (hs : List Hit) : LaneMask := hs.foldl (fun m h => m ||| h.mask) 0

/-- Lanes of an instruction trapped, `act` carrying the others through it (R204, R205, R211): in the handler the
block is killed; a ninth record takes the trap first, with the instruction not done; the recorded lanes leave the
path, and a path left empty takes the trap. -/
def State.withHits (s : State) (i : Instr) (hs : List Hit) (act : State → State) : State :=
  match hs with
  | [] => act s
  | h :: _ =>
    if s.cur.hmode then s.killTrap h.cause s.cur.at_.pc h.datum
    else if Config.maxRecords < s.cur.recs.length + hs.length then s.takeTrap
    else
      let new := hs.map fun h => (⟨s.cur.at_, nextPt s.cur.at_ i, h.cause, h.datum, h.mask⟩ : TrapRec)
      let s' := act s
      let s'' := { s' with cur := { s'.cur with recs := s.cur.recs ++ new, mask := s'.cur.mask &&& ~~~ hitMask hs }
                           sel := false }
      if s''.cur.mask = 0 then s''.takeTrap else s''

/-- The tag an instruction allocates (R97). -/
def tagOf (i : Instr) : Option Nat :=
  match encode i with
  | w0 :: w1 :: _ =>
    if 0x28 ≤ (w0.extractLsb' 26 6).toNat ∨ (w0.extractLsb' 26 6).toNat = 0x1E then
      match (w1.extractLsb' 18 3).toNat with
      | 0 => none
      | n + 1 => some n
    else none
  | _ => none

def OpKind.code : OpKind → Nat
  | .v => 0
  | .s => 1
  | .p => 2
  | .tile => 3

/-- A tag set, with the registers it will write (R92). -/
def Team.allocate (t : Team) (i : Instr) : Team :=
  match tagOf i with
  | none => t
  | some n =>
    { t with
      tags := t.tags ||| tagBit n
      tagRegs := t.tagRegs ++ ((uses t.d.groupw i).filter fun u => u.dst && u.kind != .tile).flatMap fun u =>
        (List.range u.n).map fun k => (n, OpKind.code u.kind, u.r + k) }

/-- A tag cleared (R92). -/
def Team.clearTag (t : Team) (n : Nat) : Team :=
  { t with tags := t.tags &&& ~~~ tagBit n, tagRegs := t.tagRegs.filter fun x => x.1 != n }

/-- Results that raise nothing: an untracked v register, a pair, a predicate. -/
def resV (d : Reg) (x : Word) : LaneRes := ⟨[(d.toNat, ⟨x, 63⟩)], [], 0, none⟩
def resV64 (d : Reg) (x : DWord) : LaneRes := ⟨[(d.toNat, ⟨lo32 x, 63⟩), (d.toNat + 1, ⟨hi32 x, 63⟩)], [], 0, none⟩
def resP (d : Reg) (x : Bool) : LaneRes := ⟨[], [(d.toNat, x)], 0, none⟩
def resTrap (cause : Nat) (datum : Word) : LaneRes := ⟨[], [], 0, some (cause, datum)⟩

/-- The lanes of one pass that the guard selects, worked out on the team as the pass reads it. -/
def passLanes (t : Team) (g : Guard) (w : Nat) (f : Team → Nat → LaneRes) : List (Nat × LaneRes) :=
  ((wordLanes t.mask w).filter (t.guardOn g)).map fun l => (l, f t l)

/-- The words of an instruction's passes with their slots, in order (R20): in a selective replay the slots that they have in a team
that waited for the outcome (R146). -/
def passSlots (t : Team) (i : Instr) (g : Guard) : List (Nat × Nat) :=
  match t.window.bind (·.redo) with
  | none => (passWords t i g).zipIdx
  | some r => (passWords t i g).map fun w => (w, (passWords { t with mask := r.lanes } i g).idxOf w)

/-- Every pass: its cycle, counted from the first's, and its lanes' results (R20, R103). -/
def runPasses (t : Team) (now : Nat) (i : Instr) (g : Guard) (f : Team → Nat → LaneRes) :
    List (Nat × List (Nat × LaneRes)) :=
  (passSlots t i g).map fun wk =>
    (wk.2 * passCycles i, passLanes (t.view (now + wk.2 * passCycles i)) g wk.1 f)

/-- The traps of all passes, one record for each cause (R177, R204), pass by pass and the lower cause first (log 13). -/
def passHits (rs : List (Nat × List (Nat × LaneRes))) : List Hit :=
  rs.foldl (fun hs p =>
    (sortBy (·.2.1) (p.2.filterMap fun r => r.2.trap.map fun c => (r.1, c))).foldl
      (fun hs r => addHit hs r.1 r.2.1 r.2.2) hs) []

/-- The results of passes on their way to a team: with fixed latency, or behind the tag, which is set (R92, R103). -/
def Team.receive (t : Team) (i : Instr) (ps : List WinPass) : Team :=
  match tagOf i with
  | none => ps.foldl (fun (t : Team) p => t.schedule p.due p.writes) t
  | some n =>
    let u := t.allocate i
    { u with tagged := u.tagged ++ [⟨n, ps.flatMap WinPass.writes⟩] }

/-- The active lanes that a guard selects, each word read as its pass reads it (R103, R135). -/
def selectedLanes (t : Team) (now : Nat) (g : Guard) : LaneMask :=
  if g.p = 7 then if g.neg then 0 else t.mask
  else
    maskOf ((activeWords t.mask).zipIdx.flatMap fun wk =>
      (wordLanes t.mask wk.1).filter ((t.view (now + wk.2)).guardOn g))

/-! ### Counters (R298) -/

def Team.counter (t : Team) : CCls → List CntItem
  | .cpy => t.cpy
  | .mtx => t.mtx
  | .msg => t.msg

/-- A copy fault not yet reported whose copy has retired from cpy (R307). -/
def Team.copyFault (t : Team) : Bool := t.unreported.any fun k => !(t.cpy.any fun i => i.key = k)

/-- Whether the instruction is the first of a clause that waited on cpy, with a fault to report. -/
def Team.reportsFirst (t : Team) : Bool :=
  match t.wait with
  | .clause _ _ _ _ _ rep => rep && t.copyFault
  | _ => false

/-! ### Predicted windows (R143 to R145) -/

/-- The item that an issue in a window belongs to: a new one, or the one that a selective replay issues again (R146). -/
def Window.item (w : Window) : Nat :=
  match w.redo with
  | some r => r.todo.headD 0
  | none => w.items.length

/-- Whether the team has come to its instruction through a header that waits for every fixed-latency result (R95). -/
def Team.drained (t : Team) : Bool :=
  match t.wait with
  | .clause _ _ _ _ drain _ => drain
  | _ => false

/-- An instruction of `n` passes issued in a window (R144, R145): its tag is set, unless the issue is a replay's (R147), and
the lanes `lost` to held traps go no further in the window. -/
def State.shadowed (s : State) (w : Window) (i : Instr) (n : Nat) (lost : LaneMask) : State :=
  let t : Team := match w.redo with
    | some _ => { s.cur with window := some w }
    | none =>
      { s.cur.allocate i with window := some { w with
          items := w.items ++ [⟨.instr i, s.cur.at_, s.cur.drained⟩]
          tags := w.tags ||| (match tagOf i with
            | some k => tagBit k
            | none => 0) } }
  State.advance { s with cur := { t with mask := t.mask &&& ~~~ lost } } i n

/-- Every active lane trapped in a window, held back (R145). -/
def State.shadowTrap (s : State) (w : Window) (cause : Nat) (datum : Word) (len : Nat) : State :=
  let rs := (lanesOf s.cur.mask).map fun l => (l, resTrap cause datum)
  { s with
    cur := { s.cur with
      mask := 0
      window := some { w with
        items := w.items ++ [⟨.word cause datum len, s.cur.at_, s.cur.drained⟩]
        passes := w.passes ++ [⟨w.item, 0, none, false, rs⟩] } }
    sel := false }

/-- Every active lane trapped, nothing changed (R100, R113): at once, or held in a window. No pass is charged (log 100). -/
def State.trapAll (s : State) (i : Instr) (cause : Nat) (datum : Word) : State :=
  match s.cur.window with
  | some w => s.shadowTrap w cause datum (wordCount i)
  | none => s.withHits i [⟨cause, datum, s.cur.mask⟩] id

/-- A window that ends before an instruction, which waits for the outcome (R144). -/
def State.closeWindow (s : State) (w : Window) : State :=
  { s with cur := { s.cur with window := some { w with closed := true } }, sel := false }

/-- Instructions that end a window by what they are (R144): what is not per-lane work, or can do more than write the
registers of its lanes and access memory by plain loads and stores. -/
def endsWindow (gw : Nat) (i : Instr) : Bool :=
  isUniform i || (uses gw i).any (fun u => u.dst && u.kind == .s)
    || decide (0x38 ≤ opcodeOf i)
    || match i with
       | .fence .. | .atom .. | .cas .. | .atoms .. | .mma .. | .mmas .. | .azero .. | .ald .. | .ast .. | .amov ..
       | .qtile .. | .shfl .. | .voteAll .. | .voteAny .. | .voteBallot .. | .voteEq .. | .gred .. | .gscan ..
       | .reorder .. => true
       | _ => false

/-- Whether a window ends before an instruction (R144): 8 are in it, or it is of the kinds above, or reports a copy fault
(R307), or would end the quantum of a D-mode team (R268). -/
def Team.ends (t : Team) (w : Window) (i : Instr) : Bool :=
  decide (Config.maxWindow ≤ w.items.length) || endsWindow t.d.groupw i || t.reportsFirst
    || t.d.dmode && (endsQuantum i || decide (t.d.quant ≤ t.retired + w.items.length + 1))

/-- The team whose scoreboard an instruction is checked against (R93, R104): an open window's results and destinations too. -/
def Team.scored (t : Team) : Team :=
  match t.window with
  | none => t
  | some w =>
    { t with
      fix := t.fixAll
      named := (w.items.flatMap fun x =>
        match x.what with
        | .instr i => destsV t.d.groupw i
        | .word .. => []) ++ t.named }

/-! ### Counters and copy faults (R298, R307) -/

/-- A copy fault reported (R307): every active lane is recorded with CPYERR, and of the unreported faults those
that `keep` names are left. -/
def State.reportCopy (s : State) (i : Instr) (keep : Nat → Bool) : State :=
  s.withHits i [⟨0x11, s.cur.cpyerr, s.cur.mask⟩] fun s =>
    { s with cur := { s.cur with unreported := s.cur.unreported.filter keep, wait := .none } }

/-- A report at a wait that is over: of the faults whose copies have retired. -/
def State.reportRetired (s : State) (i : Instr) : State :=
  s.reportCopy i fun k => s.cur.cpy.any fun x => x.key == k

/-- An illegal use inside the handler (R211). -/
def State.killHandler (s : State) (i : Instr) : State := s.killTrap 0x03 s.cur.at_.pc (encodeWord0 i)

/-! ### Barriers, copies and REORDER among the teams of a block -/

/-- A barrier's need (R152): the teams not yet ended for ALL, else the count. -/
def barNeed (live : Nat) : BarWant → Nat
  | .all => live
  | .count n => n.toNat + 1

/-- `check` of R152 on one barrier. -/
def Barrier.check (b : Barrier) (live : Nat) : Barrier :=
  match b.exp with
  | none => b
  | some w => if barNeed live w ≤ b.arr then ⟨none, 0, b.ph + 1⟩ else b

/-- Teams of a block that have not ended. -/
def State.liveTeams (s : State) (bid : Nat) : List Team := (s.blockTeams bid).filter fun t => t.st == .resident

/-- Every barrier of a block checked (R152). -/
def State.checkBarriers (s : State) (bid : Nat) : State :=
  let n := (s.liveTeams bid).length
  s.onBlock bid fun b => { b with bars := b.bars.map (Barrier.check · n) }

/-- How many slices a team of a block has supplied (R304). -/
def Block.suppliedBy (b : Block) (tno : Nat) : Nat := ((b.supplied.find? fun x => x.1 = tno).map (·.2)).getD 0

/-- The copies of a block that may start (R304): every team that has not ended has supplied its slice. Copies of
slices that differ, and copies of nothing, need no beat (R304, R307). -/
def Block.startCopies (b : Block) (live : List Nat) : Block :=
  { b with copies := b.copies.map fun c =>
      if !c.started && live.all fun t => decide (c.k < b.suppliedBy t) then { c with started := true } else c }

/-- Copies started as soon as they may; those of a D-mode block at a commit (R270). -/
def State.startCopies (s : State) (bid : Nat) : State :=
  let live := (s.liveTeams bid).map (·.tno)
  s.onBlock bid fun b => if b.d.dmode then b else b.startCopies live

/-- The state of a setting-out entry for a block, if it has started. -/
def Launch.entry (l : Launch) (bid idx : Nat) : Option EntSt :=
  (l.ents.find? fun e => e.bid = bid ∧ e.idx = idx).map (·.st)

/-- A block's mark: the least of its teams that have not ended, if there is one (R316). -/
def State.blockMark (s : State) (bid : Nat) : Option Nat := ((minBy (·.mark) (s.liveTeams bid)).map (·.mark))

/-- The starts of a block's entries whose issue mark it has reached, put before all else on the agenda: an entry starts as soon
as it may (R316); in D-mode entries start at a commit (R270). -/
def State.pushStarts (s : State) (bid : Nat) : State :=
  let due : List Instr :=
    match s.block bid with
    | none => []
    | some b =>
      match s.launch b.lid, s.blockMark bid with
      | some l, some m =>
        if b.d.dmode then []
        else (l.table.zipIdx.filter fun e => decide (e.1.issue ≤ m) && (l.entry bid e.2).isNone).map fun e => .setoutEntryStart bid e.2
      | _, _ => []
  { s with agenda := due ++ s.agenda }

/-- Whether the arrival of a team that counts is one at a REORDER, not at a barrier: `synced` then names 16 (R160). -/
def Team.reordering (t : Team) : Bool := t.synced.any fun x => x.2 == 16

/-- A team's arrival at a REORDER withdrawn, with its keys. -/
def Block.withdraw (b : Block) (uid : Nat) : Block := { b with reorder := b.reorder.filter fun a => a.1 != uid }

/-- The lanes of a REORDER set in order, and where they go (R160). -/
structure Moved where
  key : Nat
  uid : Nat
  lane : Nat
  cells : List VCell
  preds : List Bool
  origin : Nat
  deriving DecidableEq, Repr

/-- A moved lane set into a slot: the listed registers, predicates and origin. -/
def Team.setLane (t : Team) (live : List Nat) (l : Nat) (m : Moved) : Team :=
  { t with
    v := (live.zip m.cells).foldl (fun v rc => upd v rc.1 fun row => row.set l rc.2) t.v
    p := (t.p.zip m.preds).map fun pb => if pb.2 then pb.1 ||| laneBit l else pb.1 &&& ~~~ laneBit l
    origin := t.origin.set l m.origin }

/-- The registers a 128-bit live mask names (R159). -/
def liveRegs (m : Nat) : List Nat := (List.range 128).filter fun r => m.testBit r

/-- Whether a team has matrix instructions in its quadrant's queue (R279). -/
def State.mtxBusy (s : State) (t : Team) : Bool :=
  (((s.core t.core).quads.getD t.quad .reset).mtxq).any fun e => e.uid == t.uid

/-- The REORDER of a set of teams whose arrivals are complete (R160); the teams go on behind the instruction, and
a team without a lane ends, once its matrix instructions are done where some are `busy` (R289). -/
def reorderTeams (set : List Team) (keys : List (Nat × Nat × Nat)) (live : List Nat) (busy : Team → Bool) : List Team :=
  let ts := sortBy (·.tno) set
  let lanes := ts.flatMap fun t => (lanesOf t.mask).map fun l =>
    (⟨((keys.find? fun k => k.1 = t.uid ∧ k.2.1 = l).map (·.2.2)).getD 0, t.uid, l, live.map (t.rv · l),
      (List.range 7).map (t.rp · l), t.origin.getD l 0⟩ : Moved)
  let order := sortBy (·.key) lanes
  let slots := ts.flatMap fun t => (List.range t.d.teamw).map fun l => (t.uid, l)
  let placed := slots.zip order
  let draw := ts.foldl (fun m t => if m < t.draw.toNat then t.draw.toNat else m) 0
  set.map fun t =>
    let mine := placed.filter fun pm => pm.1.1 = t.uid
    let u := mine.foldl (fun t pm => t.setLane live pm.1.2 pm.2) t
    let m := maskOf (mine.map fun pm => pm.1.2)
    { u with mask := m
             ended := fullMask t.d.teamw &&& ~~~ m
             draw := BitVec.ofNat 32 draw
             wait := if m = 0 && busy t then .finish else .none
             synced := none
             at_ := ⟨t.at_.pc + 8, t.at_.left - 1⟩
             st := if m = 0 && !busy t then .ended else t.st
             burn := if m = 0 then (0, 0) else t.burn }

/-- A pending REORDER of the block on one core, if all its teams there have arrived and no write of theirs is pending
(R160). An arrival is (team, live mask, word 0, 0), a key (team, lane, key, lane + 1). Different masks trap every team. -/
def State.tryReorder (s : State) (bid core : Nat) : State :=
  match s.block bid with
  | none => s
  | some b =>
    let set := (s.liveTeams bid).filter fun t => t.core = core
    let arrived := b.reorder.filter fun a => set.any fun t => t.uid = a.1 ∧ a.2.2.2 = 0
    if set.isEmpty || !(set.all fun t =>
        t.wait == .reorder && t.tags == 0 && t.fix.isEmpty && arrived.any fun a => a.1 = t.uid) then s
    else
      let mask := (arrived.headD (0, 0, 0, 0)).2.1
      let word0 := fun (uid : Nat) => ((arrived.find? fun a => a.1 = uid).map (·.2.2.1)).getD 0
      let s1 := s.onBlock bid fun b =>
        { b with reorder := b.reorder.filter fun a => !(set.any fun t => t.uid = a.1) }
      if arrived.all fun a => a.2.1 = mask then
        let keys := b.reorder.filterMap fun a =>
          if a.2.2.2 = 0 then none else some (a.1, a.2.2.2 - 1, a.2.2.1)
        let done := reorderTeams set keys (liveRegs mask) s.mtxBusy
        (((s1.mapTeams fun t => ((done.find? fun u => u.uid = t.uid && t.st != .vacant).getD t)).checkBarriers bid).startCopies bid).pushStarts bid
      else
        s1.mapTeams fun t =>
          if set.any fun u => u.uid = t.uid && t.st != .vacant then
            { t with wait := .none
                     synced := none
                     recs := t.recs ++ [⟨t.at_, ⟨t.at_.pc + 8, t.at_.left - 1⟩, 0x03, BitVec.ofNat 32 (word0 t.uid), t.mask⟩]
                     mask := 0 }
          else t

/-! ### Paths and teams ending -/

/-- The path after the newest stack entry with a lane that has not ended (R136, R137). -/
def popPath (ended : LaneMask) : List StackEntry → Option (StackEntry × LaneMask × List StackEntry)
  | [] => none
  | e :: r => if e.mask &&& ~~~ ended = 0 then popPath ended r else some (e, e.mask &&& ~~~ ended, r)

/-- A team ended (R22): its burn stops, and barriers, copies and REORDER of the block see it gone, the last at the commit in
D-mode (R270). One with matrix instructions to be done waits for them first (R289). -/
def State.endTeam (s : State) : State :=
  if s.mtxBusy s.cur then { s with cur := { s.cur with mask := 0, wait := .finish }, sel := false }
  else
    let s1 := { s with cur := { s.cur with st := .ended, mask := 0, burn := (0, 0), wait := .none }, sel := false }
    let s2 := (s1.checkBarriers s1.cur.bid).startCopies s1.cur.bid
    (if s.cur.d.dmode then s2 else s2.tryReorder s1.cur.bid s1.cur.core).pushStarts s.cur.bid

/-- `end_of_path` (R137): held records are taken first (R205), else entries are popped. -/
def State.endOfPath (s : State) : State :=
  if !s.cur.hmode && !s.cur.recs.isEmpty then s.takeTrap
  else
    match popPath s.cur.ended s.cur.stack with
    | some (e, m, r) => { s with cur := { s.cur with mask := m, at_ := e.start, stack := r }, sel := false }
    | none => s.endTeam

/-- Lanes of the current path ended (R22, R137), the path's end run if none is left. -/
def State.endLanes (s : State) (m : LaneMask) : State :=
  let s1 := { s with cur := { s.cur with mask := s.cur.mask &&& ~~~ m, ended := s.cur.ended ||| m } }
  if s1.cur.mask = 0 then s1.endOfPath else s1

/-! ### Checks before an instruction acts -/

/-- A source register with a fixed-latency write not yet complete at cycle `n` in word `w` (R93). -/
def pendingFix (t : Team) (k : OpKind) (r n w : Nat) : Bool :=
  t.fix.any fun e => decide (n < e.due) &&
    match e.w, k with
    | .v r' cs, .v => r' == r && cs.any fun c => c.1 / 32 == w
    | .c r' cs, .v => r' == r && cs.any fun c => c.1 / 32 == w
    | .p r' cs, .p => r' == r && cs.any fun c => c.1 / 32 == w
    | .s r' _, .s => r' == r
    | _, _ => false

/-- TRAPDATA of cause 0x04 (R93). -/
def sbDatum (reason kind number : Nat) : Word := BitVec.ofNat 32 (reason * 512 + kind * 128 + number)

/-- The words whose registers the pass of a word reads: those of its group where a group spans two words (R15, R155). -/
def wordsRead (t : Team) (i : Instr) (w : Nat) : List Nat :=
  match i with
  | .shfl .. | .voteAll .. | .voteAny .. | .voteBallot .. | .voteEq .. | .gred .. | .gscan .. =>
    if t.d.groupw = 64 then (activeWords t.mask).filter fun x => x / 2 == w / 2 else [w]
  | _ => [w]

/-- Whether anything of a tag's instruction is still to come (R92). An STS of a D-mode
team has bank cycles as any other has, and its tag does not wait for the commit that writes its data (R238, R269; log 120). -/
def Team.tagBusy (t : Team) (n : Nat) : Bool :=
  (t.accesses.any fun a => a.tag == n) || (t.waiting.any fun w => w.tag == n) || (t.held.any fun h => h.tag == n)
    || (t.spad.any fun p => p.tag == n) || (t.tagged.any fun w => w.tag == n)
    || t.dheld.any fun d =>
      match d with
      | .atom _ tag _ _ _ _ _ _ _ | .atoms _ tag _ _ _ _ _ _ _ => tag == n
      | .store .. | .sts .. => false

/-- Whether a tag is still set at cycle `n`: one whose scratchpad passes are complete by then has cleared (R92, R238). -/
def Team.tagSetAt (t : Team) (k n : Nat) : Bool :=
  !(t.spad.any fun p => p.tag == k) || ({ t with spad := t.spad.filter fun p => decide (n < p.due) } : Team).tagBusy k

/-- The scoreboard violation of an instruction, if any (R92, R93, R104): its TRAPDATA. Each pass checks where CSB is set
as that pass reads it (R176), against the tags that are set then. -/
def scoreboardFault (t : Team) (i : Instr) (g : Guard) (now : Nat) : Option Word :=
  match tagOf i with
  | some n =>
    if t.tags &&& tagBit n != 0 then some (sbDatum 2 3 n) else sources
  | none => sources
where
  ws : List (Nat × Nat) :=
    ((passWords t i g).zipIdx.map fun wk => (wk.1, wk.2 * passCycles i)).filter fun wk => (t.landed (now + wk.2)).csb
  sources : Option Word :=
    if ws.isEmpty then none
    else
      let us := uses t.d.groupw i ++ (if g.p = 7 then [] else [useP g.p.toNat])
      let regs := (us.filter fun u => !u.dst && u.kind != .tile).flatMap fun u =>
        ((List.range u.n).map (u.r + ·)).filterMap fun r =>
          if (u.kind == .p && r == 7) || (u.kind == .s && r == 127) then none else some (u.kind, r)
      let dsts := (us.filter fun u => u.dst && u.kind != .tile).flatMap fun u =>
        (List.range u.n).map fun k => (u.kind, u.r + k)
      let tagd := fun (kr : OpKind × Nat) => ws.any fun wk =>
        t.tagRegs.any fun x => decide (x.2.1 = OpKind.code kr.1 ∧ x.2.2 = kr.2) && t.tagSetAt x.1 (now + wk.2)
      let late := fun (kr : OpKind × Nat) => ws.any fun wk => (wordsRead t i wk.1).any (pendingFix t kr.1 kr.2 (now + wk.2))
      match regs.find? late with
      | some kr => some (sbDatum 0 (OpKind.code kr.1) kr.2)
      | none =>
        match (regs ++ dsts).find? tagd with
        | some kr => some (sbDatum 1 (OpKind.code kr.1) kr.2)
        | none =>
          match regs.find? fun kr => kr.1 == .v && !t.named.contains kr.2 with
          | some kr => some (sbDatum 3 (OpKind.code kr.1) kr.2)
          | none => none

/-- Instructions forbidden in the handler (R211). -/
def handlerForbids : Instr → Bool
  | .barArr .. | .barWait .. | .barSync .. | .reorder .. | .copy .. | .yieldC .. | .exit .. | .qend .. => true
  | _ => false

/-- The points at which held records are taken before the instruction acts (R141, R205). -/
def takingPoint : Instr → Bool
  | .join .. | .barArr .. | .barWait .. | .barSync .. | .reorder .. | .yieldC .. | .waitc .. | .markW .. | .mark ..
  | .copy .. => true
  | _ => false

/-- The live mask: bit k of s(B + m) names v(32 m + k). -/
def liveMask (t : Team) (b : Reg) : Nat :=
  ((List.range 4).map fun m => (t.rs (b.toNat + m)).toNat * 2 ^ (32 * m)).foldl (· + ·) 0

/-- Illegal uses that depend on the state of the team (R113): a live mask beyond the registers or a stack under REORDER
(R160), a full stack (R139), a tile of the wrong type (R290). -/
def illegalUse (t : Team) (now : Nat) : Instr → Bool
  | .reorder _ _ b => decide (liveMask t b / 2 ^ t.d.regs ≠ 0 ∨ t.stack ≠ [])
  | .mjoin .. => decide (Config.maxStack ≤ t.stack.length)
  | .bra _ g _ =>
    let taken := selectedLanes t now g
    taken != 0 && taken != t.mask && decide (Config.maxStack ≤ t.stack.length)
  | _ => false

/-- Whether an instruction reads a register or a tile with an uncorrectable error (R240). A pass reads 32 lanes of a register
(log 92); MMA and MMAS read the tile that they add to, REORDER every register of a lane. -/
def badRead (t : Team) (i : Instr) (g : Guard) : Bool :=
  t.bad.any fun e =>
    match i with
    | .reorder .. => e.kind == .v || e.kind == .p
    | _ => (uses t.d.groupw i ++ (if g.p = 7 then [] else [useP g.p.toNat])).any fun u =>
        u.kind == e.kind && decide (u.r ≤ e.r ∧ e.r < u.r + u.n) &&
          match e.kind, i with
          | .tile, .azero .. | .tile, .ald .. => false
          | .tile, _ => true
          | .s, _ => !u.dst
          | .v, _ | .p, _ => !u.dst && (passWords t i g).any fun w => (wordsRead t i w).contains (e.lane / 32)

/-- A block killed by an uncorrectable error in its core's storage (R216, R240). -/
def State.killWord (s : State) : State :=
  s.killWith s.cur.bid ⟨0x20, 0x01, if s.cur.d.idem then 0 else 1, s.cur.at_.pc, 0, s.srcid s.cur, true⟩

/-- An instruction at its issue (R113): due results land, a clause's first instruction reports a copy fault (R307), illegal uses
trap, the scoreboard is checked, held records are taken at a taking point, and else it acts. In a window what ends it waits for
the outcome (R144), as does a read that would kill the block (R240); the issues of a replay are not checked again (R147). `bad` is
an illegal use that the instruction's family knows. -/
def State.issueIf (s : State) (i : Instr) (g : Guard) (bad : State → Bool) (act : State → State) : State :=
  let s := s.settle
  let checked := fun (s : State) (go : State → State) =>
    if badOperands s.cur i || illegalUse s.cur s.now i || bad s then s.trapAll i 0x03 (encodeWord0 i)
    else
      match scoreboardFault s.cur.scored i g s.now with
      | some d => s.trapAll i 0x04 d
      | none =>
        if badRead s.cur i g then
          match s.cur.window with
          | some w => s.closeWindow w
          | none => s.killWord
        else go s
  match s.cur.window with
  | some w =>
    if w.redo.isSome then act s
    else if s.cur.ends w i then s.closeWindow w
    else checked s act
  | none =>
    if s.cur.reportsFirst then s.reportRetired i
    else if s.cur.hmode && handlerForbids i then s.killHandler i
    else checked s fun s => if takingPoint i && !s.cur.hmode && !s.cur.recs.isEmpty then s.takeTrap else act s

def State.issue (s : State) (i : Instr) (g : Guard) (act : State → State) : State := s.issueIf i g (fun _ => false) act

/-! ### Runners -/

/-- How many passes an instruction takes now (R20). -/
def State.passes (s : State) (i : Instr) (g : Guard) : Nat := (passWords s.cur i g).length

/-- The team as the pass that holds lane `l` reads it. -/
def State.viewOf (s : State) (i : Instr) (g : Guard) (l : Nat) : Team :=
  s.cur.view (s.now + (((passSlots s.cur i g).find? fun x => x.1 == l / 32).map (·.2)).getD 0)

/-- The passes of an instruction worked out in the core, carried out (R103, R145): the lanes that trap are recorded and
the results scheduled, with fixed latency or behind the tag; in a window they are held in a shadow. -/
def State.deliver (s : State) (i : Instr) (lat : Nat) (counts : Bool) (rs : List (Nat × List (Nat × LaneRes))) : State :=
  let ps := fun (k : Nat) => rs.map fun r => (⟨k, s.now + r.1 + lat, tagOf i, counts, r.2⟩ : WinPass)
  match s.cur.window with
  | some w => s.shadowed { w with passes := w.passes ++ ps w.item } i rs.length (hitMask (passHits rs))
  | none =>
    s.withHits i (passHits rs) fun s =>
      State.retire { s with cur := s.cur.receive i (ps 0) } i rs.length

/-- An instruction of fixed latency over its lanes (R102, R103, R115). -/
def State.lanewise (s : State) (i : Instr) (g : Guard) (lat : Nat) (f : Team → Nat → LaneRes) : State :=
  s.issue i g fun s => s.deliver i lat false (runPasses s.cur s.now i g f)

/-- A uniform instruction of fixed latency: one pass, one result (R101, R116). -/
def State.uniform (s : State) (i : Instr) (lat : Nat) (f : Team → List RegWrite) : State :=
  s.issue i .pt fun s =>
    State.retire { s with cur := s.cur.schedule (s.now + lat) (f (s.cur.view s.now)) } i 1

/-- A tagged instruction worked out in the core (SFU and cross-lane, R155, R190): all operands are read at issue,
the results wait for the tag to clear. -/
def State.taggedRun (s : State) (i : Instr) (g : Guard) (f : Team → Nat → LaneRes) : State :=
  s.issue i g fun s => s.deliver i 0 false (runPasses s.cur s.now i g f)

end Sys2Proof.Machine
end

