-- ==== Sys2Proof/Machine/Order.lean ====
section
/-! DEFINITION. The conditions of the ordering machine (R263 to R271): roles, reach, and when the release,
acquire, full and fence steps of a team hold. -/

namespace Sys2Proof.Machine

/-- Roles of an order (R263). -/
def MemOrd.acquires : MemOrd → Bool
  | .acq | .ar | .sc => true
  | .plain | .rlx | .rel => false
def MemOrd.releases : MemOrd → Bool
  | .rel | .ar | .sc => true
  | .plain | .rlx | .acq => false
def MemOrd.full : MemOrd → Bool
  | .sc => true
  | .plain | .rlx | .acq | .rel | .ar => false

/-- Whether an older access at a physical address is within the reach of a role (R263). -/
def inReach (sc : Scope) (pa : Nat) : Bool :=
  match sc with
  | .team => false
  | .block | .dev => !remote pa
  | .sys => true

/-- The acquire role of a pending access: a CAS with an acquiring failure order holds it too (R263). -/
def Access.acquire (a : Access) : Bool :=
  a.scope != .team && (MemOrd.acquires a.ord ||
    match a.op with
    | .cas _ => a.fail != .rlx
    | _ => false)

/-- An atomic stays unacknowledged until its response (R268). -/
def Access.isAtomic (a : Access) : Bool :=
  match a.op with
  | .atom _ _ | .cas _ => true
  | .load _ | .tile _ _ => false

def Access.isPerformed (a : Access) : Bool := a.st == .performed

/-- An access older than `n` that is held on a recoverable fault: it is not performed, and where it lies is not known, so that it
counts in every reach (R249, R260; log 107). One that failed changes nothing any more. -/
def Team.holdsOlder (t : Team) (n : Nat) (p : HeldAccess → Bool) : Bool :=
  t.held.any fun h => decide (h.ins < n) && h.kind != .fetch && h.failed.isNone && p h

/-- Whether a held access may lie on some of `n` bytes at a virtual address: no translation changes an address within 4 KiB
(log 107). -/
def HeldAccess.near (h : HeldAccess) (va n : Nat) : Bool :=
  decide (h.va.toNat % 4096 < va % 4096 + n ∧ va % 4096 < h.va.toNat % 4096 + h.size)

/-- Whether an entry, or a waiting store, overlaps `n` bytes at a place in memory. -/
def StoreEntry.overlaps (e : StoreEntry) (at_ n : Nat) : Bool := e.bytes.any fun c => decide (at_ ≤ c.1 ∧ c.1 < at_ + n)
def WaitingStore.overlaps (w : WaitingStore) (at_ n : Nat) : Bool :=
  decide (w.spot.home < at_ + n ∧ at_ < w.spot.home + w.bytes.length)

/-- Whether an older load or atomic to overlapping bytes is not performed (R265, R267). -/
def pendingOverlap (t : Team) (ins at_ n : Nat) : Bool :=
  t.accesses.any fun a => decide (a.ins < ins) && !a.isPerformed && decide (a.spot.home < at_ + n ∧ at_ < a.spot.home + a.bytes)

/-- The acquire role, and the full role, of a held access (R263). -/
def HeldAccess.acquire (h : HeldAccess) : Bool :=
  h.scope != .team && (MemOrd.acquires h.ord ||
    match h.op with
    | some (.cas _) => h.fail != .rlx
    | _ => false)
def HeldAccess.full (h : HeldAccess) : Bool := MemOrd.full h.ord && h.scope != .team

/-- Every load and atomic older than `n` in reach is performed. -/
def loadsDone (t : Team) (sc : Scope) (n : Nat) : Bool :=
  (t.accesses.all fun a => decide (n ≤ a.ins) || !inReach sc a.pa || a.isPerformed)
    && (sc == .team || !t.holdsOlder n fun h => h.kind != .store)

/-- Every store older than `n` in reach is acknowledged, those of the in-flight list too (R265 of *moves*). -/
def storesDone (t : Team) (sc : Scope) (n : Nat) : Bool :=
  (t.stores.all fun e => decide (n ≤ e.ins) || !inReach sc (e.unit * 256))
    && (t.flight.all fun e => !inReach sc (e.unit * 256))
    && (t.waiting.all fun w => decide (n ≤ w.ins) || !inReach sc w.pa)
    && (sc == .team || !t.holdsOlder n fun h => h.kind == .store)

/-- Every atomic older than `n` in reach is acknowledged. -/
def atomicsDone (t : Team) (sc : Scope) (n : Nat) : Bool :=
  (t.accesses.all fun a => decide (n ≤ a.ins) || !inReach sc a.pa || !a.isAtomic)
    && (sc == .team || !t.holdsOlder n fun h => h.kind == .atomic)

/-- Every STS and ATOMS older than `n` is complete. -/
def scratchDone (t : Team) (n : Nat) : Bool := t.spad.all fun p => decide (n ≤ p.ins) || !p.store

/-- The release step of R265 for an access numbered `n`: none at TEAM scope. -/
def releaseStep (t : Team) (sc : Scope) (n : Nat) : Bool :=
  sc == .team || (loadsDone t sc n && storesDone t sc n && scratchDone t n)

/-- As the release step, and every older access in reach performed or acknowledged (R265, full). -/
def fullStep (t : Team) (sc : Scope) (n : Nat) : Bool :=
  sc == .team || (releaseStep t sc n && atomicsDone t sc n)

/-- No access older than `n` with an acquire role with reach is unperformed, no acquiring ATOMS incomplete (R263, R265,
R267, R270): ST.SC acquires too. -/
def acquireClear (t : Team) (n : Nat) : Bool :=
  let role := fun (o : MemOrd) (sc : Scope) => MemOrd.acquires o && sc != .team
  (t.accesses.all fun a => decide (n ≤ a.ins) || !a.acquire || a.isPerformed)
    && (t.spad.all fun p => decide (n ≤ p.ins) || !(MemOrd.acquires p.ord))
    && (t.stores.all fun e => decide (n ≤ e.ins) || !role e.ord e.scope || e.st == .performed)
    && (t.flight.all fun e => !role e.ord e.scope || e.st == .performed)
    && (t.waiting.all fun w => decide (n ≤ w.ins) || !role w.ord w.scope)
    && !t.holdsOlder n HeldAccess.acquire

/-- No SC access older than `n` is unperformed or unacknowledged (R265): those in flight and those that wait for room
count too. -/
def fullClear (t : Team) (n : Nat) : Bool :=
  let full := fun (o : MemOrd) (sc : Scope) => MemOrd.full o && sc != .team
  (t.accesses.all fun a => decide (n ≤ a.ins) || !full a.ord a.scope || (a.isPerformed && !a.isAtomic))
    && (t.stores.all fun e => decide (n ≤ e.ins) || !full e.ord e.scope)
    && (t.flight.all fun e => !full e.ord e.scope)
    && (t.waiting.all fun w => decide (n ≤ w.ins) || !full w.ord w.scope)
    && !t.holdsOlder n HeldAccess.full

/-- Every DEV-page access older than `n` is performed (R248, R265): a held one may be to such a page (log 107). -/
def deviceClear (t : Team) (n : Nat) : Bool :=
  (t.accesses.all fun a => decide (n ≤ a.ins) || !a.dev || a.isPerformed)
    && (t.stores.all fun e => decide (n ≤ e.ins) || !e.dev || e.st == .performed)
    && (t.flight.all fun e => !e.dev || e.st == .performed)
    && (t.waiting.all fun w => decide (n ≤ w.ins) || !w.dev)
    && !t.holdsOlder n fun _ => true

/-- A fence mark holds back younger stores until older ones in its reach are acknowledged (R269). -/
def marksClear (t : Team) (n : Nat) : Bool :=
  t.fences.all fun f => decide (n < f.1) || (storesDone t f.2 f.1 && scratchDone t f.1)

/-- When a FENCE may complete (R269). -/
def fenceReady (t : Team) (o : MemOrd) (sc : Scope) : Bool :=
  sc == .team ||
    match o with
    | .sc => fullStep t sc t.ins && loadsDone t sc t.ins
    | _ => loadsDone t sc t.ins

/-- Items of a counter that have not retired: retirement is in order, so a complete item behind an incomplete one
still counts (R298). -/
def retireItems : List CntItem → List CntItem
  | [] => []
  | i :: r => if i.done then retireItems r else i :: r

/-- An item of a counter marked complete, and what can retire retired. -/
def doneItem (l : List CntItem) (key : Nat) : List CntItem :=
  retireItems (l.map fun i => if i.key = key then { i with done := true } else i)

end Sys2Proof.Machine
end

