-- ==== Sys2Proof/Machine/Report.lean ====
section
/-! DEFINITION. Records that the device writes: fault records (R218), page-request records (R249), interrupts
(R327), and isolation violations with their quarantine (R220, R331); with them the row activations of accesses (R344) and the
data that cannot be read (R240). -/

namespace Sys2Proof.Machine

/-! ### Row activations (R344) -/

/-- The channel of a package address: in the region that holds it. -/
def State.channelAt (s : State) (x : Nat) : Option (Nat × Nat) :=
  (s.parts.flatMap (·.regions)).findSome? fun r => if inRegion r x then some (channelOf r x) else none

/-- An access to package memory may activate its row: the row's count rises, and at RAATHR an alert follows. -/
def State.activate (s : State) (pa : Nat) : State :=
  match placeOf (homeOf s.devno pa) with
  | .package x =>
    match s.channelAt x with
    | none => s
    | some (ch, u) =>
      let on := Config.activates s.free
      let (bank, row) := Config.rowOf ch u
      let mine := fun (r : RowCount) => r.ch == ch && r.bank == bank && r.row == row
      let n := ((s.rows.find? mine).map (·.count)).getD 0 + 1
      { s with
        free := s.free + 1
        rows := if on then ⟨ch, bank, row, n⟩ :: s.rows.filter fun r => !mine r else s.rows
        agenda := if on && decide (s.raathr ≤ n) then .rowActivationAlert ch bank row :: s.agenda else s.agenda }
  | _ => s

/-- Accesses to `n` bytes that lie together: they may activate the rows that hold them, one 256-byte unit after another (R235,
R344). -/
def State.touch (s : State) (pa n : Nat) : State :=
  (List.range (if n = 0 then 0 else (pa + n - 1) / 256 - pa / 256 + 1)).foldl (fun (s : State) k => s.activate (pa / 256 * 256 + 256 * k)) s

/-- The rows that the transfers of a checkpoint or of a context leave counted on a partition's channels (R344): free values, with
an alert for each that has reached RAATHR (log 8). -/
def State.countRows (s : State) (p : Partition) : State :=
  let on := fun (ch : Nat) => p.sets.contains (ch / 16)
  let new := ((Config.countedRows s.free).filter fun x => on x.1).map fun x => (⟨x.1, x.2.1, x.2.2.1, x.2.2.2⟩ : RowCount)
  { s with
    free := s.free + 1
    rows := new ++ s.rows.filter fun r => !on r.ch
    agenda := ((new.filter fun r => decide (s.raathr ≤ r.count)).map fun r => Instr.rowActivationAlert r.ch r.bank r.row) ++ s.agenda }

/-- Whether a read meets an uncorrectable error (R240). -/
def State.badData (s : State) (pa n : Nat) : Bool :=
  match placeOf (homeOf s.devno pa) with
  | .slice sl o => (s.slices.getD sl .reset).bad.any fun b => decide (o ≤ b ∧ b < o + n)
  | _ => false

/-! ### Interrupts and records -/

/-- An interrupt of a function, by vector; an interface in ERROR raises none (R340). -/
def State.raiseIrq (s : State) (f vec : Nat) : State :=
  s.onFunc f fun x => if x.stopped then x else { x with irqs := x.irqs ++ [vec] }

/-- Whether a ring can take a record: it is enabled and not full (R327). -/
def Ring.room (r : Ring) : Bool := r.base != 0 && decide ((r.tail - r.head).toNat < 2 ^ r.log)

/-- A 32-byte record written to a ring in host memory, or counted as lost (R327); an interface in ERROR sends none (R340). -/
def State.ringPut (s : State) (f : Nat) (get : Func → Ring) (set : Func → Ring → Func) (bs : List Byte) : State :=
  let r := get (s.func f)
  if (s.func f).stopped then s
  else if r.room then
    let a := hostPa (r.base.toNat + (r.tail.toNat % 2 ^ r.log) * 32)
    State.raiseIrq { (s.onFunc f fun x => set x { r with tail := r.tail + 1 }) with mem := memWriteN s.mem a bs } f r.vec
  else s.onFunc f fun x => set x { r with lost := r.lost + 1 }

def State.faultPut (s : State) (f : Nat) (bs : List Byte) : State :=
  s.ringPut f Func.flt (fun x r => { x with flt := r }) bs
def State.requestPut (s : State) (f : Nat) (bs : List Byte) : State :=
  s.ringPut f Func.prq (fun x r => { x with prq := r }) bs

/-- A fault record (R218). -/
structure FaultRec where
  code : Nat
  part : Nat
  queue : Nat
  tag : Word
  wher : DWord
  srcid : Word
  data : Word
  deriving DecidableEq, Repr

def FaultRec.bytes (r : FaultRec) (clock : DWord) : List Byte :=
  bytesOf 2 r.code ++ bytesOf 1 r.part ++ bytesOf 1 r.queue ++ bytesOf 4 r.tag.toNat ++ bytesOf 8 r.wher.toNat
    ++ bytesOf 8 clock.toNat ++ bytesOf 4 r.srcid.toNat ++ bytesOf 4 r.data.toNat

/-- A record of a fault detected at a cycle, sent to some rings, each once (R218), and to the census's recent faults (R338). -/
def State.postFaultAt (s : State) (clock : DWord) (fs : List Nat) (r : FaultRec) : State :=
  let s1 := (distinct fs).foldl (fun s f => s.faultPut f (r.bytes clock)) s
  { s1 with recent := (⟨r.code, r.part, r.srcid, clock.toNat⟩ :: s.recent).take 32 }

/-- A record of a fault detected now. -/
def State.postFault (s : State) (fs : List Nat) (r : FaultRec) : State := s.postFaultAt s.clock fs r

/-- The lowest-numbered function of a partition. -/
def State.lowestFunc (s : State) (p : Nat) : List Nat :=
  ((List.range Config.numFunctions).filter fun f => (s.func f).fpart = p).take 1

/-- The first fault of a launch supplies FAULT of its completion (R218, R76). -/
def State.launchFault (s : State) (lid code : Nat) : State :=
  s.onLaunch lid fun l => { l with fault := some (l.fault.getD code) }

/-- A block's fault record (R219), with the cycle at which the fault was detected (R218). -/
def State.postBlockFault (s : State) (b : Block) (k : KillInfo) : State :=
  let code := faultCode k.grade k.unitc k.cause
  match s.launch b.lid with
  | some l =>
    (s.postFaultAt b.killAt [l.f] ⟨code, b.d.part, l.q, l.tag, k.wher, k.srcid, k.data⟩).launchFault b.lid code
  | none => s.postFaultAt b.killAt (s.lowestFunc b.d.part) ⟨code, b.d.part, 0xFF, 0, k.wher, k.srcid, k.data⟩

/-- Blocks of a launch that are neither resident nor reported nor counted. -/
def State.blocksLeft (s : State) (l : Launch) : Nat :=
  let told := (s.piers.flatMap (·.reports)).filter fun (r : Report) =>
    match r with
    | .done lid | .killed lid _ => lid == l.lid
    | .saved _ => false
  l.blocks - l.ended - l.killed - told.length - (s.allBlocks.filter fun b => b.live && b.lid == l.lid).length

/-- A partition QUARANTINED by a grade-N fault (R220, R331): its blocks are killed without records, those not placed
and those saved too, so that its launches can complete. -/
def State.quarantine (s : State) (p : Nat) : State :=
  let s0 : State := s.onPart p fun x => { x with st := if x.st == .active || x.st == .draining then .quarantined else x.st }
  let s1 : State := { s0 with
    launches := s0.launches.map fun (l : Launch) => if l.d.part = p then { l with killed := l.killed + s0.blocksLeft l, dealt := l.blocks } else l
    saved := s0.saved.filter fun (b : SavedBlock) => b.blk.d.part != p
    piers := s0.piers.map fun (x : Pier) =>
      { x with queue := x.queue.filter fun (r : BlockRange) => r.part != p
               cmdPermits := x.cmdPermits + (x.link.filter fun (r : BlockRange) => r.part == p).length
               link := x.link.filter fun (r : BlockRange) => r.part != p } }
  (s1.allBlocks.filter fun b => b.live && b.d.part = p).foldl
    (fun s b => s.killWith b.bid ⟨0, 0, 2, 0, 0, 0, false⟩) s1

/-- An isolation violation (R220): the requester is frozen and named in the census; the partition is quarantined;
one grade-N record goes to function 0 and the partition's lowest function. -/
def State.isolate (s : State) (p unitc : Nat) (srcid : Word) (lid : Option Nat) (wher : DWord) (data : Word) : State :=
  let code := faultCode 2 unitc 0x21
  let l := lid.bind s.launch
  let s1 := (s.quarantine p).postFault (0 :: s.lowestFunc p)
    ⟨code, p, (l.map (·.q)).getD 0xFF, (l.map (·.tag)).getD 0, wher, srcid, data⟩
  let s2 := match lid with
    | some n => s1.launchFault n code
    | none => s1
  { s2 with frozen := (s2.frozen ++ [(p, srcid, s2.clock.toNat)]).take 8 }

/-- A violation by the current team: it is frozen with the state it holds, its block counts as killed, no request of
the instruction is sent; WHERE is the trap PC (R218). -/
def State.isolateTeam (s : State) : State :=
  let t := s.cur
  let s1 := s.isolate t.d.part 0x00 (s.srcid t) (some t.lid) t.at_.pc 0
  { s1 with cur := { t with st := .frozen }, sel := false }

/-- An engine's SRCID (R309). -/
def State.engineId (s : State) (core slot : Nat) : Word :=
  BitVec.ofNat 32 (s.devno * 2 ^ 16 + core * 2 ^ 8 + 0x80 + slot)

/-- A violation by the table walker of a pier: it is frozen (R220). -/
def State.isolateWalker (s : State) (part pier pa : Nat) : State :=
  (s.isolate part 0x0C (s.engineId (4 * pier) 2) none (BitVec.ofNat 64 pa) 0).onPier pier
    fun p => { p with walkerFrozen := true }

end Sys2Proof.Machine
end

