-- ==== Sys2Proof/Machine/Control.lean ====
section
/-! DEFINITION. Control flow, prediction and barriers (R132 to R153): BRA to EXIT, the predictor, BAR.ARR,
BAR.WAIT and BAR.SYNC, TRAP and RTT (R212 to R214), NOP and QEND. -/

namespace Sys2Proof.Machine

/-- The address `off` words from an instruction's word 0 (R112). -/
def branchTarget (pc : DWord) (off : BitVec 18) : DWord := pc + (off.signExtend 64) * 4

/-- NOP: nothing but time (R108). -/
def execNop (i : Instr) (g : Guard) (s : State) : State :=
  s.issue i g fun s => s.deliver i 0 false ((passWords s.cur i g).map fun _ => (0, []))

def execNopShort (dly : BitVec 3) (s : State) : Host.Outcome State Fault Refusal := .next (execNop (.nopShort dly) .pt s)
def execNopLong (dly : BitVec 3) (g : Guard) (s : State) : Host.Outcome State Fault Refusal :=
  .next (execNop (.nopLong dly g) g s)

/-- QEND: encoded by R112, given no effect but one integer pass (R38) and the handler rule (R211). -/
def execQend (dly : BitVec 3) (s : State) : Host.Outcome State Fault Refusal :=
  .next (s.issue (.qend dly) .pt fun s => s.retire (.qend dly) 1)

/-! ### Branches -/

/-- The taken set predicted for a branch at `x` (R143). -/
def predicted (q : Quad) (x : DWord) (active : LaneMask) : LaneMask :=
  match q.pred.lookup (x.extractLsb' 2 8).toNat with
  | some e => if e.valid && e.addr == x then e.taken &&& active else 0
  | none => 0

/-- BRA (R135, R143): a branch guarded by p0 to p6 opens a window on its predicted first path; the others are not
predicted. A divergence that would push a 257th entry is an illegal use (R139). -/
def execBra (dly : BitVec 3) (g : Guard) (off : BitVec 18) (s : State) : Host.Outcome State Fault Refusal :=
  let i := Instr.bra dly g off
  .next <| s.issue i g fun s =>
    let t := s.cur
    let taken := selectedLanes t s.now g
    let target : CodePt := ⟨branchTarget t.at_.pc off, 0⟩
    let n := s.passes i g
    let s' := s.retire i n
    if g.p = 7 then
      if taken = 0 then s' else { s' with cur := { s'.cur with at_ := target } }
    else
      let pred := predicted ((s.core t.core).quads.getD t.quad .reset) t.at_.pc t.mask
      let fall := t.mask &&& ~~~ pred
      { s' with cur := { s'.cur with
          at_ := if fall = 0 then target else nextPt t.at_ i
          mask := if fall = 0 then pred else fall
          window := some ⟨t.at_.pc, target, nextPt t.at_ i, pred, taken, t.mask, s.now + n + Config.outcomeCycles, false, [], [], [], [], 0,
            none⟩ } }

/-- JMP and RET (R132): every active lane goes to the address in the pair. -/
def jumpTo (i : Instr) (a : Reg) (s : State) : State :=
  s.issue i .pt fun s =>
    let x := s.cur.rsPair a.toNat
    if x.extractLsb' 0 2 != 0 then s.trapAll i 0x05 (lo32 x)
    else
      let s' := s.retire i 1
      { s' with cur := { s'.cur with at_ := ⟨x, 0⟩ } }

def execJmp (dly : BitVec 3) (a : Reg) (s : State) : Host.Outcome State Fault Refusal := .next (jumpTo (.jmp dly a) a s)
def execRet (dly : BitVec 3) (a : Reg) (s : State) : Host.Outcome State Fault Refusal := .next (jumpTo (.ret dly a) a s)

/-- CALL (R132): the return address is the word after CALL, in its pair at once (log 31); a result of an older instruction for the
pair that is on its way lands over it (log 114). -/
def execCall (dly : BitVec 3) (d : Reg) (off : BitVec 18) (s : State) : Host.Outcome State Fault Refusal :=
  let i := Instr.call dly d off
  .next <| s.issue i .pt fun s =>
    let pc := s.cur.at_.pc
    let s' := s.retire i 1
    let t := (s'.cur.put (.s d.toNat (lo32 (pc + 8)))).put (.s (d.toNat + 1) (hi32 (pc + 8)))
    { s' with cur := { t with at_ := ⟨branchTarget pc off, 0⟩ } }

/-- MJOIN (R134); one that would push a 257th entry is an illegal use (R139). -/
def execMjoin (dly : BitVec 3) (off : BitVec 18) (s : State) : Host.Outcome State Fault Refusal :=
  let i := Instr.mjoin dly off
  .next <| s.issue i .pt fun s =>
    let e : StackEntry := ⟨true, ⟨branchTarget s.cur.at_.pc off, 0⟩, s.cur.mask⟩
    let s' := s.retire i 1
    { s' with cur := { s'.cur with stack := e :: s'.cur.stack } }

/-- JOIN (R136): the top entry's lanes that have not ended go on; with none, the path ends (R137). In the handler
an entry at or below its base kills the block (R211). -/
def execJoin (dly : BitVec 3) (s : State) : Host.Outcome State Fault Refusal :=
  let i := Instr.join dly
  .next <| s.issue i .pt fun s =>
    let t := s.cur
    if t.hmode then
      match popPath t.ended (t.stack.take (t.stack.length - t.base)) with
      | none => s.killHandler i
      | some (e, m, r) =>
        let s' := s.retire i 1
        { s' with cur := { s'.cur with mask := m, at_ := e.start, stack := r ++ t.stack.drop (t.stack.length - t.base) } }
    else if t.stack.isEmpty then s.trapAll i 0x03 (encodeWord0 i)
    else (s.retire i 1).endOfPath

/-- EXIT (R137): the selected lanes end. An EXIT that would end the team's last lanes with an unreported copy
fault is recorded instead (R307). -/
def execExit (dly : BitVec 3) (g : Guard) (s : State) : Host.Outcome State Fault Refusal :=
  let i := Instr.exit dly g
  .next <| s.issue i g fun s =>
    let lanes := selectedLanes s.cur s.now g
    let last := (s.cur.ended ||| lanes) == fullMask s.cur.d.teamw && s.cur.recs.isEmpty
    if last && !s.cur.unreported.isEmpty && lanes != 0 then s.reportCopy i fun _ => false
    else (s.retire i (s.passes i g)).endLanes lanes

/-- A predictor entry after a branch at `x` (R148): the words with an active lane learn the outcome; the others are kept
on a hit and cleared on a miss. -/
def PredEntry.after (old : Option PredEntry) (x : DWord) (active taken : LaneMask) : PredEntry :=
  let words := maskOf ((activeWords active).flatMap fun w => (List.range 32).map (32 * w + ·))
  let e := old.getD ⟨false, 0, 0⟩
  ⟨true, x, ((e.taken &&& words) &&& ~~~ active) ||| taken ||| (if e.valid && e.addr == x then e.taken &&& ~~~ words else 0)⟩

/-- Every entry of a predictor invalidated (R142). -/
def Quad.forget (q : Quad) : Quad := { q with pred := q.pred.map fun e => (e.1, { e.2 with valid := false }) }

/-! ### Barriers (R151 to R153, R271) -/

/-- An instruction that a D-mode team leaves to the commit of its quantum (R268, R270). -/
def State.gate (s : State) (i : Instr) (act : State → State) : State :=
  if s.cur.d.dmode then (s.begin i (s.passes i .pt)).stall (.commit i) else act s

/-- An arrival (R152): a wrong count or expectation traps; else it is counted, and `go` follows. -/
def State.arrive (s : State) (i : Instr) (b : Nat) (want : BarWant) (go : State → State) : State :=
  let bar := s.blk.bars.getD b ⟨none, 0, 0⟩
  let beyond := match want with
    | .all => false
    | .count n => decide (s.cur.d.teams < n.toNat + 1)
  if beyond || (match bar.exp with
      | none => false
      | some e => e != want) then s.trapAll i 0x03 (encodeWord0 i)
  else
    let s1 := { s with
      blk := { s.blk with bars := upd s.blk.bars b fun x => { x with exp := some want, arr := x.arr + 1 } }
      cur := { s.cur with last := s.cur.last.set b (some bar.ph) } }
    go (s1.checkBarriers s1.cur.bid)

/-- Whether the team still waits on a barrier (R152). -/
def State.barrierWaits (s : State) (b : Nat) : Bool :=
  match s.cur.last.getD b none with
  | some p => p == (s.blk.bars.getD b ⟨none, 0, 0⟩).ph
  | none => false

/-- BAR.ARR, once the release step at BLOCK scope holds (R271). -/
def barArrBody (i : Instr) (b : Nat) (want : BarWant) (s : State) : State :=
  if releaseStep s.cur .block s.cur.ins then s.arrive i b want fun s => s.retire i 1
  else (s.begin i 1).stall (.release .block)

def execBarArr (dly : BitVec 3) (b : BitVec 4) (want : BarWant) (s : State) : Host.Outcome State Fault Refusal :=
  .next (s.issue (.barArr dly b want) .pt fun s => s.gate (.barArr dly b want) (barArrBody (.barArr dly b want) b.toNat want))

/-- A wait for a phase that the team has not seen (R152): until it has come the team is not ready, and no pass is charged (R29, R36;
log 99). -/
def barWaitBody (i : Instr) (b : Nat) (s : State) : State :=
  if s.barrierWaits b then s.stall (.barrier b) else s.retire i 1

def execBarWait (dly : BitVec 3) (b : BitVec 4) (s : State) : Host.Outcome State Fault Refusal :=
  .next (s.issue (.barWait dly b) .pt fun s => s.gate (.barWait dly b) (barWaitBody (.barWait dly b) b.toNat))

/-- BAR.SYNC: the arrival once, then the wait (R152); `synced` keeps an arrival that already counts. -/
def barSyncBody (i : Instr) (b : Nat) (want : BarWant) (s : State) : State :=
  let fin := fun (s : State) =>
    if s.barrierWaits b then (s.begin i 1).stall (.barrier b)
    else
      let s' := s.retire i 1
      { s' with cur := { s'.cur with synced := none } }
  if s.cur.synced = some (s.cur.at_.pc, b) then fin s
  else if releaseStep s.cur .block s.cur.ins then
    s.arrive i b want fun s => fin { s with cur := { s.cur with synced := some (s.cur.at_.pc, b) } }
  else (s.begin i 1).stall (.release .block)

def execBarSync (dly : BitVec 3) (b : BitVec 4) (want : BarWant) (s : State) : Host.Outcome State Fault Refusal :=
  .next (s.issue (.barSync dly b want) .pt fun s =>
    s.gate (.barSync dly b want) (barSyncBody (.barSync dly b want) b.toNat want))

/-! ### TRAP and RTT (R212 to R214) -/

/-- TRAP: the selected lanes are recorded with cause 0x13 and the record is taken at once; the path's other
lanes wait at the next instruction. -/
def execTrap (dly : BitVec 3) (g : Guard) (code : BitVec 8) (s : State) : Host.Outcome State Fault Refusal :=
  let i := Instr.trap dly g code
  .next <| s.issue i g fun s =>
    let lanes := selectedLanes s.cur s.now g
    let n := s.passes i g
    if lanes = 0 then s.retire i n
    else if s.cur.hmode then s.killTrap 0x13 s.cur.at_.pc (code.setWidth 32)
    else if Config.maxRecords ≤ s.cur.recs.length then s.takeTrap
    else
      let r : TrapRec := ⟨s.cur.at_, nextPt s.cur.at_ i, 0x13, code.setWidth 32, lanes⟩
      let s' := s.retire i n
      State.takeTrap { s' with cur := { s'.cur with recs := s'.cur.recs ++ [r], mask := s'.cur.mask &&& ~~~ lanes } }

/-- What RTT does with the lanes it keeps (R212): resume, skip or end them. -/
inductive RttKind where
  | res | skip | kill
  deriving DecidableEq, Repr

/-- Where RTT.RES resumes (R212, R214): a changed TRAPPC is a branch target. -/
def resumePt (r : TrapRec) (trappc : DWord) : CodePt :=
  if r.cause = 0x13 then r.next else if trappc = r.start.pc then r.start else ⟨trappc, 0⟩

/-- Whether the arrival of a BAR.SYNC or REORDER stands after a return (R152, R160): its record's lanes go back to it, or the record
is of another place. -/
def stillAt (r : TrapRec) (back : Option DWord) (keep : LaneMask) (x : DWord × Nat) : Bool :=
  x.1 != r.start.pc || keep != 0 && back == some x.1

/-- RTT (R212). -/
def execRtt (i : Instr) (k : RttKind) (s : State) : State :=
  s.issue i .pt fun s =>
    let t := s.cur
    match t.hmode, t.recs with
    | true, r :: rest =>
      let keep := r.mask &&& t.trapmask
      let ended := t.ended ||| (r.mask &&& ~~~ keep) ||| (if k = .kill then keep else 0)
      let below := t.stack.drop (t.stack.length - t.base)
      let stack := match k with
        | .res => pushPath below (resumePt r t.trappc) keep
        | .skip => pushPath below r.next keep
        | .kill => below
      let back := match k with
        | .res => some (resumePt r t.trappc).pc
        | .skip => some r.next.pc
        | .kill => none
      let synced := t.synced.filter (stillAt r back keep)
      let s0 := s.retire i 1
      let s' := if t.reordering && synced.isNone then { s0 with blk := s0.blk.withdraw t.uid } else s0
      let u : Team := { s'.cur with ended := ended, stack := stack, recs := rest, hmode := false, amask := t.savedAmask
                                    mask := 0, synced := synced }
      match rest with
      | r2 :: _ => { s' with cur := u.enter r2 }
      | [] => State.endOfPath { s' with cur := u }
    | _, _ => s.trapAll i 0x03 (encodeWord0 i)

def execRttRes (dly : BitVec 3) (s : State) : Host.Outcome State Fault Refusal := .next (execRtt (.rttRes dly) .res s)
def execRttSkip (dly : BitVec 3) (s : State) : Host.Outcome State Fault Refusal := .next (execRtt (.rttSkip dly) .skip s)
def execRttKill (dly : BitVec 3) (s : State) : Host.Outcome State Fault Refusal := .next (execRtt (.rttKill dly) .kill s)

end Sys2Proof.Machine
end

