-- ==== Sys2Proof/Machine/System.lean ====
section
/-! DEFINITION. GETSR and SETSR over every system register (R27, R28, R41, R42, R105 to R107, R215). -/

namespace Sys2Proof.Machine

/-- M at a joint in mA, toward zero, held to 16 bits (R42): estimates are sums of 5 mA over 1,250 cycles. -/
def jointMa (m : Int) : Int :=
  let x : Int := Int.tdiv m 250
  if x < -32767 then -32767 else if 32767 < x then 32767 else x
def jointField (m : Int) : Nat := wrap 16 (jointMa m)

/-- MSM of a core: the joint above and the joint below (R41, R42). -/
def State.msm (s : State) (core : Nat) : Word :=
  let c := core % 4
  let js := (s.pier (core / 4)).joints
  let at_ := fun (k : Nat) => jointField (js.getD k .reset).m
  let up := if c = 3 then 0x8000 else at_ c
  let lo := if c = 0 then 0x8000 else at_ (c - 1)
  BitVec.ofNat 32 (up * 2 ^ 16 + lo)

/-- A system register as lane `l` reads it in the present cycle (R27, R28, R106, R107, R150, R208, R209, R308, R320, R328). -/
def State.sysValue (s : State) (t : Team) (l : Nat) (r : SysReg) : Word :=
  match r with
  | .lane => BitVec.ofNat 32 l
  | .word => BitVec.ofNat 32 (l / 32)
  | .team => BitVec.ofNat 32 t.tno
  | .teams => BitVec.ofNat 32 t.d.teams
  | .teamw => BitVec.ofNat 32 t.d.teamw
  | .groupw => BitVec.ofNat 32 t.d.groupw
  | .blockx => BitVec.ofNat 32 t.bx
  | .blocky => BitVec.ofNat 32 t.byy
  | .blockz => BitVec.ofNat 32 t.bz
  | .gridx => BitVec.ofNat 32 t.d.gridx
  | .gridy => BitVec.ofNat 32 t.d.gridy
  | .gridz => BitVec.ofNat 32 t.d.gridz
  | .core => BitVec.ofNat 32 t.core
  | .pier => BitVec.ofNat 32 (t.core / 4)
  | .course => BitVec.ofNat 32 (t.core % 4)
  | .origin => BitVec.ofNat 32 (t.origin.getD l 0)
  | .srcid => s.srcid t
  | .msm => s.msm t.core
  | .balctl => s.blk.balctl
  | .fpctl => t.fpctl
  | .fpstat => t.fpstat
  | .sbthr => t.sbthr
  | .trapn => t.trapn
  | .trapcause => t.cause.setWidth 32
  | .trapdata => t.datum
  | .trapmask => maskWord t.trapmask (l / 32)
  | .trappcLo => lo32 t.trappc
  | .trappcHi => t.trappcHi.getD (hi32 t.trappc)
  | .cpyerr => t.cpyerr
  | .clockLo => lo32 s.clock
  | .clockHi => t.clockHi.getD (hi32 s.clock)
  | .marks => BitVec.ofNat 32 (t.late * 2 ^ 16 + t.mark)
  | .quant => t.quant
  | .replays => t.replays
  | .rndkeyLo => lo32 t.rndkey
  | .rndkeyHi => t.rndkeyHi.getD (hi32 t.rndkey)
  | .part => BitVec.ofNat 32 t.d.part
  | .asid => BitVec.ofNat 32 t.d.asid

/-- The high half caught by a read of a low half (R106). -/
def Team.latch (t : Team) (s : State) (r : SysReg) : Team :=
  match r with
  | .clockLo => { t with clockHi := some (hi32 s.clock) }
  | .trappcLo => { t with trappcHi := some (hi32 t.trappc) }
  | .rndkeyLo => { t with rndkeyHi := some (hi32 t.rndkey) }
  | _ => t

/-- The registers that change from cycle to cycle without an act of the team (R41, R107). -/
def srRuns : SysReg → Bool
  | .clockLo | .clockHi | .msm => true
  | _ => false

/-- The passes behind the first of a GETSR of such a register, each of which reads it in the cycle in which it issues (R20, R107). -/
def laterReads (now : Nat) (d : Reg) (r : SysReg) (words : List Nat) : List SrRead :=
  if srRuns r then (words.zipIdx.drop 1).map fun wk => ⟨now + wk.2, d.toNat, wk.1, r⟩ else []

/-- GETSR (R215): each selected lane its value, or once into an s register for the lowest active lane: the first pass's value, after
the last pass, and nothing where the guard selects no lane (log 113). A read of a low half into a v register catches the high half
whether or not the guard selects a lane (R106; log 113). A pass behind the first reads a register that runs in its own cycle (R107).
A D-mode team may not read CLOCK, MSM or REPLAYS (R271). -/
def execGetsr (dly : BitVec 3) (g : Guard) (d : Reg) (k : Bool) (r : SysReg) (s : State) :
    Host.Outcome State Fault Refusal :=
  let i := Instr.getsr dly g d k r
  .next <| s.issue i g fun s =>
    if s.cur.d.dmode && (srRuns r || r == .replays) then s.trapAll i 0x15 3
    else
      let ws := (passWords s.cur i g).zipIdx
      let now := s.now
      let t0 := s.cur.latch s r
      let t := if k then
          if selectedLanes s.cur now g = 0 then s.cur
          else t0.schedule (now + (ws.length - 1) + 4) [.s d.toNat (s.sysValue s.cur (lowestLane s.cur.mask) r)]
        else
          ws.foldl (fun (t : Team) wk =>
            let sp : State := { s with blk := landBalctl s.blk (s.cur.due (now + wk.2)) }
            t.schedule (now + wk.2 + 4)
              (passWrites (passLanes (s.cur.view (now + wk.2)) g wk.1 fun v l => resV d (sp.sysValue v l r))))
            { t0 with srReads := t0.srReads ++ laterReads now d r (ws.map (·.1)) }
      State.retire { s with cur := t } i ws.length

/-- The values a SETSR writes, with the pass that reads them, by word: one for a uniform register; for TRAPMASK the same
for every word from an s register, or each active word's lowest lane's from a v register (R103, R106, R209). -/
def setsrValues (t : Team) (now : Nat) (b : Reg) (bk : Bool) (r : SysReg) : List (Nat × List (Nat × Word)) :=
  if r = .trapmask then
    if bk then [(0, (List.range 32).map fun w => (w, t.rs b.toNat))]
    else (activeWords t.mask).zipIdx.map fun wk =>
      (wk.2, [(wk.1, ((t.view (now + wk.2)).rv b.toNat ((wordLanes t.mask wk.1).headD 0)).val)])
  else [(0, [(0, t.srcB bk b (lowestLane t.mask))])]

/-- SETSR (R106, R215): each pass's value lands as a 4-cycle result (R103); a read-only register is an operand fault
(`badOperands`). -/
def execSetsr (dly : BitVec 3) (b : Reg) (bk : Bool) (r : SysReg) (s : State) : Host.Outcome State Fault Refusal :=
  let i := Instr.setsr dly b bk r
  .next <| s.issue i .pt fun s =>
    let t := (setsrValues (s.cur.view s.now) s.now b bk r).foldl (fun (t : Team) x => t.schedule (s.now + x.1 + 4) [.sys r x.2]) s.cur
    State.retire { s with cur := t } i (s.passes i .pt)

end Sys2Proof.Machine
end

