-- ==== Sys2Proof/Machine/Balance.lean ====
section
/-! DEFINITION. The balance of current (R34 to R61): BAL.BURN, BAL.SHUNT, BAL.HOLD, the estimate of a cycle, windows,
halves, course imbalance traps, T3 trips, boosts, and the energy charged to tenants (R335). -/

namespace Sys2Proof.Machine

/-- BAL.BURN (R53, R154): a later one replaces the running burn; level or count 0 ends it; in the cycle
in which one is replaced neither draws (log 97). -/
def execBalBurn (dly : BitVec 3) (lvl : BitVec 4) (len : BurnLen) (s : State) : Host.Outcome State Fault Refusal :=
  let i := Instr.balBurn dly lvl len
  .next <| s.issue i .pt fun s =>
    let n := match len with
      | .imm n => n.toNat
      | .reg b => (s.cur.rs b.toNat).toNat
    let s' := s.retire i 1
    { s' with cur := { s'.cur with burn := if lvl = 0 ∨ n = 0 then (0, 0) else (lvl.toNat, n), burnFrom := s'.clock.toNat + 1 } }

/-- A joint takes a boost unless one runs or it cools down: the 40 windows after this one, counted with it (R52). -/
def Joint.ask (j : Joint) : Joint :=
  if j.boost = 0 ∧ j.cool = 0 ∧ !j.boostOver ∧ !j.coolOver then { j with boost := Config.boostWindows + 1 } else j

/-- BAL.SHUNT (R52): each joint of the core is asked. -/
def execBalShunt (dly : BitVec 3) (s : State) : Host.Outcome State Fault Refusal :=
  let i := Instr.balShunt dly
  .next <| s.issue i .pt fun s =>
    let c := s.cur.core % 4
    (s.retire i 1).onPier (s.cur.core / 4) fun p =>
      { p with joints := p.joints.mapIdx fun k j => if k = c ∨ k + 1 = c then j.ask else j }

/-- BAL.HOLD (R54): the block's floor level. -/
def execBalHold (dly : BitVec 3) (lvl : BitVec 4) (s : State) : Host.Outcome State Fault Refusal :=
  let i := Instr.balHold dly lvl
  .next <| s.issue i .pt fun s =>
    let s' := s.retire i 1
    { s' with blk := { s'.blk with hold := lvl.toNat } }

/-- BURN_EXPIRE (R53): a burn whose count has run out ends. -/
def execBurnExpire (uid : Nat) (s : State) : Host.Outcome State Fault Refusal :=
  .next (s.onTeam uid fun t => if t.burn.2 = 0 then { t with burn := (0, 0) } else t)

/-! ### What is resident -/

/-- Teams resident on a core, and blocks with a share of it. -/
def State.coreTeams (s : State) (c : Nat) : List Team :=
  s.allTeams.filter fun t => (t.st == .resident || t.st == .frozen) && t.core == c
def Block.onCore (b : Block) (c : Nat) : Bool := b.live && (b.home == c || (b.pair && b.home + 1 == c))
def State.coreBlocks (s : State) (c : Nat) : List Block := s.allBlocks.filter fun b => b.onCore c
def State.ordinary (s : State) (c : Nat) : List Team := (s.coreTeams c).filter fun t => !t.handler

/-- The greatest of some numbers. -/
def greatest (l : List Nat) : Nat := l.foldl max 0

/-- The class of a core: the highest among its blocks (R46). -/
def State.coreClass (s : State) (c : Nat) : Nat := greatest ((s.coreBlocks c).map (·.d.cls))
def mateOf (c : Nat) : Nat := if c % 2 = 0 then c + 1 else c - 1

/-- Level of idle ballast (R58). -/
def State.idleLevel (s : State) (c : Nat) : Nat :=
  if !(s.ordinary c).isEmpty || (s.coreBlocks (mateOf c)).isEmpty then 0
  else
    match s.coreClass (mateOf c) with
    | 0 => 2
    | 1 => 12
    | _ => 15

/-! ### Windows -/

/-- The partition that holds a core. -/
def State.partOfCore (s : State) (c : Nat) : Nat :=
  ((List.range Config.numPartitions).find? fun p => ownsCore (s.part p) c && (s.part p).st != .unused).getD 0

/-- T1 and T2 limits a core applies in this window, in units of 125 mA (R12). -/
def State.coreT1 (s : State) (c : Nat) : Nat := (s.coreBlocks c).foldl (fun m b => min m b.t1win) 10
def State.coreT2 (s : State) (c : Nat) : Nat := (s.coreBlocks c).foldl (fun m b => min m b.t2win) 16

/-- A limit of `n` × 125 mA, with 0.5 A more under a boost, in units of the sums (R44, R45). -/
def limitSum (n : Nat) (boost : Bool) : Nat := (n * 125 + (if boost then 500 else 0)) * 250

/-- A boost that runs in this window: it was asked for in an earlier one (R52). -/
def Joint.boosted (j : Joint) : Bool := decide (1 ≤ j.boost ∧ j.boost ≤ Config.boostWindows)

/-- A joint at a window's end (R42, R44, R45): its mismatch, whether its heavier core is halved, its T2 count, and
whether the count of 4 is reached. -/
structure JointEnd where
  joint : Joint
  halve : Option Nat
  trap : Option Nat
  deriving DecidableEq, Repr

/-- The core that a course imbalance trap goes to (R46): furthest from its nominal current, the heavier on a tie;
none without an ordinary team. `lo` is the lower core. -/
def State.chooseCore (s : State) (lo : Nat) (eLo eUp : Nat) : Option Nat :=
  let nom := fun (c : Nat) => (s.coreClass c + 1) * 250 * 1250
  let dist := fun (e c : Nat) => ((e : Int) - (nom c : Int)).natAbs
  match (s.ordinary lo).isEmpty, (s.ordinary (lo + 1)).isEmpty with
  | true, true => none
  | true, false => some (lo + 1)
  | false, true => some lo
  | false, false =>
    if dist eLo lo < dist eUp (lo + 1) then some (lo + 1)
    else if dist eUp (lo + 1) < dist eLo lo then some lo
    else some (if eLo < eUp then lo + 1 else lo)

def State.jointEnd (s : State) (pier c : Nat) (j : Joint) : JointEnd :=
  let lo := 4 * pier + c
  let eLo := (s.core lo).sum
  let eUp := (s.core (lo + 1)).sum
  let m : Int := (eUp : Int) - (eLo : Int)
  let t1 := limitSum (min (s.coreT1 lo) (s.coreT1 (lo + 1))) j.boosted
  let t2 := limitSum (min (s.coreT2 lo) (s.coreT2 (lo + 1))) j.boosted
  let halve := if t1 < m.natAbs then some (if 0 < m then lo + 1 else lo) else none
  let n := if t2 < m.natAbs then j.t2count + 1 else 0
  let trap := if 4 ≤ n then s.chooseCore lo eLo eUp else none
  ⟨{ j with m := m
            t2count := if 4 ≤ n then 0 else n
            boost := j.boost - 1
            cool := j.cool - 1
            boostOver := j.boostOver || j.boost == 1
            coolOver := j.coolOver || j.cool == 1
            halves := if halve.isSome then j.halves + 1 else j.halves
            t2traps := if trap.isSome then j.t2traps + 1 else j.t2traps }, halve, trap⟩

/-- TRAPDATA of cause 0x12 (R48). -/
def imbalanceDatum (joint : Nat) (m : Int) : Word := BitVec.ofNat 32 (joint * 2 ^ 16 + jointField m)

/-- A second course imbalance trap merged into a pending one: the lowest joint is kept (R47, R48), and of two
of one joint the older (log 96). -/
def mergeImbalance (old : Option Word) (d : Word) : Word :=
  match old with
  | some o => if (d.extractLsb' 16 2).toNat < (o.extractLsb' 16 2).toNat then d else o
  | none => d

/-- A course imbalance trap delivered to a core's ordinary teams (R47). -/
def State.imbalance (s : State) (core : Nat) (d : Word) : State :=
  s.mapTeams fun t =>
    if t.st == .resident && t.core == core && !t.handler then { t with apend := some (mergeImbalance t.apend d) } else t

/-- A core's window energy shared among the tenants that were resident in the window: by passes, or equally (R335); by partition
and tenant. Sums are in units of 5 mA over a cycle of 0.8 ns at 0.75 V, so that 10^9 of three times the sum are 1 mJ. -/
def State.energyOf (s : State) (c : Nat) : List (Nat × Nat × Nat × Nat) :=
  let k := s.core c
  let total := (k.passes.map (·.2)).foldl (· + ·) 0
  k.passes.map fun x =>
    (s.partOfCore c, x.1, if total = 0 then (3 * k.sum, k.passes.length) else (3 * k.sum * x.2, total))

/-- Fractions added, in lowest terms. -/
def addFrac (a b : Nat × Nat) : Nat × Nat :=
  let n := a.1 * b.2 + b.1 * a.2
  let d := a.2 * b.2
  let g := Nat.gcd n d
  if g = 0 then a else (n / g, d / g)

/-- A share added to a tenant's count. -/
def addShare (es : List (Nat × (Nat × Nat))) (tenant : Nat) (x : Nat × Nat) : List (Nat × (Nat × Nat)) :=
  if es.any fun e => e.1 = tenant then es.map fun e => if e.1 = tenant then (e.1, addFrac e.2 x) else e
  else es ++ [(tenant, addFrac (0, 1) x)]

/-- The tenants of the blocks resident on a core, with no pass yet. -/
def State.resident (s : State) (c : Nat) : List (Nat × Nat) := (distinct ((s.coreBlocks c).map (·.d.tenant))).map fun t => (t, 0)

/-- WINDOW_END (R36, R39, R42 to R47, R335): estimates are taken, joints judged in order, halves set for the next
window, traps delivered, boosts and cool-downs counted, energy charged, written limits put into force. -/
def execWindowEnd (s : State) : Host.Outcome State Fault Refusal :=
  .next <|
    if s.clock.toNat / Config.windowCycles ≤ s.wins then s
    else
      let ends := (List.range Config.numPiers).map fun p => ((s.pier p).joints.mapIdx fun c j => s.jointEnd p c j)
      let flat := ends.flatMap id
      let halved := flat.filterMap (·.halve)
      let charges := (List.range Config.numCores).flatMap s.energyOf
      let cores := s.cores.mapIdx fun c k =>
        { k with est := k.sum, acc := k.acc + k.sum, sum := 0, halved := halved.contains c, passes := s.resident c }
      let piers := s.piers.mapIdx fun p x => { x with joints := (ends.getD p []).map (·.joint) }
      let finished := (List.range Config.numPiers).flatMap fun p => ((ends.getD p []).zipIdx).flatMap fun jc =>
        (if jc.1.joint.boostOver then [Instr.boostEnd p jc.2] else []) ++ (if jc.1.joint.coolOver then [Instr.coolDownEnd p jc.2] else [])
      let parts := s.parts.mapIdx fun p x =>
        { x with energy := (charges.filter fun c => c.1 = p).foldl (fun es c => addShare es c.2.1 c.2.2) x.energy }
      let s1 := { s with cores := cores, piers := piers, parts := parts, wins := s.wins + 1, agenda := finished ++ s.agenda }
      let s2 := s1.mapBlocks fun b => { b with t1win := b.t1, t2win := b.t2 }
      (List.range Config.numPiers).foldl (fun s p => ((ends.getD p []).zipIdx).foldl (fun s jc =>
        match jc.1.trap with
        | some c => s.imbalance c (imbalanceDatum jc.2 jc.1.joint.m)
        | none => s) s) s2

/-- BOOST_END and COOL_DOWN_END (R52): a boost whose 40 windows have run gives way to a cool-down, and one whose 200 have run
leaves the joint idle. -/
def State.onJoint (s : State) (pier joint : Nat) (f : Joint → Joint) : State :=
  s.onPier pier fun p => { p with joints := upd p.joints joint f }
def execBoostEnd (pier joint : Nat) (s : State) : Host.Outcome State Fault Refusal :=
  .next (s.onJoint pier joint fun j => if j.boostOver then { j with boostOver := false, cool := Config.coolWindows } else j)
def execCoolDownEnd (pier joint : Nat) (s : State) : Host.Outcome State Fault Refusal :=
  .next (s.onJoint pier joint fun j => { j with coolOver := false })

/-- Whether a measured mismatch in mA trips T3 (R50). -/
def tripsT3 (mismatch : Int) : Bool := decide (2750 < mismatch.natAbs)

/-- T3_TRIP (R50): a mismatch above 2.75 A, or a course voltage outside its window, clamps the pier for 100 µs from now, and
the fault goes to function 0 and to the partitions of the pier. -/
def execT3Trip (pier joint : Nat) (mismatch : Int) (voltageOnly : Bool) (s : State) : Host.Outcome State Fault Refusal :=
  .next <| if !voltageOnly && !tripsT3 mismatch then s else
    let owner := fun (pair : Nat) => (List.range Config.numPartitions).filter fun p => ownsPair (s.part p) pair && (s.part p).st != .unused
    let parts := owner (2 * pier) ++ owner (2 * pier + 1)
    let lower := owner (2 * pier + joint / 2)
    let s1 := (s.onPier pier fun p => { p with clampTo := s.clock.toNat + Config.clampCycles }).onJoint pier joint
      fun j => { j with t3trips := j.t3trips + 1 }
    s1.postFault (0 :: parts.flatMap s1.lowestFunc)
      ⟨faultCode 0 0x0B 0x22, lower.headD 0xFF, 0xFF, 0, BitVec.ofNat 64 (joint * 256 + pier), 0,
        BitVec.ofNat 32 (if voltageOnly then 0 else wrap 16 mismatch)⟩

/-- CLAMP_END (R50): a clamp whose time has run ends. -/
def execClampEnd (pier : Nat) (s : State) : Host.Outcome State Fault Refusal :=
  .next (s.onPier pier fun p => if p.clampTo ≤ s.clock.toNat then { p with clampTo := 0 } else p)

end Sys2Proof.Machine
end

