-- ==== Sys2Proof/Machine/Float.lean ====
section
/-! DEFINITION. Floating-point formats, exact values, rounding (R166 to R174) and the sound-bit counts of results
(R179 to R182). A finite value is a sign and m × 2^e, so sums and products are exact. -/

namespace Sys2Proof.Machine

/-- How a format encodes infinities and NaNs (R167). -/
inductive FmtKind where
  | ieee | f8a | f8b | f4
  deriving DecidableEq, Repr

/-- A format (R166): exponent and fraction widths, bias. -/
structure Fmt where
  eb : Nat
  fb : Nat
  bias : Int
  kind : FmtKind
  deriving DecidableEq, Repr

def fmt64 : Fmt := ⟨11, 52, 1023, .ieee⟩
def fmt32 : Fmt := ⟨8, 23, 127, .ieee⟩
def fmt16 : Fmt := ⟨5, 10, 15, .ieee⟩
def fmtB16 : Fmt := ⟨8, 7, 127, .ieee⟩
def fmtF8a : Fmt := ⟨4, 3, 7, .f8a⟩
def fmtF8b : Fmt := ⟨5, 2, 15, .f8b⟩
def fmtF4 : Fmt := ⟨2, 1, 1, .f4⟩

def Fmt.width (f : Fmt) : Nat := 1 + f.eb + f.fb
/-- Precision P and the exponent of the smallest normal number. -/
def Fmt.prec (f : Fmt) : Nat := f.fb + 1
def Fmt.emin (f : Fmt) : Int := 1 - f.bias

/-- A value: a NaN (signalling or not), an infinity, or (−1)^neg × m × 2^e. -/
inductive FVal where
  | nan (sig : Bool)
  | inf (neg : Bool)
  | fin (neg : Bool) (m : Nat) (e : Int)
  deriving DecidableEq, Repr

/-- 2^k for a natural part of an integer exponent. -/
def pow2 (k : Int) : Nat := 2 ^ k.toNat

/-- floor(log2 |x|) of a nonzero m × 2^e. -/
def expOf (m : Nat) (e : Int) : Int := (Nat.log2 m : Int) + e

/-- The value of an encoding (R166, R167). -/
def Fmt.decode (f : Fmt) (x : Nat) : FVal :=
  let fr := x % 2 ^ f.fb
  let ex := (x / 2 ^ f.fb) % 2 ^ f.eb
  let neg := x.testBit (f.eb + f.fb)
  let top := decide (ex = 2 ^ f.eb - 1)
  let fin : FVal :=
    if ex = 0 then .fin neg fr (f.emin - f.fb) else .fin neg (2 ^ f.fb + fr) ((ex : Int) - f.bias - f.fb)
  match f.kind with
  | .ieee => if top then if fr = 0 then .inf neg else .nan (!fr.testBit (f.fb - 1)) else fin
  | .f8b => if top then if fr = 0 then .inf neg else .nan false else fin
  | .f8a => if top && decide (fr = 7) then .nan false else fin
  | .f4 => fin

/-- The canonical NaN (R167); F4 has none and takes +0 (R171). -/
def Fmt.nan (f : Fmt) : Nat :=
  match f.kind with
  | .ieee => (2 ^ f.eb - 1) * 2 ^ f.fb + 2 ^ (f.fb - 1)
  | .f8b => 0x7E
  | .f8a => 0x7F
  | .f4 => 0

def Fmt.signBit (f : Fmt) (neg : Bool) : Nat := if neg then 2 ^ (f.eb + f.fb) else 0
def Fmt.hasInf (f : Fmt) : Bool := f.kind == .ieee || f.kind == .f8b
def Fmt.infBits (f : Fmt) (neg : Bool) : Nat := f.signBit neg + (2 ^ f.eb - 1) * 2 ^ f.fb
/-- The largest finite magnitude (R166). -/
def Fmt.maxBits (f : Fmt) : Nat :=
  match f.kind with
  | .ieee | .f8b => (2 ^ f.eb - 1) * 2 ^ f.fb - 1
  | .f8a => 0x7E
  | .f4 => 0x7

/-- m × 2^e against m' × 2^e', both as magnitudes. -/
def magLe (m : Nat) (e : Int) (m' : Nat) (e' : Int) : Bool :=
  if e ≤ e' then decide (m ≤ m' * pow2 (e' - e)) else decide (m * pow2 (e - e') ≤ m')

/-- A magnitude rounded to an integer multiple of 2^q by a mode: the multiple, and whether it is exact (R169). -/
def roundMag (mode : RM) (neg : Bool) (m : Nat) (e q : Int) : Nat × Bool :=
  if q ≤ e then (m * pow2 (e - q), true)
  else
    let d := pow2 (q - e)
    let n := m / d
    let r := m % d
    let up := match mode with
      | .rne => decide (d < 2 * r) || (decide (2 * r = d) && n % 2 = 1)
      | .rz => false
      | .ru => !neg && r != 0
      | .rd => neg && r != 0
    (if up then n + 1 else n, r == 0)

/-- The encoding of n × 2^q, q being the unit of the place that the format gives that value. -/
def Fmt.pack (f : Fmt) (neg : Bool) (n : Nat) (q : Int) : Nat :=
  if n < 2 ^ f.fb then f.signBit neg + n
  else
    let k := Nat.log2 n
    f.signBit neg + ((k : Int) + q + f.bias).toNat * 2 ^ f.fb + (n * 2 ^ f.fb / 2 ^ k - 2 ^ f.fb)

/-- The result of an overflow (R170). -/
def Fmt.overflow (f : Fmt) (mode : RM) (neg : Bool) : Nat :=
  let mx := f.signBit neg + f.maxBits
  if !f.hasInf then mx
  else
    match mode with
    | .rne => f.infBits neg
    | .rz => mx
    | .ru => if neg then mx else f.infBits neg
    | .rd => if neg then f.infBits neg else mx

/-- round_fmt (R169): the encoding and the flags raised. A signalling NaN input raises IV where it is read. -/
def Fmt.round (f : Fmt) (mode : RM) (ftz : Bool) (x : FVal) : Nat × Word :=
  match x with
  | .nan _ => (f.nan, if f.kind == .f4 then flagIV else 0)
  | .inf neg => if f.hasInf then (f.infBits neg, 0) else (f.signBit neg + f.maxBits, flagIV)
  | .fin neg 0 _ => (f.signBit neg, 0)
  | .fin neg m e =>
    let ex := expOf m e
    let tiny := decide (ex < f.emin)
    if tiny && ftz then (f.signBit neg, flagUF ||| flagNX)
    else
      let q := (if ex < f.emin then f.emin else ex) - f.fb
      let (n, exact) := roundMag mode neg m e q
      let beyond := match f.decode f.maxBits with
        | .fin _ mm me => !magLe n q mm me
        | _ => false
      if beyond then (f.overflow mode neg, flagOF ||| flagNX)
      else (f.pack neg n q, if exact then 0 else if tiny then flagNX ||| flagUF else flagNX)

/-- Subnormal in a format (R174, R182). -/
def Fmt.subnormal (f : Fmt) (x : FVal) : Bool :=
  match x with
  | .fin _ m e => m != 0 && decide (expOf m e < f.emin)
  | _ => false

/-- An input under FTZ: a subnormal becomes a zero of its sign (R174). -/
def Fmt.flush (f : Fmt) (ftz : Bool) (x : FVal) : FVal :=
  match x with
  | .fin neg _ e => if ftz && f.subnormal x then .fin neg 0 e else x
  | _ => x

def FVal.isNan : FVal → Bool
  | .nan _ => true
  | _ => false
def FVal.isSnan : FVal → Bool
  | .nan s => s
  | _ => false
def FVal.isZero : FVal → Bool
  | .fin _ m _ => m == 0
  | _ => false
def FVal.neg : FVal → FVal
  | .nan s => .nan s
  | .inf n => .inf (!n)
  | .fin n m e => .fin (!n) m e
def FVal.isNeg : FVal → Bool
  | .nan _ => false
  | .inf n => n
  | .fin n _ _ => n

/-- IV for signalling inputs (R167). -/
def snanFlag (xs : List FVal) : Word := if xs.any FVal.isSnan then flagIV else 0

/-- The exact product; 0 × ∞ is NaN with IV. Inputs' own NaNs raise IV elsewhere. -/
def FVal.mul : FVal → FVal → FVal × Word
  | .nan _, _ | _, .nan _ => (.nan false, 0)
  | .inf a, .inf b => (.inf (a != b), 0)
  | .inf a, .fin b m _ | .fin b m _, .inf a => if m = 0 then (.nan false, flagIV) else (.inf (a != b), 0)
  | .fin a m e, .fin b m' e' => (.fin (a != b) (m * m') (e + e'), 0)

/-- A signed integer scaled to an exponent below its own. -/
def scaled (neg : Bool) (m : Nat) (e q : Int) : Int :=
  if neg then -((m * pow2 (e - q) : Nat) : Int) else ((m * pow2 (e - q) : Nat) : Int)

/-- The exact sum, with the sign of a zero by R173; ∞ − ∞ is NaN with IV. -/
def FVal.add (mode : RM) : FVal → FVal → FVal × Word
  | .nan _, _ | _, .nan _ => (.nan false, 0)
  | .inf a, .inf b => if a = b then (.inf a, 0) else (.nan false, flagIV)
  | .inf a, .fin _ _ _ | .fin _ _ _, .inf a => (.inf a, 0)
  | .fin a m e, .fin b m' e' =>
    if m = 0 ∧ m' = 0 then
      (.fin (if a = b then a else mode == .rd) 0 0, 0)
    else
      let q := if e ≤ e' then e else e'
      let t := scaled a m e q + scaled b m' e' q
      if t = 0 then (.fin (mode == .rd) 0 0, 0) else (.fin (decide (t < 0)) t.natAbs q, 0)

/-- Order of two values that are not NaN: −1, 0, 1. Zeros are equal. -/
def FVal.cmp : FVal → FVal → Int
  | .nan _, _ | _, .nan _ => 0
  | .inf a, .inf b => if a = b then 0 else if a then -1 else 1
  | .inf a, .fin _ _ _ => if a then -1 else 1
  | .fin _ _ _, .inf a => if a then 1 else -1
  | .fin a m e, .fin b m' e' =>
    let q := if e ≤ e' then e else e'
    let t := scaled a m e q - scaled b m' e' q
    if t < 0 then -1 else if t = 0 then 0 else 1

/-- FP32 addition under RNE with subnormals kept: FADD of ATOM and of reductions (R158, R256). -/
def add32 (mode : RM) (a b : Word) : Word × Word :=
  let x := fmt32.decode a.toNat
  let y := fmt32.decode b.toNat
  let (z, f) := FVal.add mode x y
  let (r, g) := fmt32.round mode false z
  (BitVec.ofNat 32 r, f ||| g ||| snanFlag [x, y])

/-- round_int (R172) for the range lo..hi: the integer and the flags. -/
def roundInt (mode : RM) (lo hi : Int) (x : FVal) : Int × Word :=
  match x with
  | .nan _ => (0, flagIV)
  | .inf neg => (if neg then lo else hi, flagIV)
  | .fin neg m e =>
    let (n, exact) := roundMag mode neg m e 0
    let y : Int := if neg then -(n : Int) else (n : Int)
    if y < lo then (lo, flagIV) else if hi < y then (hi, flagIV) else (y, if exact then 0 else flagNX)

/-- An integer as a value. -/
def FVal.ofInt (x : Int) : FVal := .fin (decide (x < 0)) x.natAbs 0

/-! ### Sound-bit counts (R180 to R182) -/

/-- A source's count as an operation of precision P reads it (R180). -/
def readCount (f : Fmt) (x : FVal) (code : BitVec 6) : Nat :=
  let c := code.toNat
  if c = 63 then
    match x with
    | .fin _ m e => if f.subnormal x then (expOf m e - f.emin + f.prec).toNat else f.prec
    | _ => f.prec
  else if f.prec < c then f.prec else c

/-- A term of a sum: its value and its floor, the exponent less the count (R180). -/
structure CTerm where
  val : FVal
  cnt : Nat
  deriving DecidableEq, Repr

def CTerm.floor (t : CTerm) : Option Int :=
  match t.val with
  | .fin _ m e => if m = 0 then none else some (expOf m e - t.cnt)
  | _ => none

/-- The greater of two floors, none as −∞. -/
def maxFloor : Option Int → Option Int → Option Int
  | none, y => y
  | x, none => x
  | some a, some b => some (if a < b then b else a)

/-- A class's count after the overrides of R182: `zeroIn` is the count of a zero result of zero inputs, none where
the zero comes of nonzero inputs. -/
def overrideCount (f : Fmt) (r : FVal) (zeroIn : Option Nat) (c : Nat) : BitVec 6 :=
  match r with
  | .nan _ | .inf _ => 0
  | .fin _ m e =>
    if m = 0 then BitVec.ofNat 6 (min (zeroIn.getD 0) f.prec)
    else
      let cap := if f.subnormal r then (expOf m e - f.emin + f.prec).toNat else f.prec
      BitVec.ofNat 6 (min c (min cap f.prec))

/-- ADD over terms (R181, R182): the result `r` as written. -/
def countAdd (f : Fmt) (ts : List CTerm) (r : FVal) : BitVec 6 :=
  let fl := (ts.map CTerm.floor).foldl maxFloor none
  let c := match r, fl with
    | .fin _ m e, some x => (expOf m e - x).toNat
    | _, _ => f.prec
  let least := ts.foldl (fun a t => min a t.cnt) f.prec
  overrideCount f r (if ts.all fun t => t.val.isZero then some least else none) c

/-- MUL (R181, R182). -/
def countMul (f : Fmt) (a b : CTerm) (r : FVal) : BitVec 6 :=
  let z := match a.val.isZero, b.val.isZero with
    | true, true => some (min a.cnt b.cnt)
    | true, false => some a.cnt
    | false, true => some b.cnt
    | false, false => none
  overrideCount f r z (min a.cnt b.cnt)

/-- The product of an FMA as a term (R181): the least count of its zero operands when it is zero (R182). -/
def prodTerm (a b : CTerm) : CTerm :=
  let p := (FVal.mul a.val b.val).1
  let c := match a.val.isZero, b.val.isZero with
    | true, false => a.cnt
    | false, true => b.cnt
    | _, _ => min a.cnt b.cnt
  ⟨p, c⟩

end Sys2Proof.Machine
end

