-- ==== Sys2Proof/Machine/Integer.lean ====
section
/-! DEFINITION. The integer family (R115 to R130): arithmetic, logic and shifts, bit operations, comparison and
predicates, moves and selection, addresses and 64-bit values, integer conversion, and RND. -/

namespace Sys2Proof.Machine

/-! ### The values (R118, R119, R125 to R128) -/

/-- An integer held to a range. -/
def clampInt (lo hi x : Int) : Int := if x < lo then lo else if hi < x then hi else x

/-- IADD and ISUB by MODE (R118). -/
def addVal (m : AddMode) (a b : Word) : Word :=
  match m with
  | .wrap => a + b
  | .ss => BitVec.ofInt 32 (clampInt (-2 ^ 31) (2 ^ 31 - 1) (a.toInt + b.toInt))
  | .us => BitVec.ofInt 32 (clampInt 0 (2 ^ 32 - 1) ((a.toNat : Int) + b.toNat))
def subVal (m : AddMode) (a b : Word) : Word :=
  match m with
  | .wrap => a - b
  | .ss => BitVec.ofInt 32 (clampInt (-2 ^ 31) (2 ^ 31 - 1) (a.toInt - b.toInt))
  | .us => BitVec.ofInt 32 (clampInt 0 (2 ^ 32 - 1) ((a.toNat : Int) - b.toNat))

/-- IMULH: bits 63 to 32 of the product. -/
def mulhVal (uns : Bool) (a b : Word) : Word :=
  if uns then BitVec.ofNat 32 (a.toNat * b.toNat / 2 ^ 32) else BitVec.ofInt 32 (a.toInt * b.toInt / 2 ^ 32)

def minVal (uns : Bool) (a b : Word) : Word :=
  if (if uns then decide (a.toNat ≤ b.toNat) else decide (a.toInt ≤ b.toInt)) then a else b
def maxVal (uns : Bool) (a b : Word) : Word :=
  if (if uns then decide (a.toNat ≤ b.toNat) else decide (a.toInt ≤ b.toInt)) then b else a

/-- Shifts of 32 or more give 0, or the sign (R118). -/
def shlVal (a b : Word) : Word := if 32 ≤ b.toNat then 0 else a <<< b.toNat
def shrVal (a b : Word) : Word := if 32 ≤ b.toNat then 0 else a >>> b.toNat
def sarVal (a b : Word) : Word := a.sshiftRight (min b.toNat 31)

/-- POPC, CLZ and BREV. -/
def popcVal (a : Word) : Word := BitVec.ofNat 32 ((List.range 32).filter fun k => a.getLsbD k).length
def clzVal (a : Word) : Word := if a = 0 then 32 else BitVec.ofNat 32 (31 - Nat.log2 a.toNat)
def brevVal (a : Word) : Word :=
  (List.range 32).foldl (fun (r : Word) k => if a.getLsbD (31 - k) then r ||| (1#32 <<< k) else r) 0

/-- The control word of BFX and BFI (R119): position and length. -/
def fieldOf (b : Word) : Nat × Nat := (bitsOf b.toNat 4 0, min (bitsOf b.toNat 13 8) (32 - bitsOf b.toNat 4 0))
def bfxVal (sgn : Bool) (a b : Word) : Word :=
  let (pos, len) := fieldOf b
  let x := (a >>> pos).toNat % 2 ^ len
  if len = 0 then 0 else if sgn then BitVec.ofInt 32 (signed len x) else BitVec.ofNat 32 x
def bfiVal (a b c : Word) : Word :=
  let (pos, len) := fieldOf b
  let m : Word := BitVec.ofNat 32 (2 ^ len - 1) <<< pos
  (a &&& ~~~ m) ||| ((c <<< pos) &&& m)
def rotVal (a b : Word) : Word := a.rotateLeft (bitsOf b.toNat 4 0)
def iabsVal (a : Word) : Word := if a.toInt < 0 then -a else a

/-- ICMP's conditions (R120). -/
def icondVal (cc : ICond) (a b : Word) : Bool :=
  match cc with
  | .eq => a == b
  | .ne => a != b
  | .lt => decide (a.toInt < b.toInt)
  | .le => decide (a.toInt ≤ b.toInt)
  | .gt => decide (b.toInt < a.toInt)
  | .ge => decide (b.toInt ≤ a.toInt)
  | .ltu => decide (a.toNat < b.toNat)
  | .leu => decide (a.toNat ≤ b.toNat)
  | .gtu => decide (b.toNat < a.toNat)
  | .geu => decide (b.toNat ≤ a.toNat)

/-- LEA (R125). -/
def leaVal (sx : Bool) (sh : Nat) (a : DWord) (b : Word) : DWord :=
  a + ((if sx then b.signExtend 64 else b.zeroExtend 64) <<< sh)
def shlWVal (a : DWord) (b : Word) : DWord := if 64 ≤ b.toNat then 0 else a <<< b.toNat
def shrWVal (a : DWord) (b : Word) : DWord := if 64 ≤ b.toNat then 0 else a >>> b.toNat
def mulWVal (uns : Bool) (a b : Word) : DWord :=
  if uns then BitVec.ofNat 64 (a.toNat * b.toNat) else BitVec.ofInt 64 (a.toInt * b.toInt)

/-- Width and signedness of an integer type (R110). -/
def intWidth : IntTy → Nat
  | .int4 | .uint4 => 4
  | .int8 | .uint8 => 8
  | .int16 | .uint16 => 16
  | .int32 | .uint32 => 32
  | .int64 | .uint64 => 64
def intSigned : IntTy → Bool
  | .int4 | .int8 | .int16 | .int32 | .int64 => true
  | .uint4 | .uint8 | .uint16 | .uint32 | .uint64 => false
def intMin (t : IntTy) : Int := if intSigned t then -(2 ^ (intWidth t - 1) : Nat) else 0
def intMax (t : IntTy) : Int := if intSigned t then (2 ^ (intWidth t - 1) : Nat) - 1 else (2 ^ intWidth t : Nat) - 1

/-- A value of an integer type read from a register or pair, and its extension as a register or pair holds it. -/
def intRead (t : IntTy) (x : Nat) : Int :=
  if intSigned t then signed (intWidth t) x else ((x % 2 ^ intWidth t : Nat) : Int)
def intHold (t : IntTy) (x : Int) : DWord := BitVec.ofInt 64 (intRead t (wrap (intWidth t) x))

/-- ICVT (R127). -/
def icvtVal (src dst : IntTy) (sat : Bool) (a : Nat) : DWord :=
  let x := intRead src a
  intHold dst (if sat then clampInt (intMin dst) (intMax dst) x else x)

/-- rnd_hash (R128). -/
def rndRound (hi h : Word) : Word :=
  let h1 := h ^^^ hi
  let h2 := h1 ^^^ (h1 >>> 15)
  let h3 := h2 * 0x2C1B3C6D
  h3 ^^^ (h3 >>> 12)
def rndHash (k : DWord) (d l : Word) : Word :=
  rndRound (hi32 k) (rndRound (hi32 k) (lo32 k + 0x9E3779B1 * (d + 1) + 0x85EBCA77 * (l + 1)))

/-- The global index of a lane (R16, R128), from its origin, held as TEAM × 1024 + LANE; in a handler team the
block and the origin team are 0. -/
def State.globalLane (s : State) (t : Team) (l : Nat) : Word :=
  let o := t.origin.getD l 0
  BitVec.ofNat 32 (if t.handler then o % 1024 else (s.blk.index * t.d.teams + o / 1024) * t.d.teamw + o % 1024)

/-! ### Runners of the family -/

/-- A form of two 32-bit sources, per lane or uniform (R115, R116). -/
def State.alu2 (s : State) (i : Instr) (g : Guard) (o : Ops) (u : Bool) (f : Word → Word → Word) : State :=
  if u then s.uniform i 4 fun t =>
    [.s o.d.toNat (f (t.rs o.a.toNat) (t.srcB o.bk o.b (lowestLane t.mask)))]
  else s.lanewise i g 4 fun t l => resV o.d (f (t.rv o.a.toNat l).val (t.srcB o.bk o.b l))

/-- With a third source of the kind of A. -/
def State.alu3 (s : State) (i : Instr) (g : Guard) (o : Ops) (c : Reg) (u : Bool) (f : Word → Word → Word → Word) : State :=
  if u then s.uniform i 4 fun t =>
    [.s o.d.toNat (f (t.rs o.a.toNat) (t.srcB o.bk o.b (lowestLane t.mask)) (t.rs c.toNat))]
  else s.lanewise i g 4 fun t l => resV o.d (f (t.rv o.a.toNat l).val (t.srcB o.bk o.b l) (t.rv c.toNat l).val)

/-- A form of one source. -/
def State.alu1 (s : State) (i : Instr) (g : Guard) (o : OpsDA) (u : Bool) (f : Word → Word) : State :=
  if u then s.uniform i 4 fun t => [.s o.d.toNat (f (t.rs o.a.toNat))]
  else s.lanewise i g 4 fun t l => resV o.d (f (t.rv o.a.toNat l).val)

/-- A result in a pair of s registers. -/
def pairS (d : Reg) (x : DWord) : List RegWrite := [.s d.toNat (lo32 x), .s (d.toNat + 1) (hi32 x)]

/-- A 64-bit form: A a pair and B one register; A and B pairs; A and B single registers (R125, R126). -/
def State.wide1 (s : State) (i : Instr) (g : Guard) (o : Ops) (u : Bool) (f : DWord → Word → DWord) : State :=
  if u then s.uniform i 4 fun t => pairS o.d (f (t.rsPair o.a.toNat) (t.srcB o.bk o.b (lowestLane t.mask)))
  else s.lanewise i g 4 fun t l => resV64 o.d (f (t.rvPair o.a.toNat l) (t.srcB o.bk o.b l))
def State.wide2 (s : State) (i : Instr) (g : Guard) (o : Ops) (u : Bool) (f : DWord → DWord → DWord) : State :=
  if u then s.uniform i 4 fun t => pairS o.d (f (t.rsPair o.a.toNat) (t.srcB64 o.bk o.b (lowestLane t.mask)))
  else s.lanewise i g 4 fun t l => resV64 o.d (f (t.rvPair o.a.toNat l) (t.srcB64 o.bk o.b l))
def State.wideMul (s : State) (i : Instr) (g : Guard) (o : Ops) (u : Bool) (f : Word → Word → DWord) : State :=
  if u then s.uniform i 4 fun t => pairS o.d (f (t.rs o.a.toNat) (t.srcB o.bk o.b (lowestLane t.mask)))
  else s.lanewise i g 4 fun t l => resV64 o.d (f (t.rv o.a.toNat l).val (t.srcB o.bk o.b l))

/-- A form of two predicate sources (R121). -/
def State.pred2 (s : State) (i : Instr) (g : Guard) (d a b : Reg) (na nb : Bool) (f : Bool → Bool → Bool) : State :=
  s.lanewise i g 4 fun t l => resP d (f (t.rp a.toNat l != na) (t.rp b.toNat l != nb))


/-! ### Arithmetic, logic and shifts (R118) -/

/-- IADD (R118). Short form. -/
def execIaddShort (dly : BitVec 3) (o : Ops) (s : State) :
    Host.Outcome State Fault Refusal :=
  .next (s.alu2 (.iaddShort dly o) .pt o false (addVal .wrap))

/-- IADD, with MODE (R118). -/
def execIaddLong (dly : BitVec 3) (g : Guard) (o : Ops) (mode : AddMode) (u : Bool) (s : State) :
    Host.Outcome State Fault Refusal :=
  .next (s.alu2 (.iaddLong dly g o mode u) g o u (addVal mode))

/-- ISUB (R118). Short form. -/
def execIsubShort (dly : BitVec 3) (o : Ops) (s : State) :
    Host.Outcome State Fault Refusal :=
  .next (s.alu2 (.isubShort dly o) .pt o false (subVal .wrap))

/-- ISUB, with MODE (R118). -/
def execIsubLong (dly : BitVec 3) (g : Guard) (o : Ops) (mode : AddMode) (u : Bool) (s : State) :
    Host.Outcome State Fault Refusal :=
  .next (s.alu2 (.isubLong dly g o mode u) g o u (subVal mode))

/-- IMUL (R118). Short form. -/
def execImulShort (dly : BitVec 3) (o : Ops) (s : State) :
    Host.Outcome State Fault Refusal :=
  .next (s.alu2 (.imulShort dly o) .pt o false (· * ·))

/-- IMUL (R118). -/
def execImulLong (dly : BitVec 3) (g : Guard) (o : Ops) (u : Bool) (s : State) :
    Host.Outcome State Fault Refusal :=
  .next (s.alu2 (.imulLong dly g o u) g o u (· * ·))

/-- IMAD (R118). -/
def execImad (dly : BitVec 3) (g : Guard) (o : Ops) (c : Reg) (u : Bool) (s : State) :
    Host.Outcome State Fault Refusal :=
  .next (s.alu3 (.imad dly g o c u) g o c u fun a b c => a * b + c)

/-- IMULH (R118). -/
def execImulh (dly : BitVec 3) (g : Guard) (o : Ops) (uns : Bool) (u : Bool) (s : State) :
    Host.Outcome State Fault Refusal :=
  .next (s.alu2 (.imulh dly g o uns u) g o u (mulhVal uns))

/-- IMIN (R118). Short form. -/
def execIminShort (dly : BitVec 3) (o : Ops) (s : State) :
    Host.Outcome State Fault Refusal :=
  .next (s.alu2 (.iminShort dly o) .pt o false (minVal false))

/-- IMIN, signed or unsigned (R118). -/
def execIminLong (dly : BitVec 3) (g : Guard) (o : Ops) (uns : Bool) (u : Bool) (s : State) :
    Host.Outcome State Fault Refusal :=
  .next (s.alu2 (.iminLong dly g o uns u) g o u (minVal uns))

/-- IMAX (R118). Short form. -/
def execImaxShort (dly : BitVec 3) (o : Ops) (s : State) :
    Host.Outcome State Fault Refusal :=
  .next (s.alu2 (.imaxShort dly o) .pt o false (maxVal false))

/-- IMAX, signed or unsigned (R118). -/
def execImaxLong (dly : BitVec 3) (g : Guard) (o : Ops) (uns : Bool) (u : Bool) (s : State) :
    Host.Outcome State Fault Refusal :=
  .next (s.alu2 (.imaxLong dly g o uns u) g o u (maxVal uns))

/-- AND (R118). Short form. -/
def execAndShort (dly : BitVec 3) (o : Ops) (s : State) :
    Host.Outcome State Fault Refusal :=
  .next (s.alu2 (.andShort dly o) .pt o false (· &&& ·))

/-- AND (R118). -/
def execAndLong (dly : BitVec 3) (g : Guard) (o : Ops) (u : Bool) (s : State) :
    Host.Outcome State Fault Refusal :=
  .next (s.alu2 (.andLong dly g o u) g o u (· &&& ·))

/-- OR (R118). Short form. -/
def execOrShort (dly : BitVec 3) (o : Ops) (s : State) :
    Host.Outcome State Fault Refusal :=
  .next (s.alu2 (.orShort dly o) .pt o false (· ||| ·))

/-- OR (R118). -/
def execOrLong (dly : BitVec 3) (g : Guard) (o : Ops) (u : Bool) (s : State) :
    Host.Outcome State Fault Refusal :=
  .next (s.alu2 (.orLong dly g o u) g o u (· ||| ·))

/-- XOR (R118). Short form. -/
def execXorShort (dly : BitVec 3) (o : Ops) (s : State) :
    Host.Outcome State Fault Refusal :=
  .next (s.alu2 (.xorShort dly o) .pt o false (· ^^^ ·))

/-- XOR (R118). -/
def execXorLong (dly : BitVec 3) (g : Guard) (o : Ops) (u : Bool) (s : State) :
    Host.Outcome State Fault Refusal :=
  .next (s.alu2 (.xorLong dly g o u) g o u (· ^^^ ·))

/-- SHL (R118). Short form. -/
def execShlShort (dly : BitVec 3) (o : Ops) (s : State) :
    Host.Outcome State Fault Refusal :=
  .next (s.alu2 (.shlShort dly o) .pt o false shlVal)

/-- SHL (R118). -/
def execShlLong (dly : BitVec 3) (g : Guard) (o : Ops) (u : Bool) (s : State) :
    Host.Outcome State Fault Refusal :=
  .next (s.alu2 (.shlLong dly g o u) g o u shlVal)

/-- SHR (R118). Short form. -/
def execShrShort (dly : BitVec 3) (o : Ops) (s : State) :
    Host.Outcome State Fault Refusal :=
  .next (s.alu2 (.shrShort dly o) .pt o false shrVal)

/-- SHR (R118). -/
def execShrLong (dly : BitVec 3) (g : Guard) (o : Ops) (u : Bool) (s : State) :
    Host.Outcome State Fault Refusal :=
  .next (s.alu2 (.shrLong dly g o u) g o u shrVal)

/-- SAR (R118). Short form. -/
def execSarShort (dly : BitVec 3) (o : Ops) (s : State) :
    Host.Outcome State Fault Refusal :=
  .next (s.alu2 (.sarShort dly o) .pt o false sarVal)

/-- SAR (R118). -/
def execSarLong (dly : BitVec 3) (g : Guard) (o : Ops) (u : Bool) (s : State) :
    Host.Outcome State Fault Refusal :=
  .next (s.alu2 (.sarLong dly g o u) g o u sarVal)

/-! ### Bit operations (R119) -/

/-- POPC (R119). -/
def execPopc (dly : BitVec 3) (g : Guard) (o : OpsDA) (u : Bool) (s : State) :
    Host.Outcome State Fault Refusal :=
  .next (s.alu1 (.popc dly g o u) g o u popcVal)

/-- CLZ (R119). -/
def execClz (dly : BitVec 3) (g : Guard) (o : OpsDA) (u : Bool) (s : State) :
    Host.Outcome State Fault Refusal :=
  .next (s.alu1 (.clz dly g o u) g o u clzVal)

/-- BREV (R119). -/
def execBrev (dly : BitVec 3) (g : Guard) (o : OpsDA) (u : Bool) (s : State) :
    Host.Outcome State Fault Refusal :=
  .next (s.alu1 (.brev dly g o u) g o u brevVal)

/-- BFX and BFX.S (R119). -/
def execBfx (dly : BitVec 3) (g : Guard) (o : Ops) (sgn : Bool) (u : Bool) (s : State) :
    Host.Outcome State Fault Refusal :=
  .next (s.alu2 (.bfx dly g o sgn u) g o u (bfxVal sgn))

/-- BFI (R119). -/
def execBfi (dly : BitVec 3) (g : Guard) (o : Ops) (c : Reg) (u : Bool) (s : State) :
    Host.Outcome State Fault Refusal :=
  .next (s.alu3 (.bfi dly g o c u) g o c u bfiVal)

/-- ROT (R119). -/
def execRot (dly : BitVec 3) (g : Guard) (o : Ops) (u : Bool) (s : State) :
    Host.Outcome State Fault Refusal :=
  .next (s.alu2 (.rot dly g o u) g o u rotVal)

/-- NOT (R119). -/
def execNotB (dly : BitVec 3) (g : Guard) (o : OpsDA) (u : Bool) (s : State) :
    Host.Outcome State Fault Refusal :=
  .next (s.alu1 (.notB dly g o u) g o u (~~~ ·))

/-- IABS (R119). -/
def execIabs (dly : BitVec 3) (g : Guard) (o : OpsDA) (u : Bool) (s : State) :
    Host.Outcome State Fault Refusal :=
  .next (s.alu1 (.iabs dly g o u) g o u iabsVal)

/-- INEG (R119). -/
def execIneg (dly : BitVec 3) (g : Guard) (o : OpsDA) (u : Bool) (s : State) :
    Host.Outcome State Fault Refusal :=
  .next (s.alu1 (.ineg dly g o u) g o u (- ·))

/-! ### Comparison, moves, selection (R120 to R124) -/

/-- ICMP (R120). -/
def execIcmp (dly : BitVec 3) (g : Guard) (o : Ops) (cc : ICond) (s : State) :
    Host.Outcome State Fault Refusal :=
  .next (s.lanewise (.icmp dly g o cc) g 4 fun t l => resP o.d (icondVal cc (t.rv o.a.toNat l).val (t.srcB o.bk o.b l)))

/-- A v register written with a cell, its count with it (R122, R124). -/
def resCell (d : Reg) (x : VCell) : LaneRes := ⟨[(d.toNat, x)], [], 0, none⟩

/-- MOV, short: the count of a v source goes along (R122). -/
def execMovShort (dly : BitVec 3) (d : Reg) (b : Reg) (bk : Bool) (s : State) :
    Host.Outcome State Fault Refusal :=
  .next (s.lanewise (.movShort dly d b bk) .pt 4 fun t l => resCell d (t.cellB bk b l))

/-- MOV (R122). -/
def execMovLong (dly : BitVec 3) (g : Guard) (d : Reg) (b : Reg) (bk : Bool) (u : Bool) (s : State) :
    Host.Outcome State Fault Refusal :=
  .next (if u then s.uniform (.movLong dly g d b bk u) 4 fun t => [.s d.toNat (t.rs b.toNat)]
    else s.lanewise (.movLong dly g d b bk u) g 4 fun t l => resCell d (t.cellB bk b l))

/-- LI (R123). -/
def execLi (dly : BitVec 3) (g : Guard) (d : Reg) (u : Bool) (imm : Word) (s : State) :
    Host.Outcome State Fault Refusal :=
  .next (if u then s.uniform (.li dly g d u imm) 4 fun _ => [.s d.toNat imm]
    else s.lanewise (.li dly g d u imm) g 4 fun _ _ => resV d imm)

/-- IADDI (R123). -/
def execIaddi (dly : BitVec 3) (g : Guard) (o : OpsDA) (u : Bool) (imm : Word) (s : State) :
    Host.Outcome State Fault Refusal :=
  .next (s.alu1 (.iaddi dly g o u imm) g o u (· + imm))

/-- SEL: the chosen source with its count (R124). -/
def execSel (dly : BitVec 3) (g : Guard) (o : Ops) (cp : BitVec 3) (cneg : Bool) (s : State) :
    Host.Outcome State Fault Refusal :=
  .next (s.lanewise (.sel dly g o cp cneg) g 4 fun t l =>
    resCell o.d (if t.rp cp.toNat l != cneg then t.rv o.a.toNat l else t.cellB o.bk o.b l))

/-! ### Addresses and 64-bit values (R125, R126) -/

/-- LEA (R125). -/
def execLea (dly : BitVec 3) (g : Guard) (o : Ops) (sh : BitVec 3) (sx : Bool) (u : Bool) (s : State) :
    Host.Outcome State Fault Refusal :=
  .next (s.wide1 (.lea dly g o sh sx u) g o u (leaVal sx sh.toNat))

/-- IADD.W (R126). -/
def execIaddW (dly : BitVec 3) (g : Guard) (o : Ops) (u : Bool) (s : State) :
    Host.Outcome State Fault Refusal :=
  .next (s.wide2 (.iaddW dly g o u) g o u (· + ·))

/-- ISUB.W (R126). -/
def execIsubW (dly : BitVec 3) (g : Guard) (o : Ops) (u : Bool) (s : State) :
    Host.Outcome State Fault Refusal :=
  .next (s.wide2 (.isubW dly g o u) g o u (· - ·))

/-- SHL.W (R126). -/
def execShlW (dly : BitVec 3) (g : Guard) (o : Ops) (u : Bool) (s : State) :
    Host.Outcome State Fault Refusal :=
  .next (s.wide1 (.shlW dly g o u) g o u shlWVal)

/-- SHR.W (R126). -/
def execShrW (dly : BitVec 3) (g : Guard) (o : Ops) (u : Bool) (s : State) :
    Host.Outcome State Fault Refusal :=
  .next (s.wide1 (.shrW dly g o u) g o u shrWVal)

/-- IMUL.WL (R126). -/
def execImulWl (dly : BitVec 3) (g : Guard) (o : Ops) (uns : Bool) (u : Bool) (s : State) :
    Host.Outcome State Fault Refusal :=
  .next (s.wideMul (.imulWl dly g o uns u) g o u (mulWVal uns))

/-! ### Predicates (R121) -/

/-- PAND (R121). -/
def execPand (dly : BitVec 3) (g : Guard) (d a b : Reg) (na nb : Bool) (s : State) :
    Host.Outcome State Fault Refusal :=
  .next (s.pred2 (.pand dly g d a b na nb) g d a b na nb (· && ·))

/-- POR (R121). -/
def execPor (dly : BitVec 3) (g : Guard) (d a b : Reg) (na nb : Bool) (s : State) :
    Host.Outcome State Fault Refusal :=
  .next (s.pred2 (.por dly g d a b na nb) g d a b na nb (· || ·))

/-- PXOR (R121). -/
def execPxor (dly : BitVec 3) (g : Guard) (d a b : Reg) (na nb : Bool) (s : State) :
    Host.Outcome State Fault Refusal :=
  .next (s.pred2 (.pxor dly g d a b na nb) g d a b na nb (· != ·))

/-- PNOT (R121). -/
def execPnot (dly : BitVec 3) (g : Guard) (d a : Reg) (na : Bool) (s : State) :
    Host.Outcome State Fault Refusal :=
  .next (s.lanewise (.pnot dly g d a na) g 4 fun t l => resP d (!(t.rp a.toNat l != na)))

/-- PGET: bit i is p_i (R121). -/
def execPget (dly : BitVec 3) (g : Guard) (d : Reg) (s : State) :
    Host.Outcome State Fault Refusal :=
  .next (s.lanewise (.pget dly g d) g 4 fun t l =>
    resV d (BitVec.ofNat 32 ((List.range 7).foldl (fun x k => if t.rp k l then x + 2 ^ k else x) 0)))

/-- PSET (R121). -/
def execPset (dly : BitVec 3) (g : Guard) (a : Reg) (s : State) :
    Host.Outcome State Fault Refusal :=
  .next (s.lanewise (.pset dly g a) g 4 fun t l =>
    ⟨[], (List.range 7).map fun k => (k, (t.rv a.toNat l).val.getLsbD k), 0, none⟩)

/-! ### Integer conversion and random numbers (R127, R128) -/

/-- A source of an integer type: a register or a pair, of either kind. -/
def Team.intSrc (t : Team) (ty : IntTy) (u : Bool) (a : Reg) (l : Nat) : Nat :=
  if intWidth ty = 64 then (t.srcA64 u a l).toNat else (t.srcA u a l).toNat

/-- ICVT (R127). -/
def execIcvt (dly : BitVec 3) (g : Guard) (o : OpsDA) (src dst : IntTy) (sat : Bool) (u : Bool) (s : State) :
    Host.Outcome State Fault Refusal :=
  .next (if u then s.uniform (.icvt dly g o src dst sat u) 4 fun t =>
      let y := icvtVal src dst sat (t.intSrc src true o.a 0)
      if intWidth dst = 64 then pairS o.d y else [.s o.d.toNat (lo32 y)]
    else s.lanewise (.icvt dly g o src dst sat u) g 4 fun t l =>
      let y := icvtVal src dst sat (t.intSrc src false o.a l)
      if intWidth dst = 64 then resV64 o.d y else resV o.d (lo32 y))

def Instr.isRnd : Instr → Bool
  | .rnd .. => true
  | _ => false

/-- RND items of a window. -/
def Window.draws (w : Window) (n : Nat) : Nat :=
  ((w.items.take n).filter fun x =>
    match x.what with
    | .instr i => Instr.isRnd i
    | .word .. => false).length

/-- The draw index of an RND (R129): in a window, the one that it takes on its true path (R145); in a selective replay the items
before it have committed, and their draws are counted (R146). -/
def Team.drawIndex (t : Team) : Word :=
  match t.window with
  | none => t.draw
  | some w => if w.redo.isSome then t.draw else t.draw + BitVec.ofNat 32 (w.draws w.item)

/-- RND (R128, R129): every selected lane its value, and the draw index advanced, even where no lane is selected; in a
window it is not advanced until resolution (R145). -/
def execRnd (dly : BitVec 3) (g : Guard) (d : Reg) (key : Option Reg) (s : State) :
    Host.Outcome State Fault Refusal :=
  let i := Instr.rnd dly g d key
  .next <| s.issue i g fun s =>
    let rs := runPasses s.cur s.now i g fun t l =>
      resV d (rndHash (match key with
        | some a => t.rsPair a.toNat
        | none => t.rndkey) s.cur.drawIndex (s.globalLane t l))
    let s' := s.deliver i 6 false rs
    if s.cur.window.isSome then s' else { s' with cur := { s'.cur with draw := s'.cur.draw + 1 } }

end Sys2Proof.Machine
end

