-- ==== Sys2Proof/Machine/FloatFam.lean ====
section
/-! DEFINITION. The floating-point family (R183 to R202): FP32, FP64 and packed arithmetic, comparisons and classes,
rounding to integers, special functions, conversions, dot products, and the instructions on sound-bit counts. -/

namespace Sys2Proof.Machine

/-! ### Delivery (R163, R164, R177, R184) -/

/-- A value worked out: its encoding, its count, the flags raised. -/
structure Res where
  x : Nat
  cnt : BitVec 6
  flags : Word
  deriving DecidableEq, Repr

/-- TRAPDATA of cause 0x09 (R164). -/
def sigDatum (reg : Nat) (theta : Word) (low : BitVec 6) : Word :=
  (BitVec.ofNat 32 (reg % 128) <<< 16) ||| ((theta &&& 0x3F) <<< 8) ||| low.setWidth 32

/-- `deliver` (R184): an enabled flag traps, then a failed significance check, else the cells are written. -/
def Team.deliver (t : Team) (d : Reg) (cells : List (Nat × VCell)) (cnt : BitVec 6) (flags : Word) (checked : Bool) : LaneRes :=
  match flagCause t.fpctl flags with
  | some c => resTrap c (flagDatum d.toNat flags)
  | none =>
    if checked && t.sbthr.getLsbD 31 && decide (cnt.toNat < (t.sbthr &&& 0x3F).toNat) then
      resTrap 0x09 (sigDatum d.toNat t.sbthr cnt)
    else ⟨cells, [], flags, none⟩

/-- An FP32 result, checked; an FP64 result in a pair, its count on the even register; an untracked result. -/
def Team.deliver32 (t : Team) (d : Reg) (r : Res) : LaneRes :=
  t.deliver d [(d.toNat, ⟨BitVec.ofNat 32 r.x, r.cnt⟩)] r.cnt r.flags true
def Team.deliver64 (t : Team) (d : Reg) (r : Res) : LaneRes :=
  t.deliver d [(d.toNat, ⟨BitVec.ofNat 32 r.x, r.cnt⟩), (d.toNat + 1, ⟨BitVec.ofNat 32 (r.x / 2 ^ 32), 63⟩)] r.cnt r.flags false
def Team.deliverRaw (t : Team) (d : Reg) (x : Word) (flags : Word) : LaneRes := t.deliver d [(d.toNat, ⟨x, 63⟩)] 63 flags false

/-- A predicate with its flags: comparisons take no FP trap (R177). -/
def resCmp (d : Reg) (x : Bool) (flags : Word) : LaneRes := ⟨[], [(d.toNat, x)], flags, none⟩

/-! ### Arithmetic over a format (R185 to R189) -/

/-- A source as an operation reads it (R174, R180): flushed under FTZ, with its count. -/
def Fmt.src (f : Fmt) (ftz : Bool) (x : Nat) (code : BitVec 6) : CTerm :=
  let v := f.flush ftz (f.decode x)
  ⟨v, readCount f v code⟩

def CTerm.neg (t : CTerm) : CTerm := ⟨t.val.neg, t.cnt⟩

/-- FADD, and FSUB with its second source negated. -/
def Fmt.addRes (f : Fmt) (rm : RM) (ftz : Bool) (a b : CTerm) : Res :=
  let (z, f1) := FVal.add rm a.val b.val
  let (r, f2) := f.round rm ftz z
  ⟨r, countAdd f [a, b] (f.decode r), f1 ||| f2 ||| snanFlag [a.val, b.val]⟩

def Fmt.mulRes (f : Fmt) (rm : RM) (ftz : Bool) (a b : CTerm) : Res :=
  let (z, f1) := FVal.mul a.val b.val
  let (r, f2) := f.round rm ftz z
  ⟨r, countMul f a b (f.decode r), f1 ||| f2 ||| snanFlag [a.val, b.val]⟩

/-- FFMA: one rounding of the exact a × b + c. -/
def Fmt.fmaRes (f : Fmt) (rm : RM) (ftz : Bool) (a b c : CTerm) : Res :=
  let (p, f0) := FVal.mul a.val b.val
  let (z, f1) := FVal.add rm p c.val
  let (r, f2) := f.round rm ftz z
  ⟨r, countAdd f [prodTerm a b, c] (f.decode r), f0 ||| f1 ||| f2 ||| snanFlag [a.val, b.val, c.val]⟩

/-- The order of FMIN and FMAX: −0 is less than +0 (R186). -/
def minmaxCmp (a b : FVal) : Int :=
  if a.isZero && b.isZero then (if a.isNeg == b.isNeg then 0 else if a.isNeg then -1 else 1) else FVal.cmp a b

/-- A source returned unchanged (PASS, R181, R182). -/
def Fmt.pass (f : Fmt) (t : CTerm) (flags : Word) : Res :=
  let r := (f.round .rne false t.val).1
  ⟨r, overrideCount f t.val (some t.cnt) t.cnt, flags⟩

/-- FMIN and FMAX (R186). -/
def Fmt.minmaxRes (f : Fmt) (mx : Bool) (a b : CTerm) : Res :=
  let fl := snanFlag [a.val, b.val]
  match a.val.isNan, b.val.isNan with
  | true, true => ⟨f.nan, 0, fl⟩
  | true, false => f.pass b fl
  | false, true => f.pass a fl
  | false, false =>
    let c := minmaxCmp a.val b.val
    if c = 0 then f.pass (if b.cnt < a.cnt then b else a) fl
    else if decide (c < 0) != mx then f.pass a fl
    else f.pass b fl

/-- FCMP's conditions (R187): the truth and IV. -/
def fcondVal (cc : FCond) (a b : FVal) : Bool × Word :=
  let un := a.isNan || b.isNan
  let c := FVal.cmp a b
  let sig := snanFlag [a, b]
  let loud : Word := if un then flagIV else 0
  match cc with
  | .eq => (!un && c == 0, sig)
  | .ne => (un || c != 0, sig)
  | .lt => (!un && decide (c < 0), loud)
  | .le => (!un && decide (c ≤ 0), loud)
  | .gt => (!un && decide (0 < c), loud)
  | .ge => (!un && decide (0 ≤ c), loud)
  | .unord => (un, sig)
  | .ord => (!un, sig)

/-- FCLASS: the bit of a value's class (R188). -/
def classBit (f : Fmt) (x : FVal) : Nat :=
  match x with
  | .nan sig => if sig then 0 else 1
  | .inf neg => if neg then 2 else 9
  | .fin neg m _ =>
    if m = 0 then (if neg then 5 else 6)
    else if f.subnormal x then (if neg then 4 else 7)
    else if neg then 3 else 8

/-- A value rounded to an integer, its sign kept (R189). -/
def FVal.toInteger (rm : RM) : FVal → FVal
  | .fin neg m e => .fin neg (roundMag rm neg m e 0).1 0
  | x => x

/-- FRND and FFRAC (R189): no flag but IV. A fraction just below 1 that FP32 does not hold is rounded under RM, so
that it stays in the range R189 gives (log 10). -/
def frndRes (rm : RM) (a : CTerm) : Res :=
  let r := (fmt32.round rm false (a.val.toInteger rm)).1
  ⟨r, countAdd fmt32 [a] (fmt32.decode r), snanFlag [a.val]⟩
def ffracRes (rm : RM) (a : CTerm) : Res :=
  match a.val with
  | .inf _ => ⟨fmt32.nan, 0, flagIV⟩
  | v =>
    let z := (FVal.add rm v (v.toInteger rm).neg).1
    let z' := if z.isZero then .fin (rm == .rd) 0 0 else z
    let r := (fmt32.round rm false z').1
    ⟨r, countAdd fmt32 [a] (fmt32.decode r), snanFlag [v]⟩

/-! ### Special functions (R190, R191), exact to a sticky bit: irrational values are held to 200 places or more -/

/-- floor(√n), by bits from 2^k down. -/
def isqrtGo (n : Nat) : Nat → Nat → Nat
  | 0, r => if (r + 1) * (r + 1) ≤ n then r + 1 else r
  | k + 1, r => isqrtGo n k (if (r + 2 ^ (k + 1)) * (r + 2 ^ (k + 1)) ≤ n then r + 2 ^ (k + 1) else r)
def isqrt (n : Nat) : Nat := isqrtGo n (Nat.log2 n / 2 + 1) 0

/-- n × 2^e with a sticky bit below it when the value is not exact. -/
def stuck (neg : Bool) (n : Nat) (e : Int) (exact : Bool) : FVal := .fin neg (2 * n + (if exact then 0 else 1)) (e - 1)

/-- Fixed point of 512 places. -/
def fixP : Nat := 512

/-- Σ t_k with t_0 = x and t_(k+1) = t_k × y / (2^512 × d k): series of exp, sin and arctangent. -/
def series (y : Nat) (d : Nat → Nat) : Nat → Nat → Nat → Nat × Nat
  | 0, _, _ => (0, 0)
  | n + 1, k, t =>
    let r := series y d n (k + 1) (t * y / (2 ^ fixP * d k))
    (t + r.2, r.1)

/-- ln 2 = Σ 1 / (k 2^k). -/
def fixLn2 : Nat := ((List.range 520).map fun k => 2 ^ fixP / ((k + 1) * 2 ^ (k + 1))).foldl (· + ·) 0

/-- arctan(1/q) by its alternating series. -/
def fixAtan (q : Nat) : Nat → Nat → Nat → Nat × Nat
  | 0, _, _ => (0, 0)
  | n + 1, k, t =>
    let r := fixAtan q n (k + 1) (t / (q * q))
    (t / (2 * k + 1) + r.2, r.1)
def arctan (q : Nat) : Nat :=
  let r := fixAtan q 240 0 (2 ^ fixP / q)
  r.1 - r.2
def fixPi : Nat := 16 * arctan 5 - 4 * arctan 239

/-- 2^f for f in [0, 1), both in fixed point. -/
def fixExp2 (f : Nat) : Nat :=
  let x := f * fixLn2 / 2 ^ fixP
  let r := series x (fun k => k + 1) 100 0 (2 ^ fixP)
  r.1 + r.2

/-- sin(π t) for t in [0, 1/2]. -/
def fixSin (t : Nat) : Nat :=
  let x := t * fixPi / 2 ^ fixP
  let y := x * x / 2 ^ fixP
  let r := series y (fun k => (2 * k + 2) * (2 * k + 3)) 60 0 x
  r.1 - r.2

/-- Bits of log2 x for x in [1, 2), by repeated squaring. -/
def log2Bits : Nat → Nat → Nat → Nat
  | 0, _, acc => acc
  | n + 1, x, acc =>
    let y := x * x / 2 ^ fixP
    if 2 ^ (fixP + 1) ≤ y then log2Bits n (y / 2) (2 * acc + 1) else log2Bits n y (2 * acc)

/-- 2^a of a finite nonzero value: exact for an integer (R161); exponents far outside FP32 are held to a bound that
overflows or underflows alike. -/
def exp2Val (neg : Bool) (m : Nat) (e : Int) : FVal :=
  let big := if expOf m e < 9 then none else some (if neg then (-400 : Int) else 400)
  match big with
  | some n => .fin false 1 n
  | none =>
    let k := (-e).toNat
    let v : Int := if 0 ≤ e then scaled neg m e 0 else scaled neg m e e
    let n : Int := v / (2 ^ k : Nat)
    let f := (v % (2 ^ k : Nat)).toNat
    if f = 0 then .fin false 1 n
    else stuck false (fixExp2 (f * 2 ^ fixP / 2 ^ k)) (n - fixP) false

/-- log2 of a positive value: exact for a power of two (R161). -/
def log2Val (m : Nat) (e : Int) : FVal :=
  let k := Nat.log2 m
  let n : Int := (k : Int) + e
  if 2 ^ k = m then FVal.ofInt n
  else
    let acc := log2Bits 256 (m * 2 ^ fixP / 2 ^ k) 0
    let x : Int := n * (2 ^ 256 : Nat) + acc
    if x < 0 then stuck true (x.natAbs - 1) (-256) false else stuck false x.toNat (-256) false

/-- sin(π x) or cos(π x), x reduced exactly modulo 2 (R191). -/
def sinVal (cos neg : Bool) (m : Nat) (e : Int) : FVal :=
  let k := (-e).toNat + 1
  let one := 2 ^ k
  let x : Int := scaled neg m e (-(k : Int)) + (if cos then ((one / 2 : Nat) : Int) else 0)
  let t := (x % ((2 * one : Nat) : Int)).toNat
  let sg := decide (one ≤ t)
  let u := if sg then t - one else t
  let w := if one / 2 < u then one - u else u
  if w = 0 then .fin (!cos && neg) 0 0
  else if 2 * w = one then .fin sg 1 0
  else stuck sg (fixSin (w * 2 ^ fixP / one)) (-(fixP : Int)) false

/-- The special functions. -/
inductive SfuFn where
  | rcp | rsq | sqrt | exp2 | log2 | sin | cos
  deriving DecidableEq, Repr

def sfuNan : FVal × Word := (.nan false, flagIV)
def sfuOne : FVal := .fin false 1 0

/-- The exact value of a function and the flags of its special inputs (R191). -/
def sfuVal (fn : SfuFn) (x : FVal) : FVal × Word :=
  match x with
  | .nan _ => (.nan false, 0)
  | .inf neg =>
    match fn with
    | .rcp => (.fin neg 0 0, 0)
    | .rsq => if neg then sfuNan else (.fin false 0 0, 0)
    | .sqrt | .log2 => if neg then sfuNan else (.inf false, 0)
    | .exp2 => (if neg then .fin false 0 0 else .inf false, 0)
    | .sin | .cos => sfuNan
  | .fin neg m e =>
    if m = 0 then
      match fn with
      | .rcp | .rsq => (.inf neg, flagDZ)
      | .sqrt | .sin => (.fin neg 0 0, 0)
      | .exp2 | .cos => (sfuOne, 0)
      | .log2 => (.inf true, flagDZ)
    else
      match fn with
      | .rcp => (stuck neg (2 ^ 128 / m) (-128 - e) (2 ^ 128 % m == 0), 0)
      | .rsq =>
        if neg then sfuNan
        else
          let m' := if e % 2 = 0 then m else 2 * m
          let e' := if e % 2 = 0 then e else e - 1
          let t := 2 ^ 256 / m'
          let r := isqrt t
          (stuck false r (-128 - e' / 2) (2 ^ 256 % m' == 0 && r * r == t), 0)
      | .sqrt =>
        if neg then sfuNan
        else
          let m' := if e % 2 = 0 then m else 2 * m
          let e' := if e % 2 = 0 then e else e - 1
          let t := m' * 2 ^ 128
          let r := isqrt t
          (stuck false r (e' / 2 - 64) (r * r == t), 0)
      | .exp2 => (exp2Val neg m e, 0)
      | .log2 => if neg then sfuNan else (log2Val m e, 0)
      | .sin => (sinVal false neg m e, 0)
      | .cos => (sinVal true neg m e, 0)

/-- A special function's result: rounded once under RNE, with the SFU count (R181, R190, R197). -/
def sfuRes (fn : SfuFn) (ftz : Bool) (a : CTerm) : Res :=
  let (z, f1) := sfuVal fn a.val
  let (r, f2) := fmt32.round .rne ftz z
  let c := min a.cnt 21
  ⟨r, overrideCount fmt32 (fmt32.decode r) (if a.val.isZero then some c else none) c, f1 ||| f2 ||| snanFlag [a.val]⟩

/-! ### Conversions (R194, R195) and packed elements -/

def FTy.fmt : FTy → Fmt
  | .fp32 => fmt32
  | .fp64 => fmt64
  | .fp16 => fmt16
  | .bf16 => fmtB16
  | .f8a => fmtF8a
  | .f8b => fmtF8b
  | .f4 => fmtF4

/-- A value converted to a format: its encoding and flags (R169, R171). -/
def convert (f : Fmt) (rm : RM) (x : FVal) : Nat × Word :=
  let (r, fl) := f.round rm false x
  (r, fl ||| snanFlag [x])

/-- The count of a conversion's FP32 or FP64 result (R181, R197). -/
def convCount (dst : Fmt) (a : CTerm) (r : FVal) : BitVec 6 :=
  let c := min a.cnt dst.prec
  overrideCount dst r (if a.val.isZero then some c else none) c

/-- Element `k` of width `w` of a register. -/
def elemOf (w k x : Nat) : Nat := x / 2 ^ (w * k) % 2 ^ w

/-- Both elements of a packed operation (R193). -/
def pairRes (f : Nat → Res) : Word × Word :=
  (BitVec.ofNat 32 ((f 0).x + (f 1).x * 2 ^ 16), (f 0).flags ||| (f 1).flags)

/-- The count of an element: its precision, or its significant bits (R197); readCount of code 63 gives both. -/
def Fmt.elem (f : Fmt) (x : Nat) : CTerm := f.src false x 63

/-- Whether a sum has infinities of both signs among its terms (R196): no order of the terms matters. -/
def oppositeInfs (xs : List FVal) : Bool := xs.contains (.inf false) && xs.contains (.inf true)

/-- A floating-point dot product (R196, R197): an invalid operation among its terms gives NaN with IV alone. -/
def dotRes (f : Fmt) (w : Nat) (a b : Nat) (c : CTerm) : Res :=
  let n := 32 / w
  let xs := (List.range n).map fun k => (f.elem (elemOf w k a), f.elem (elemOf w k b))
  let ps := xs.map fun ab => prodTerm ab.1 ab.2
  let vals := c.val :: ps.map (·.val)
  let invalid := ((c.val :: xs.flatMap fun ab => [ab.1.val, ab.2.val]).any FVal.isSnan)
    || (xs.any fun ab => (FVal.mul ab.1.val ab.2.val).2 != 0) || oppositeInfs vals
  let t := if invalid then .nan false else vals.tail.foldl (fun z p => (FVal.add .rne z p).1) c.val
  let (r, fl) := fmt32.round .rne false t
  let terms := c :: ps.filter fun t => !t.val.isZero
  ⟨r, countAdd fmt32 terms (fmt32.decode r), if invalid then flagIV else fl⟩

/-- An integer dot product (R196). -/
def dotInt (ty : IntTy) (a b : Nat) (c : Word) : Word :=
  let w := intWidth ty
  c + BitVec.ofInt 32 (((List.range (32 / w)).map fun k => intRead ty (elemOf w k a) * intRead ty (elemOf w k b)).foldl (· + ·) 0)

/-- SBCMP's conditions (R200). -/
def scondVal (cc : SCond) (a b : Nat) : Bool :=
  match cc with
  | .eq => a == b
  | .ne => a != b
  | .lt => decide (a < b)
  | .le => decide (a ≤ b)
  | .gt => decide (b < a)
  | .ge => decide (b ≤ a)

/-! ### Sources in registers -/

/-- FP32 sources A, B and C of a lane. -/
def Team.fa (t : Team) (ftz : Bool) (r : Reg) (l : Nat) : CTerm :=
  fmt32.src ftz (t.rv r.toNat l).val.toNat (t.rv r.toNat l).cnt
def Team.fb (t : Team) (ftz : Bool) (o : Ops) (l : Nat) : CTerm :=
  let c := t.cellB o.bk o.b l
  fmt32.src ftz c.val.toNat c.cnt

/-- FP64 sources: the count lies on the even register; an s pair has none (R4, R162). -/
def Team.da (t : Team) (ftz : Bool) (r : Reg) (l : Nat) : CTerm :=
  fmt64.src ftz (t.rvPair r.toNat l).toNat (t.rv r.toNat l).cnt
def Team.db (t : Team) (ftz : Bool) (o : Ops) (l : Nat) : CTerm :=
  fmt64.src ftz (t.srcB64 o.bk o.b l).toNat (t.cellB o.bk o.b l).cnt

/-- An FP32 instruction of two sources, 5 cycles; an FP64 one, 10 cycles (R102). -/
def State.fp32 (s : State) (i : Instr) (g : Guard) (ftz : Bool) (o : Ops) (f : CTerm → CTerm → Res) : State :=
  s.lanewise i g 5 fun t l => t.deliver32 o.d (f (t.fa ftz o.a l) (t.fb ftz o l))
def State.fp64 (s : State) (i : Instr) (g : Guard) (ftz : Bool) (o : Ops) (f : CTerm → CTerm → Res) : State :=
  s.lanewise i g 10 fun t l => t.deliver64 o.d (f (t.da ftz o.a l) (t.db ftz o l))

/-- A packed instruction over elements `k` of A and B (R193). -/
def State.packed (s : State) (i : Instr) (g : Guard) (o : Ops) (f : Team → Nat → Nat → Nat → Nat → Res) : State :=
  s.lanewise i g 5 fun t l =>
    let a := (t.rv o.a.toNat l).val.toNat
    let b := (t.srcB o.bk o.b l).toNat
    let r := pairRes fun k => f t l k (elemOf 16 k a) (elemOf 16 k b)
    t.deliverRaw o.d r.1 r.2
def halfFmt (bf : Bool) : Fmt := if bf then fmtB16 else fmt16

/-- A special function, tagged (R190). -/
def State.sfu (s : State) (i : Instr) (g : Guard) (o : OpsDA) (ftz : Bool) (fn : SfuFn) : State :=
  s.taggedRun i g fun t l => t.deliver32 o.d (sfuRes fn ftz (t.fa ftz o.a l))

/-- A floating-point dot product of any type (R196). -/
def Team.dot (t : Team) (o : Ops) (c : Reg) (f : Fmt) (w l : Nat) : LaneRes :=
  t.deliver32 o.d (dotRes f w (t.rv o.a.toNat l).val.toNat (t.srcB o.bk o.b l).toNat (t.fa false c l))
def Team.dotI (t : Team) (o : Ops) (c : Reg) (ty : IntTy) (l : Nat) : LaneRes :=
  resV o.d (dotInt ty (t.rv o.a.toNat l).val.toNat (t.srcB o.bk o.b l).toNat (t.rv c.toNat l).val)

/-- The count a SETSB request sets (R199). -/
def setsbVal (k : Nat) : BitVec 6 := if 63 ≤ k then 63 else if 54 ≤ k then 53 else BitVec.ofNat 6 k

/-- The latency of a CVT (R102, R194). -/
def cvtLat (wide : Bool) : Nat := if wide then 10 else 5

/-! ### FP32 (R185 to R189) -/

/-- FADD, short form (R185). -/
def execFaddShort (dly : BitVec 3) (o : Ops) (s : State) :
    Host.Outcome State Fault Refusal :=
  .next (s.fp32 (.faddShort dly o) .pt false o fun a b => fmt32.addRes .rne false a b)

/-- FADD (R185). -/
def execFaddLong (dly : BitVec 3) (g : Guard) (o : Ops) (rm : RM) (ftz : Bool) (s : State) :
    Host.Outcome State Fault Refusal :=
  .next (s.fp32 (.faddLong dly g o rm ftz) g ftz o fun a b => fmt32.addRes rm ftz a b)

/-- FSUB, short form (R185). -/
def execFsubShort (dly : BitVec 3) (o : Ops) (s : State) :
    Host.Outcome State Fault Refusal :=
  .next (s.fp32 (.fsubShort dly o) .pt false o fun a b => fmt32.addRes .rne false a b.neg)

/-- FSUB (R185). -/
def execFsubLong (dly : BitVec 3) (g : Guard) (o : Ops) (rm : RM) (ftz : Bool) (s : State) :
    Host.Outcome State Fault Refusal :=
  .next (s.fp32 (.fsubLong dly g o rm ftz) g ftz o fun a b => fmt32.addRes rm ftz a b.neg)

/-- FMUL, short form (R185). -/
def execFmulShort (dly : BitVec 3) (o : Ops) (s : State) :
    Host.Outcome State Fault Refusal :=
  .next (s.fp32 (.fmulShort dly o) .pt false o fun a b => fmt32.mulRes .rne false a b)

/-- FMUL (R185). -/
def execFmulLong (dly : BitVec 3) (g : Guard) (o : Ops) (rm : RM) (ftz : Bool) (s : State) :
    Host.Outcome State Fault Refusal :=
  .next (s.fp32 (.fmulLong dly g o rm ftz) g ftz o fun a b => fmt32.mulRes rm ftz a b)

/-- FFMA (R185). -/
def execFfma (dly : BitVec 3) (g : Guard) (o : Ops) (c : Reg) (rm : RM) (ftz : Bool) (s : State) :
    Host.Outcome State Fault Refusal :=
  .next (s.lanewise (.ffma dly g o c rm ftz) g 5 fun t l =>
    t.deliver32 o.d (fmt32.fmaRes rm ftz (t.fa ftz o.a l) (t.fb ftz o l) (t.fa ftz c l)))

/-- FMIN (R186). -/
def execFmin (dly : BitVec 3) (g : Guard) (o : Ops) (ftz : Bool) (s : State) :
    Host.Outcome State Fault Refusal :=
  .next (s.fp32 (.fmin dly g o ftz) g ftz o (fmt32.minmaxRes false))

/-- FMAX (R186). -/
def execFmax (dly : BitVec 3) (g : Guard) (o : Ops) (ftz : Bool) (s : State) :
    Host.Outcome State Fault Refusal :=
  .next (s.fp32 (.fmax dly g o ftz) g ftz o (fmt32.minmaxRes true))

/-- FCMP (R187). -/
def execFcmp (dly : BitVec 3) (g : Guard) (o : Ops) (cc : FCond) (s : State) :
    Host.Outcome State Fault Refusal :=
  .next (s.lanewise (.fcmp dly g o cc) g 5 fun t l =>
    let r := fcondVal cc (t.fa false o.a l).val (t.fb false o l).val
    resCmp o.d r.1 r.2)

/-- FCLASS (R188). -/
def execFclass (dly : BitVec 3) (g : Guard) (o : OpsDA) (set : BitVec 10) (s : State) :
    Host.Outcome State Fault Refusal :=
  .next (s.lanewise (.fclass dly g o set) g 5 fun t l =>
    resP o.d (set.getLsbD (classBit fmt32 (t.fa false o.a l).val)))

/-- FRND (R189). -/
def execFrnd (dly : BitVec 3) (g : Guard) (o : OpsDA) (rm : RM) (ftz : Bool) (s : State) :
    Host.Outcome State Fault Refusal :=
  .next (s.lanewise (.frnd dly g o rm ftz) g 5 fun t l => t.deliver32 o.d (frndRes rm (t.fa ftz o.a l)))

/-- FFRAC (R189). -/
def execFfrac (dly : BitVec 3) (g : Guard) (o : OpsDA) (rm : RM) (ftz : Bool) (s : State) :
    Host.Outcome State Fault Refusal :=
  .next (s.lanewise (.ffrac dly g o rm ftz) g 5 fun t l => t.deliver32 o.d (ffracRes rm (t.fa ftz o.a l)))

/-! ### Special functions (R190) -/

/-- FRCP (R190, R191). -/
def execFrcp (dly : BitVec 3) (g : Guard) (tag : Tag) (o : OpsDA) (ftz : Bool) (s : State) :
    Host.Outcome State Fault Refusal :=
  .next (s.sfu (.frcp dly g tag o ftz) g o ftz .rcp)

/-- FRSQ (R190, R191). -/
def execFrsq (dly : BitVec 3) (g : Guard) (tag : Tag) (o : OpsDA) (ftz : Bool) (s : State) :
    Host.Outcome State Fault Refusal :=
  .next (s.sfu (.frsq dly g tag o ftz) g o ftz .rsq)

/-- FSQRT (R190, R191). -/
def execFsqrt (dly : BitVec 3) (g : Guard) (tag : Tag) (o : OpsDA) (ftz : Bool) (s : State) :
    Host.Outcome State Fault Refusal :=
  .next (s.sfu (.fsqrt dly g tag o ftz) g o ftz .sqrt)

/-- FEXP2 (R190, R191). -/
def execFexp2 (dly : BitVec 3) (g : Guard) (tag : Tag) (o : OpsDA) (ftz : Bool) (s : State) :
    Host.Outcome State Fault Refusal :=
  .next (s.sfu (.fexp2 dly g tag o ftz) g o ftz .exp2)

/-- FLOG2 (R190, R191). -/
def execFlog2 (dly : BitVec 3) (g : Guard) (tag : Tag) (o : OpsDA) (ftz : Bool) (s : State) :
    Host.Outcome State Fault Refusal :=
  .next (s.sfu (.flog2 dly g tag o ftz) g o ftz .log2)

/-- FSIN (R190, R191). -/
def execFsin (dly : BitVec 3) (g : Guard) (tag : Tag) (o : OpsDA) (ftz : Bool) (s : State) :
    Host.Outcome State Fault Refusal :=
  .next (s.sfu (.fsin dly g tag o ftz) g o ftz .sin)

/-- FCOS (R190, R191). -/
def execFcos (dly : BitVec 3) (g : Guard) (tag : Tag) (o : OpsDA) (ftz : Bool) (s : State) :
    Host.Outcome State Fault Refusal :=
  .next (s.sfu (.fcos dly g tag o ftz) g o ftz .cos)

/-! ### FP64 (R192) -/

/-- DADD (R192). -/
def execDadd (dly : BitVec 3) (g : Guard) (o : Ops) (rm : RM) (ftz : Bool) (s : State) :
    Host.Outcome State Fault Refusal :=
  .next (s.fp64 (.dadd dly g o rm ftz) g ftz o (fmt64.addRes rm ftz))

/-- DMUL (R192). -/
def execDmul (dly : BitVec 3) (g : Guard) (o : Ops) (rm : RM) (ftz : Bool) (s : State) :
    Host.Outcome State Fault Refusal :=
  .next (s.fp64 (.dmul dly g o rm ftz) g ftz o (fmt64.mulRes rm ftz))

/-- DFMA (R192). -/
def execDfma (dly : BitVec 3) (g : Guard) (o : Ops) (c : Reg) (rm : RM) (ftz : Bool) (s : State) :
    Host.Outcome State Fault Refusal :=
  .next (s.lanewise (.dfma dly g o c rm ftz) g 10 fun t l =>
    t.deliver64 o.d (fmt64.fmaRes rm ftz (t.da ftz o.a l) (t.db ftz o l) (t.da ftz c l)))

/-- DMIN (R192). -/
def execDmin (dly : BitVec 3) (g : Guard) (o : Ops) (ftz : Bool) (s : State) :
    Host.Outcome State Fault Refusal :=
  .next (s.fp64 (.dmin dly g o ftz) g ftz o (fmt64.minmaxRes false))

/-- DMAX (R192). -/
def execDmax (dly : BitVec 3) (g : Guard) (o : Ops) (ftz : Bool) (s : State) :
    Host.Outcome State Fault Refusal :=
  .next (s.fp64 (.dmax dly g o ftz) g ftz o (fmt64.minmaxRes true))

/-- DCMP (R192). -/
def execDcmp (dly : BitVec 3) (g : Guard) (o : Ops) (cc : FCond) (ftz : Bool) (s : State) :
    Host.Outcome State Fault Refusal :=
  .next (s.lanewise (.dcmp dly g o cc ftz) g 10 fun t l =>
    let r := fcondVal cc (t.da ftz o.a l).val (t.db ftz o l).val
    resCmp o.d r.1 r.2)

/-! ### Packed arithmetic (R193) -/

/-- HADD2 (R193). -/
def execHadd2 (dly : BitVec 3) (g : Guard) (o : Ops) (bf : Bool) (s : State) :
    Host.Outcome State Fault Refusal :=
  .next (s.packed (.hadd2 dly g o bf) g o fun _ _ _ x y =>
    (halfFmt bf).addRes .rne false ((halfFmt bf).elem x) ((halfFmt bf).elem y))

/-- HMUL2 (R193). -/
def execHmul2 (dly : BitVec 3) (g : Guard) (o : Ops) (bf : Bool) (s : State) :
    Host.Outcome State Fault Refusal :=
  .next (s.packed (.hmul2 dly g o bf) g o fun _ _ _ x y =>
    (halfFmt bf).mulRes .rne false ((halfFmt bf).elem x) ((halfFmt bf).elem y))

/-- HMIN2 (R193). -/
def execHmin2 (dly : BitVec 3) (g : Guard) (o : Ops) (bf : Bool) (s : State) :
    Host.Outcome State Fault Refusal :=
  .next (s.packed (.hmin2 dly g o bf) g o fun _ _ _ x y =>
    (halfFmt bf).minmaxRes false ((halfFmt bf).elem x) ((halfFmt bf).elem y))

/-- HMAX2 (R193). -/
def execHmax2 (dly : BitVec 3) (g : Guard) (o : Ops) (bf : Bool) (s : State) :
    Host.Outcome State Fault Refusal :=
  .next (s.packed (.hmax2 dly g o bf) g o fun _ _ _ x y =>
    (halfFmt bf).minmaxRes true ((halfFmt bf).elem x) ((halfFmt bf).elem y))

/-- HFMA2 (R193). -/
def execHfma2 (dly : BitVec 3) (g : Guard) (o : Ops) (c : Reg) (bf : Bool) (s : State) :
    Host.Outcome State Fault Refusal :=
  .next (s.packed (.hfma2 dly g o c bf) g o fun t l k x y =>
    (halfFmt bf).fmaRes .rne false ((halfFmt bf).elem x) ((halfFmt bf).elem y)
      ((halfFmt bf).elem (elemOf 16 k (t.rv c.toNat l).val.toNat)))

/-! ### Conversions (R195) -/

/-- An FP32 or FP64 source of a conversion. -/
def Team.cvtSrc (t : Team) (src : FTy) (a : Reg) (l : Nat) : CTerm := if src = .fp64 then t.da false a l else t.fa false a l

/-- F2I (R172, R195). -/
def execF2i (dly : BitVec 3) (g : Guard) (o : OpsDA) (rm : RM) (src : FTy) (dst : IntTy) (s : State) :
    Host.Outcome State Fault Refusal :=
  .next (s.lanewise (.f2i dly g o rm src dst) g (cvtLat (src == .fp64 || intWidth dst == 64)) fun t l =>
    let y := roundInt rm (intMin dst) (intMax dst) (t.cvtSrc src o.a l).val
    let x := intHold dst y.1
    if intWidth dst = 64 then t.deliver o.d [(o.d.toNat, ⟨lo32 x, 63⟩), (o.d.toNat + 1, ⟨hi32 x, 63⟩)] 63 y.2 false
    else t.deliverRaw o.d (lo32 x) y.2)

/-- I2F: the count is the precision (R195, R197). -/
def execI2f (dly : BitVec 3) (g : Guard) (o : OpsDA) (rm : RM) (src : IntTy) (dst : FTy) (s : State) :
    Host.Outcome State Fault Refusal :=
  .next (s.lanewise (.i2f dly g o rm src dst) g (cvtLat (dst == .fp64 || intWidth src == 64)) fun t l =>
    let x := FVal.ofInt (intRead src (t.intSrc src false o.a l))
    let y := (FTy.fmt dst).round rm false x
    let r : Res := ⟨y.1, BitVec.ofNat 6 (FTy.fmt dst).prec, y.2⟩
    if dst = .fp64 then t.deliver64 o.d r else t.deliver32 o.d r)

/-- F2F (R195). -/
def execF2f (dly : BitVec 3) (g : Guard) (o : OpsDA) (rm : RM) (src dst : FTy) (s : State) :
    Host.Outcome State Fault Refusal :=
  .next (s.lanewise (.f2f dly g o rm src dst) g (cvtLat (src == .fp64 || dst == .fp64)) fun t l =>
    let a := t.cvtSrc src o.a l
    let y := convert (FTy.fmt dst) rm a.val
    let r : Res := ⟨y.1, convCount (FTy.fmt dst) a ((FTy.fmt dst).decode y.1), y.2⟩
    match dst with
    | .fp64 => t.deliver64 o.d r
    | .fp32 => t.deliver32 o.d r
    | .fp16 | .bf16 | .f8a | .f8b | .f4 => t.deliverRaw o.d (BitVec.ofNat 32 y.1) y.2)

/-- PACK (R195). -/
def execPack (dly : BitVec 3) (g : Guard) (o : OpsDA) (c : Reg) (dst : FTy) (slot : BitVec 3) (s : State) :
    Host.Outcome State Fault Refusal :=
  .next (s.lanewise (.pack dly g o c dst slot) g 5 fun t l =>
    let w := (FTy.fmt dst).width
    let y := convert (FTy.fmt dst) .rne (t.fa false o.a l).val
    let old := (t.rv c.toNat l).val.toNat
    t.deliverRaw o.d (BitVec.ofNat 32 (old - elemOf w slot.toNat old * 2 ^ (w * slot.toNat) + y.1 * 2 ^ (w * slot.toNat))) y.2)

/-- UNPK (R195). -/
def execUnpk (dly : BitVec 3) (g : Guard) (o : OpsDA) (src : FTy) (slot : BitVec 3) (s : State) :
    Host.Outcome State Fault Refusal :=
  .next (s.lanewise (.unpk dly g o src slot) g 5 fun t l =>
    let f := FTy.fmt src
    let x := f.decode (elemOf f.width slot.toNat (t.rv o.a.toNat l).val.toNat)
    let y := convert fmt32 .rne x
    t.deliver32 o.d ⟨y.1, overrideCount fmt32 (fmt32.decode y.1) (some f.prec) f.prec, y.2⟩)

/-! ### Dot products (R196) -/

/-- DP2 (R196). -/
def execDp2 (dly : BitVec 3) (g : Guard) (o : Ops) (c : Reg) (bf : Bool) (s : State) :
    Host.Outcome State Fault Refusal :=
  .next (s.lanewise (.dp2 dly g o c bf) g 6 fun t l => t.dot o c (halfFmt bf) 16 l)

/-- DP4 (R196). -/
def execDp4 (dly : BitVec 3) (g : Guard) (o : Ops) (c : Reg) (ty : Dp4Ty) (s : State) :
    Host.Outcome State Fault Refusal :=
  .next (s.lanewise (.dp4 dly g o c ty) g 6 fun t l =>
    match ty with
    | .int8 => t.dotI o c .int8 l
    | .uint8 => t.dotI o c .uint8 l
    | .f8a => t.dot o c fmtF8a 8 l
    | .f8b => t.dot o c fmtF8b 8 l)

/-- DP8 (R196). -/
def execDp8 (dly : BitVec 3) (g : Guard) (o : Ops) (c : Reg) (f4 : Bool) (s : State) :
    Host.Outcome State Fault Refusal :=
  .next (s.lanewise (.dp8 dly g o c f4) g 6 fun t l => if f4 then t.dot o c fmtF4 4 l else t.dotI o c .int4 l)

/-! ### Sound-bit counts (R198 to R200) -/

/-- GETSB: the raw code (R198). -/
def execGetsb (dly : BitVec 3) (g : Guard) (o : OpsDA) (s : State) :
    Host.Outcome State Fault Refusal :=
  .next (s.lanewise (.getsb dly g o) g 4 fun t l => resV o.d ((t.rv o.a.toNat l).cnt.setWidth 32))

/-- SETSB: the count written, the value left (R199). -/
def execSetsb (dly : BitVec 3) (g : Guard) (d : Reg) (b : Reg) (bk : Bool) (s : State) :
    Host.Outcome State Fault Refusal :=
  let i := Instr.setsb dly g d b bk
  .next <| s.issue i g fun s => s.deliver i 4 true
    (runPasses s.cur s.now i g fun t l => ⟨[(d.toNat, ⟨0, setsbVal (t.srcB bk b l).toNat⟩)], [], 0, none⟩)

/-- SBCMP: the count of A against that of B, or the value of an s register (R200). -/
def execSbcmp (dly : BitVec 3) (g : Guard) (o : Ops) (cc : SCond) (s : State) :
    Host.Outcome State Fault Refusal :=
  .next (s.lanewise (.sbcmp dly g o cc) g 4 fun t l =>
    resP o.d (scondVal cc (t.rv o.a.toNat l).cnt.toNat
      (if o.bk then (t.rs o.b.toNat).toNat else (t.rv o.b.toNat l).cnt.toNat)))

end Sys2Proof.Machine
end

