-- ==== Sys2Proof/Machine/Cross.lean ====
section
/-! DEFINITION. Cross-lane work (R155 to R160): SHFL, VOTE, GRED and GSCAN within a group, and REORDER. -/

namespace Sys2Proof.Machine

/-- The first lane of the group of lane `l` (R15, R155). -/
def groupBase (t : Team) (l : Nat) : Nat := l / t.d.groupw * t.d.groupw

/-- The lanes of a group, and whether a lane takes part: active, and selected by the guard (R155). -/
def groupLanes (t : Team) (l : Nat) : List Nat := (List.range t.d.groupw).map (groupBase t l + ·)
def takesPart (t : Team) (g : Guard) (l : Nat) : Bool := t.mask.getLsbD l && t.guardOn g l

/-! ### SHFL (R156) -/

/-- The source position, or none out of range. -/
def shflPos (m : ShflMode) (w i b : Nat) : Option Nat :=
  match m with
  | .idx => if b < w then some b else none
  | .up => if b ≤ i then some (i - b) else none
  | .down => if i + b < w then some (i + b) else none
  | .xor => if (i ^^^ b) < w then some (i ^^^ b) else none

def shflLane (m : ShflMode) (o : Ops) (t : Team) (l : Nat) : LaneRes :=
  let g0 := groupBase t l
  let j := match shflPos m t.d.groupw (l - g0) (t.srcB o.bk o.b l).toNat with
    | some j => if t.mask.getLsbD (g0 + j) then g0 + j else l
    | none => l
  resCell o.d (t.rv o.a.toNat j)

/-- SHFL (R156). -/
def execShfl (dly : BitVec 3) (g : Guard) (tag : Tag) (o : Ops) (m : ShflMode) (s : State) :
    Host.Outcome State Fault Refusal :=
  .next (s.taggedRun (.shfl dly g tag o m) g (shflLane m o))

/-! ### VOTE (R157) -/

/-- VOTE.ALL: p_A holds in every participant of the group. -/
def execVoteAll (dly : BitVec 3) (g : Guard) (tag : Tag) (o : OpsDA) (s : State) :
    Host.Outcome State Fault Refusal :=
  .next (s.taggedRun (.voteAll dly g tag o) g fun t l =>
    resP o.d ((groupLanes t l).all fun k => !takesPart t g k || t.rp o.a.toNat k))

/-- VOTE.ANY: p_A holds in some participant. -/
def execVoteAny (dly : BitVec 3) (g : Guard) (tag : Tag) (o : OpsDA) (s : State) :
    Host.Outcome State Fault Refusal :=
  .next (s.taggedRun (.voteAny dly g tag o) g fun t l =>
    resP o.d ((groupLanes t l).any fun k => takesPart t g k && t.rp o.a.toNat k))

/-- VOTE.BALLOT: bit i for position i; a pair where the group has 64 lanes. -/
def execVoteBallot (dly : BitVec 3) (g : Guard) (tag : Tag) (o : OpsDA) (s : State) :
    Host.Outcome State Fault Refusal :=
  .next (s.taggedRun (.voteBallot dly g tag o) g fun t l =>
    let x := (List.range t.d.groupw).foldl (fun x i =>
      let k := groupBase t l + i
      if takesPart t g k && t.rp o.a.toNat k then x + 2 ^ i else x) 0
    if t.d.groupw = 64 then resV64 o.d (BitVec.ofNat 64 x) else resV o.d (BitVec.ofNat 32 x))

/-- VOTE.EQ: every participant holds the same v_A. -/
def execVoteEq (dly : BitVec 3) (g : Guard) (tag : Tag) (o : OpsDA) (s : State) :
    Host.Outcome State Fault Refusal :=
  .next (s.taggedRun (.voteEq dly g tag o) g fun t l =>
    resP o.d ((groupLanes t l).all fun k => !takesPart t g k || (t.rv o.a.toNat k).val == (t.rv o.a.toNat l).val))

/-! ### Reductions and scans (R158) -/

/-- A count that R179 gives an FP32 value: 0 to 24 sound bits, or 63. -/
def count32 (c : BitVec 6) : BitVec 6 := if c ≤ 24 then c else 63

/-- The identity of an operation, as a cell; the count of −0.0 is a free value among those of an FP32 value (R179; log 11). -/
def gredIdentity : GredOp → VCell
  | .iadd | .umax | .or | .xor => ⟨0, 63⟩
  | .imin => ⟨0x7FFFFFFF, 63⟩
  | .imax => ⟨0x80000000, 63⟩
  | .umin | .and => ⟨0xFFFFFFFF, 63⟩
  | .fadd => ⟨0x80000000, count32 Config.identityCount⟩
  | .fmin => ⟨0x7F800000, 0⟩
  | .fmax => ⟨0xFF800000, 0⟩

/-- Two operands combined: the value and the flags raised. -/
def gredCombine (op : GredOp) (rm : RM) (a b : VCell) : VCell × Word :=
  let int := fun (x : Word) => ((⟨x, 63⟩, 0) : VCell × Word)
  let fp := fun (r : Res) => ((⟨BitVec.ofNat 32 r.x, r.cnt⟩, r.flags) : VCell × Word)
  let x := fmt32.src false a.val.toNat a.cnt
  let y := fmt32.src false b.val.toNat b.cnt
  match op with
  | .iadd => int (a.val + b.val)
  | .imin => int (minVal false a.val b.val)
  | .imax => int (maxVal false a.val b.val)
  | .umin => int (minVal true a.val b.val)
  | .umax => int (maxVal true a.val b.val)
  | .and => int (a.val &&& b.val)
  | .or => int (a.val ||| b.val)
  | .xor => int (a.val ^^^ b.val)
  | .fadd => fp (fmt32.addRes rm false x y)
  | .fmin => fp (fmt32.minmaxRes false x y)
  | .fmax => fp (fmt32.minmaxRes true x y)

/-- A node of the tree: no operand where every position below it holds the identity. -/
def gredNode (op : GredOp) (rm : RM) (a b : Option VCell × Word) : Option VCell × Word :=
  match a.1, b.1 with
  | none, y => (y, a.2 ||| b.2)
  | x, none => (x, a.2 ||| b.2)
  | some x, some y =>
    let r := gredCombine op rm x y
    (some r.1, a.2 ||| b.2 ||| r.2)

/-- One level of the tree. -/
def gredLevel (f : Option VCell × Word → Option VCell × Word → Option VCell × Word) :
    List (Option VCell × Word) → List (Option VCell × Word)
  | a :: b :: r => f a b :: gredLevel f r
  | l => l

/-- The fixed tree over the group's positions: six levels cover 64 lanes. -/
def gredTree (op : GredOp) (rm : RM) (xs : List (Option VCell)) : VCell × Word :=
  let r := ((List.range 6).foldl (fun l _ => gredLevel (gredNode op rm) l) (xs.map fun x => (x, (0 : Word)))).headD (none, 0)
  (r.1.getD (gredIdentity op), r.2)

/-- An operand of the tree: integer work reads no count. -/
def gredOperand (op : GredOp) (c : VCell) : VCell :=
  match op with
  | .fadd | .fmin | .fmax => c
  | .iadd | .imin | .imax | .umin | .umax | .and | .or | .xor => ⟨c.val, 63⟩

/-- The result for lane `l` over the participants at positions that `keep` admits. -/
def gredLane (g : Guard) (o : OpsDA) (op : GredOp) (rm : RM) (keep : Nat → Bool) (t : Team) (l : Nat) : LaneRes :=
  let r := gredTree op rm ((List.range t.d.groupw).map fun i =>
    let k := groupBase t l + i
    if takesPart t g k && keep i then some (gredOperand op (t.rv o.a.toNat k)) else none)
  ⟨[(o.d.toNat, r.1)], [], r.2, none⟩

/-- GRED (R158). -/
def execGred (dly : BitVec 3) (g : Guard) (tag : Tag) (o : OpsDA) (op : GredOp) (rm : RM) (s : State) :
    Host.Outcome State Fault Refusal :=
  .next (s.taggedRun (.gred dly g tag o op rm) g (gredLane g o op rm fun _ => true))

/-- GSCAN and GSCAN.EXCL (R158). -/
def execGscan (dly : BitVec 3) (g : Guard) (tag : Tag) (o : OpsDA) (op : GredOp) (excl : Bool) (rm : RM) (s : State) :
    Host.Outcome State Fault Refusal :=
  .next (s.taggedRun (.gscan dly g tag o op excl rm) g fun t l =>
    let i := l - groupBase t l
    gredLane g o op rm (fun k => if excl then decide (k < i) else decide (k ≤ i)) t l)

/-! ### REORDER (R159, R160) -/

/-- A team's REORDER: it arrives once with its keys, each word's as its pass reads it (R103), its live mask and its word 0,
then waits for its set. -/
def reorderBody (i : Instr) (a b : Reg) (s : State) : State :=
  let t := s.cur
  if s.blk.reorder.any fun x => x.1 = t.uid ∧ x.2.2.2 = 0 then (s.stall .reorder).tryReorder t.bid t.core
  else
    let n := s.passes i .pt
    let s1 := s.retire i n
    let keys := (lanesOf t.mask).map fun l => (t.uid, l, ((s.viewOf i .pt l).rv a.toNat l).val.toNat, l + 1)
    let s2 := { s1 with
      cur := { s1.cur with at_ := t.at_, wait := .reorder, synced := some (t.at_.pc, 16) }
      blk := { s1.blk with reorder := s1.blk.reorder ++ (t.uid, liveMask t b, (encodeWord0 i).toNat, 0) :: keys } }
    s2.tryReorder t.bid t.core

/-- REORDER; a D-mode team leaves it to the commit (R270). -/
def execReorder (dly : BitVec 3) (a b : Reg) (s : State) : Host.Outcome State Fault Refusal :=
  let i := Instr.reorder dly a b
  .next (s.issue i .pt fun s => s.gate i (reorderBody i a b))

end Sys2Proof.Machine
end

