-- ==== Sys2Proof/Machine/Translate.lean ====
section
/-! DEFINITION. Translation (R245 to R250): the walk of the tables, the TLBs, permissions and faults, instruction
fetch (R113, R114), and the events TABLE_WALK, PRESP, INVAL and ASIDCTL. -/

namespace Sys2Proof.Machine

/-- A leaf as the walk finds it (R246): page size, frame, permissions, and where its entry lies. -/
structure Leaf where
  log : Nat
  frame : Nat
  entry : Nat
  at_ : Nat
  deriving DecidableEq, Repr

/-- How a walk ends: a leaf, a fault with its reason (R248), a violation by the walker (R220), or an entry that cannot be read
(R240). -/
inductive WalkRes where
  | leaf (l : Leaf)
  | fault (reason : Nat)
  | violation (pa : Nat)
  | bad (pa : Nat)
  deriving DecidableEq, Repr

/-- Whether a table may lie at an address: package or slice memory (R246), by the device's own peer window too (log 116). -/
def tablePlace (devno pa : Nat) : Bool :=
  match placeOf (homeOf devno pa) with
  | .package _ | .slice _ _ => true
  | _ => false

/-- Index of a virtual address and page size of a leaf, by level (R246). -/
def levelIndex (lvl va : Nat) : Nat :=
  if lvl = 3 then bitsOf va 55 39 else if lvl = 2 then bitsOf va 38 30 else if lvl = 1 then bitsOf va 29 21 else bitsOf va 20 12
def levelLog (lvl : Nat) : Nat := if lvl = 2 then 30 else if lvl = 1 then 21 else 12

/-- Whether an entry is malformed at a level (R246). A CONT leaf's frame bits below 64 KiB are cleared (R247). -/
def malformed (devno lvl e : Nat) : Bool :=
  let tbl := e.testBit 1
  let cont := e.testBit 8
  let frame := bitsOf e 51 12 * 4096
  bitsOf e 63 52 != 0 || bitsOf e 11 9 != 0
    || (lvl == 3 && !tbl) || (lvl == 0 && tbl) || (cont && lvl != 0)
    || (if tbl then !tablePlace devno frame else frame % 2 ^ levelLog lvl != 0)

/-- The walk through the levels that remain, from the table at `base` (R246). A root table may lie anywhere that the partition may
reach, also in the host window (log 127). -/
def walkFrom (s : State) (part va : Nat) : List Nat → Nat → WalkRes
  | [], _ => .fault 2
  | lvl :: rest, base =>
    let a := base + 8 * levelIndex lvl va
    if reach s part a = some false then .violation a
    else if s.badData a 8 then .bad a
    else
      let e := s.num a 8
      if !e.testBit 0 then .fault 0
      else if malformed s.devno lvl e then .fault 2
      else if e.testBit 1 then walkFrom s part va rest (bitsOf e 51 12 * 4096)
      else if e.testBit 8 then .leaf ⟨16, bitsOf e 51 16 * 65536, e, a⟩
      else .leaf ⟨levelLog lvl, bitsOf e 51 12 * 4096, e, a⟩

def State.walk (s : State) (part asid va : Nat) : WalkRes := walkFrom s part va [3, 2, 1, 0] ((s.asid asid).root * 2 ^ 20)

/-- The entries that a walk reads, in order. -/
def walkReads (s : State) (va : Nat) : List Nat → Nat → List Nat
  | [], _ => []
  | lvl :: rest, base =>
    let a := base + 8 * levelIndex lvl va
    let e := s.num a 8
    a :: (if e.testBit 0 && !malformed s.devno lvl e && e.testBit 1 then walkReads s va rest (bitsOf e 51 12 * 4096) else [])

/-- A walk carried out: its reads may activate the rows that hold the tables (R344). -/
def State.walked (s : State) (part asid va : Nat) : State × WalkRes :=
  ((walkReads s va [3, 2, 1, 0] ((s.asid asid).root * 2 ^ 20)).foldl State.activate s, s.walk part asid va)

/-- A leaf as a TLB entry (R247). -/
def Leaf.entryFor (l : Leaf) (pier asid va : Nat) : TlbEntry where
  pier := pier
  core := none
  asid := asid
  vpn := va / 2 ^ l.log
  log := l.log
  frame := l.frame
  dev := l.entry.testBit 5
  ex := l.entry.testBit 4
  wr := l.entry.testBit 3
  rd := l.entry.testBit 2
  dirty := l.entry.testBit 7
  leaf := l.at_

/-- Whether a cached translation serves an address. -/
def TlbEntry.serves (e : TlbEntry) (asid va : Nat) : Bool := decide (e.asid = asid ∧ va / 2 ^ e.log = e.vpn)

/-- The cached translation of an address: of the core's TLB, else of the pier's (R247). -/
def State.cached (s : State) (core : Option Nat) (pier asid va : Nat) : Option TlbEntry :=
  match (if core.isSome then s.tlb.find? fun e => e.core == core && e.serves asid va else none) with
  | some e => some e
  | none => s.tlb.find? fun e => e.core.isNone && e.pier == pier && e.serves asid va

/-- The first `n` of those that `p` names, and all others. -/
def keepFirst {α : Type} (p : α → Bool) : Nat → List α → List α
  | _, [] => []
  | n, a :: r =>
    if p a then
      match n with
      | 0 => keepFirst p 0 r
      | m + 1 => a :: keepFirst p m r
    else a :: keepFirst p n r

/-- A translation put into a pier's TLB, and into a core's: the one put there first makes room (log 88). -/
def tlbFill (l : List TlbEntry) (core : Option Nat) (e : TlbEntry) : List TlbEntry :=
  let same := fun (x : TlbEntry) => x.pier == e.pier && x.asid == e.asid && x.log == e.log && x.vpn == e.vpn
  let pier := keepFirst (fun x => x.core.isNone && x.pier == e.pier) Config.pierTlb
    ({ e with core := none } :: l.filter fun x => !(x.core.isNone && same x))
  if core.isNone then pier
  else keepFirst (fun x => x.core == core) Config.coreTlb ({ e with core := core } :: pier.filter fun x => !(x.core == core && same x))

/-- An atomic OR into a table entry at its point of coherence (R247, R275). -/
def State.orEntry (s : State) (a bits : Nat) : State := s.store a (bytesOf 8 (s.num a 8 ||| bits))

/-- A leaf cached: A is set if it was clear (R247). -/
def State.cache (s : State) (l : Leaf) (core : Option Nat) (pier asid va : Nat) : State :=
  let s1 := if l.entry.testBit 6 then s else s.orEntry l.at_ 0x40
  { s1 with tlb := tlbFill (s1.tlb.filter fun e => !(e.pier == pier && e.serves asid va)) core (l.entryFor pier asid va) }

/-- What keeps an access from being made, beside a fault: an ASID that is not live (R327), a peer with no port left (R332), or data
that cannot be read (R240), each of which kills the block; or a frozen table walker, which makes no walk (R220): the access waits
(log 109). -/
inductive Dead where
  | asid
  | port
  | data (pa : Nat)
  | walker
  deriving DecidableEq, Repr

/-- The result of a translation: an address, a fault that may be recoverable, a refused address (never
recoverable: high bits or unbacked), a violation, or what else stops it. -/
inductive XRes where
  | ok (pa : Nat) (dev : Bool)
  | fault (reason : Nat)
  | refused
  | violation (byWalker : Bool) (a : Nat)
  | dead (why : Dead)
  deriving DecidableEq, Repr

/-- The permissions an access needs (R248); `bytes` is its size. -/
def permitted (e : TlbEntry) (k : AccKind) (bytes : Nat) : Bool :=
  match k with
  | .load => e.rd && (!e.dev || bytes == 4 || bytes == 8)
  | .store => e.wr && (!e.dev || bytes == 4 || bytes == 8)
  | .atomic => e.rd && e.wr && !e.dev
  | .fetch => e.ex && !e.dev

def accWrites : AccKind → Bool
  | .store | .atomic => true
  | .load | .fetch => false

/-- Whether a peer's route is valid and has lost its last port (R332). -/
def State.noPort (s : State) (part pa : Nat) : Bool :=
  match placeOf pa with
  | .peer d _ =>
    let r := (s.part part).routes.getD d (false, 0)
    d != s.devno && r.1 && r.2 == 0
  | _ => false

/-- Whether an address lies in the device's registers (R233). -/
def isReg (pa : Nat) : Bool :=
  match placeOf pa with
  | .regs _ => true
  | _ => false

/-- Where a permitted access goes: nothing there, another partition's, or its address (R234). A register that the partition may
reach is reached only through a device page (R326): elsewhere nothing is there (log 91). -/
def State.place (s : State) (part : Nat) (e : TlbEntry) (va : Nat) : XRes :=
  let pa := e.frame + va % 2 ^ e.log
  if s.noPort part pa then .dead .port
  else match reach s part pa with
  | none => .refused
  | some false => .violation false pa
  | some true => if isReg pa && !e.dev then .refused else .ok pa e.dev

/-- The address to walk for the leaf of a cached translation that serves `a`: of a 64 KiB page, the 4 KiB whose entry it was formed
from (R247). -/
def TlbEntry.again (e : TlbEntry) (a : Nat) : Nat := if e.log = 16 then e.vpn * 2 ^ 16 + e.leaf / 8 % 16 * 4096 else a

/-- Whether a walk of `x` ends at a leaf whose page does not hold `a`. -/
def WalkRes.apart (w : WalkRes) (x a : Nat) : Bool :=
  match w with
  | .leaf l => x / 2 ^ l.log != a / 2 ^ l.log
  | .fault _ | .violation _ | .bad _ => false

/-- One access translated (R245 to R248): the TLB, else a walk; a write through a clean leaf reads it again and
sets D first. An ASID outside the partition's range is a violation, and a frozen walker makes no walk (R220). -/
def State.translate (s : State) (core : Option Nat) (pier part asid : Nat) (va : DWord) (k : AccKind) (bytes : Nat) : State × XRes :=
  let a := va.toNat
  let p := s.part part
  if bitsOf a 63 56 != 0 then (s, .refused)
  else if asid < p.asidBase ∨ p.asidBase + p.asidCount ≤ asid then (s, .violation false 0)
  else if !(s.asid asid).valid then (s, .dead .asid)
  else
    let fresh := fun (x : Nat) =>
      if (s.pier pier).walkerFrozen then (s, .dead .walker)
      else
      match s.walked part asid x with
      | (s0, .fault r) => (s0, XRes.fault r)
      | (s0, .violation x) => (s0, .violation true x)
      | (s0, .bad x) => (s0, .dead (.data x))
      | (s0, .leaf l) =>
        let s1 := s0.cache l core pier asid x
        let e := l.entryFor pier asid x
        if !permitted e k bytes then (s1, .fault 1)
        else
          match s1.place part e a with
          | .ok pa dev =>
            (if accWrites k && !e.dirty then
              { s1.orEntry e.leaf 0x80 with tlb := s1.tlb.map fun x => if { x with core := none } = e then { x with dirty := true } else x }
             else s1, .ok pa dev)
          | r => (s1, r)
    match s.cached core pier asid a with
    | none => fresh a
    | some e =>
      if !permitted e k bytes then (s, .fault 1)
      else if accWrites k && !e.dirty then fresh (if (s.walk part asid (e.again a)).apart (e.again a) a then a else e.again a)
      else (if core.isSome && e.core.isNone then { s with tlb := tlbFill s.tlb core e } else s, s.place part e a)

/-- The current team's translation: in its ASID, through its core and its pier. -/
def State.xlate (s : State) (va : DWord) (k : AccKind) (bytes : Nat) : State × XRes :=
  s.translate (some s.cur.core) (s.cur.core / 4) s.cur.d.part s.cur.d.asid va k bytes

/-- The word of code at an address as the core's instruction cache gives it (R114): a word that a store has changed
since the core fetched it reads as it was or as it is now, by a free value. -/
def State.codeWord (s : State) (pa : Nat) : State × Word :=
  let m : Word := BitVec.ofNat 32 (s.num pa 4)
  let keep := fun (s : State) => (s.activate pa).onCore s.cur.core fun k => { k with icache := (pa, m) :: k.icache.filter fun e => e.1 != pa }
  match (s.core s.cur.core).icache.lookup pa with
  | none => (keep s, m)
  | some x =>
    if x = m then (s, m)
    else
      let s1 := { s with free := s.free + 1 }
      if Config.codeKept s.free then (s1, x) else (keep s1, m)

/-- The spot of the current team's access of `n` bytes, translated to a physical address. -/
def State.spot (s : State) (va : DWord) (n pa : Nat) : Spot where
  va := va
  n := n
  log := ((s.cached (some s.cur.core) (s.cur.core / 4) s.cur.d.asid va.toNat).map (·.log)).getD 12
  home := homeOf s.devno pa

/-- A word of code (R114): from the core's instruction cache, or the reason it cannot be fetched. -/
def State.fetch (s : State) (pc : DWord) : State × Except XRes Word :=
  match s.xlate pc .fetch 4 with
  | (s1, .ok pa _) => if s1.badData pa 4 then (s1, .error (.dead (.data pa))) else ((s1.codeWord pa).1, .ok (s1.codeWord pa).2)
  | (s1, r) => (s1, .error r)

/-- What kills a block whose access is to `va`, for the requester `src` of unit class `u`, and the record's WHERE and DATA of a
dead ASID; none where the access waits. -/
def Dead.kill (k : Dead) (d : Desc) (u : Nat) (va wher : DWord) (data src : Word) : Option KillInfo :=
  match k with
  | .port => some ⟨0x23, 0x0A, if d.idem then 0 else 1, va, 0, src, true⟩
  | .asid => some ⟨0x08, u, 1, wher, data, src, true⟩
  | .data pa => some ⟨0x20, 0x02, 1, BitVec.ofNat 64 pa, 0, src, true⟩
  | .walker => none

/-- A block killed because its ASID is no longer live (R327), because no port is left for its access (R332), or because a table
or its code cannot be read (R240); before a frozen walker the team waits where it stands (log 109). -/
def State.killDead (s : State) (k : Dead) (va : DWord) : State :=
  match k.kill s.cur.d 0x00 va s.cur.at_.pc (lo32 va) (s.srcid s.cur) with
  | some x => s.killWith s.cur.bid x
  | none => s.stall .walker

/-! ### Recoverable faults -/

def accBit : AccKind → Nat
  | .load => 1
  | .store => 2
  | .fetch => 4
  | .atomic => 8

/-- A page-request record (R249). -/
def State.pageRequest (s : State) (f asid : Nat) (va : DWord) (k : AccKind) (reason : Nat) (srcid : Word) (token : Nat) : State :=
  s.requestPut f (bytesOf 8 (va.toNat / 4096 * 4096) ++ bytesOf 2 asid ++ bytesOf 1 (accBit k) ++ bytesOf 1 reason
    ++ bytesOf 4 srcid.toNat ++ bytesOf 4 token ++ bytesOf 4 0 ++ bytesOf 8 s.clock.toNat)

/-- The function whose rings a launch's or a handler's records go to. -/
def State.funcOf (s : State) (lid part : Nat) : Nat :=
  match s.launch lid with
  | some l => l.f
  | none => (s.lowestFunc part).headD 0

/-- The instruction at a place could not be fetched (R113): a trap, or a held fetch where the ASID recovers. -/
def State.fetchFault (s : State) (va : DWord) (r : XRes) : State :=
  match r with
  | .dead k => s.killDead k va
  | .violation true a => s.isolateWalker s.cur.d.part (s.cur.core / 4) a
  | .violation false _ => s.isolateTeam
  | .fault reason =>
    if (s.asid s.cur.d.asid).recov then
      if !s.cur.hmode && !s.cur.recs.isEmpty then s.takeTrap
      else
        let tok := s.nextToken
        let h : HeldAccess := ⟨tok, s.cur.ins, 0, 0, false, va, .fetch, none, 0, 0, 0, [], 4, .plain, .team, .rlx, s.cur.at_, s.cur.at_, 0,
          none⟩
        let s1 := s.pageRequest (s.funcOf s.cur.lid s.cur.d.part) s.cur.d.asid va .fetch reason (s.srcid s.cur) tok
        { s1 with nextToken := tok + 1
                  holders := (tok, .team s.cur.uid) :: s1.holders
                  cur := { s1.cur with held := h :: s1.cur.held, wait := .parked }
                  sel := false }
    else fetchTrap
  | .refused | .ok _ _ => fetchTrap
where
  fetchTrap : State :=
    if s.cur.hmode then s.killTrap 0x08 s.cur.at_.pc (lo32 va)
    else if Config.maxRecords ≤ s.cur.recs.length then s.takeTrap
    else
      State.takeTrap { s with cur := { s.cur with
        recs := s.cur.recs ++ [⟨s.cur.at_, ⟨s.cur.at_.pc + 4, s.cur.at_.left - 1⟩, 0x08, lo32 va, s.cur.mask⟩], mask := 0 } }

/-- TABLE_WALK: the walker of the current team's pier reads the tables for an address and caches the leaf (R247);
an entry in another partition's memory freezes it, and a frozen one makes no walk (R220). -/
def execTableWalk (asid : Nat) (va : DWord) (k : AccKind) (s : State) : Host.Outcome State Fault Refusal :=
  .next <|
    let pier := s.cur.core / 4
    if (s.pier pier).walkerFrozen then s
    else match s.walked s.cur.d.part asid va.toNat with
    | (s, .leaf l) => if permitted (l.entryFor pier asid va.toNat) k 4 then s.cache l (some s.cur.core) pier asid va.toNat else s
    | (s, .fault _) => s
    | (s, .bad a) => s.killDead (.data a) va
    | (s, .violation a) => s.isolateWalker s.cur.d.part pier a

/-- ASIDCTL_WRITE (R327): the selected ASID's fault mode and VALID, or ERR outside the function's range. -/
def execAsidctlWrite (f : Nat) (v : Word) (s : State) : Host.Outcome State Fault Refusal :=
  .next <|
    let x := s.func f
    if x.fasidBase ≤ x.asidsel ∧ x.asidsel < x.fasidBase + x.fasidCount then
      { (s.onFunc f fun y => { y with asidErr := false }) with
        asids := upd s.asids x.asidsel fun a => { a with recov := v.getLsbD 1, valid := v.getLsbD 0 } }
    else s.onFunc f fun y => { y with asidErr := true }

/-- Whether an invalidation covers the page of 2^`log` bytes that holds a virtual address: some 4 KiB of it are in its scope
(R327). -/
def Inval.drops (i : Inval) (asid va log : Nat) : Bool :=
  i.asid == asid &&
    match i.scope.toNat with
    | 0 => i.vpn * 4096 / 2 ^ log == va / 2 ^ log
    | 1 => if log ≤ 21 then va / 2 ^ 21 == i.vpn / 512 else i.vpn * 4096 / 2 ^ log == va / 2 ^ log
    | _ => true
def Spot.covered (x : Spot) (asid : Nat) (i : Inval) : Bool := i.drops asid x.va.toNat x.log
def TlbEntry.covered (e : TlbEntry) (i : Inval) : Bool := i.drops e.asid (e.vpn * 2 ^ e.log) e.log

/-- An invalidation accepted (R327). -/
def State.acceptInval (s : State) (i : Inval) : State :=
  { (s.onFunc i.f fun x => { x with invalSent := x.invalSent + 1 }) with invals := s.invals ++ [i] }

/-- INVAL (R327): accepted, unless the scope is reserved; a write beyond 64 outstanding is held until one completes. -/
def execInval (f : Nat) (va : DWord) (scope : BitVec 2) (asid : Nat) (s : State) : Host.Outcome State Fault Refusal :=
  .next <|
    let i : Inval := ⟨f, va.toNat / 4096, scope, asid⟩
    if scope = 3 then s
    else if 64 ≤ s.invals.length then { s with invalHeld := s.invalHeld ++ [i] }
    else s.acceptInval i

/-- The spot of an access that a D-mode team holds. -/
def DHeld.spot? : DHeld → Option Spot
  | .store w => some w.spot
  | .atom _ _ _ _ _ x _ _ _ => some x
  | .sts .. | .atoms .. => none

/-- Whether an access of a team translated with an entry that an invalidation covers is on its way in its in-flight list. -/
def Team.flies (t : Team) (i : Inval) : Bool :=
  t.flight.any fun e => e.st != .performed && e.spots.any fun x => Spot.covered x t.d.asid i

/-- Whether a team on a core, resident, ended, or frozen with requests that it had sent (R220), still has an access translated with an entry that an invalidation covers (R22,
R247, R251): in its buffer, waiting for room there, in flight, held in D-mode, or to be performed. -/
def Team.uses (t : Team) (i : Inval) : Bool :=
  let on := fun (x : Spot) => x.covered t.d.asid i
  t.st != .vacant && t.d.asid == i.asid
    && ((t.stores.any fun e => e.st != .performed && e.spots.any on) || t.flies i
      || (t.waiting.any fun w => on w.spot) || (t.dheld.any fun d => (DHeld.spot? d).any on)
      || t.accesses.any fun a => a.st != .performed && on a.spot)

/-- Store-buffer entries of a saved team on an invalidated page: they must be translated again (R247); `seq` 0
marks them. -/
def Team.stale (i : Inval) (t : Team) : Team :=
  let mark := fun (e : StoreEntry) => if e.spots.any fun x => Spot.covered x t.d.asid i then { e with seq := 0 } else e
  { t with stores := t.stores.map mark }

/-- INVAL_COMPLETE (R247): the function's oldest invalidation completes once every access translated with the old
entry is performed; the entries are dropped, store-buffer entries of saved teams are marked by the drop, and the oldest held
write is accepted. -/
def execInvalComplete (f : Nat) (s : State) : Host.Outcome State Fault Refusal :=
  .next <|
    match s.invals.find? fun i => i.f = f with
    | none => s
    | some i =>
      if s.allTeams.any (fun t => t.uses i) || (s.saved.flatMap (·.teams)).any (fun t => t.flies i) then s
      else
        let s1 : State :=
          { (s.onFunc f fun x => { x with invalDone := x.invalDone + 1 }) with
            invals := s.invals.erase i
            tlb := s.tlb.filter fun e => !e.covered i
            saved := s.saved.map fun b => { b with teams := b.teams.map (Team.stale i) } }
        match s1.invalHeld with
        | [] => s1
        | h :: r => State.acceptInval { s1 with invalHeld := r } h

end Sys2Proof.Machine
end

