-- ==== Sys2Proof/Machine/Regs.lean ====
section
/-! DEFINITION. Device registers as they read, by 32-bit word (R67, R327, R330, R337), and memory as an access
reads and writes it: registers at their unit, the rest in `mem` (R233). -/

namespace Sys2Proof.Machine

def QState.code : QState → Nat
  | .idle => 0
  | .active => 1
  | .resetting => 2
  | .reset => 3
  | .faulted => 4
def PState.code : PState → Nat
  | .unused => 0
  | .drained => 1
  | .active => 2
  | .draining => 3
  | .quarantined => 4
def TdiSt.code : TdiSt → Nat
  | .unlocked => 0
  | .locked => 1
  | .run => 2
  | .error => 3

/-- Launches taken by a queue and not complete (R66). -/
def Queue.inflight (q : Queue) : Nat := (q.taken.filter fun t => t.lid.isSome).length

/-- Half `h` of a 64-bit number. -/
def half (h x : Nat) : Nat := bitsOf x (32 * h + 31) (32 * h)

/-- A word of a ring's registers: base, CFG, TAIL, HEAD (write-only), LOST (R327). -/
def Ring.reg (r : Ring) (k : Nat) : Nat :=
  match k with
  | 0 => half 0 r.base.toNat
  | 1 => half 1 r.base.toNat
  | 2 => r.vec * 2 ^ 16 + r.log
  | 3 => r.tail.toNat
  | 5 => r.lost.toNat
  | _ => 0

/-- A word of BAR0 of function `f` (R67, R327, R337); write-only registers read as zero. -/
def State.funcReg (s : State) (f off : Nat) : Nat :=
  let x := s.func f
  if off < 0x400 then
    if off % 16 = 12 then
      let q := s.queue f (off / 16)
      q.inflight * 256 + q.st.code
    else 0
  else if 0x1000 ≤ off ∧ off < 0x1018 then x.flt.reg ((off - 0x1000) / 4)
  else if 0x1018 ≤ off ∧ off < 0x1030 then x.prq.reg ((off - 0x1018) / 4)
  else if off = 0x1038 then x.asidsel
  else if off = 0x1040 ∨ off = 0x1044 then half ((off - 0x1040) / 4) ((s.asid x.asidsel).root * 2 ^ 20)
  else if off = 0x1048 then
    let a := s.asid x.asidsel
    (if x.asidErr then 4 else 0) + (if a.recov then 2 else 0) + (if a.valid then 1 else 0)
  else if off = 0x1058 then x.invalSent.toNat
  else if off = 0x105C then x.invalDone.toNat
  else if 0x4000 ≤ off ∧ off < 0x6000 then memNat s.census (f * 0x2000 + (off - 0x4000)) 4
  else 0

/-- A word of a partition's block (R330). -/
def Partition.reg (p : Partition) (off : Nat) : Nat :=
  let region := fun (k : Nat) =>
    let r := p.regions.getD k ⟨false, 0, 0⟩
    (if r.valid then 2 ^ 31 else 0) + r.base * 2 ^ 24 + r.sets
  if off = 0x000 then p.st.code
  else if off = 0x008 then p.perr
  else if off = 0x010 ∨ off = 0x014 ∨ off = 0x018 then half ((off - 0x010) / 4) p.pairs
  else if off = 0x020 ∨ off = 0x024 then half ((off - 0x020) / 4) p.slices
  else if 0x028 ≤ off ∧ off < 0x038 then region ((off - 0x028) / 4)
  else if off = 0x038 then p.ports
  else if off = 0x03C then p.asidCount * 2 ^ 10 + p.asidBase
  else if off = 0x040 ∨ off = 0x044 then half ((off - 0x040) / 4) p.ctx
  else if off = 0x048 ∨ off = 0x04C then half ((off - 0x048) / 4) p.ctxn
  else if off = 0x050 then p.drain
  else if off = 0x054 then p.blklim
  else if off = 0x058 ∨ off = 0x05C then half ((off - 0x058) / 4) p.pht
  else if off = 0x060 ∨ off = 0x064 then half ((off - 0x060) / 4) p.pten
  else if off = 0x068 then p.ptenn
  else if 0x400 ≤ off ∧ off < 0x800 then
    let r := p.routes.getD ((off - 0x400) / 4) (false, 0)
    (if r.1 then 2 ^ 31 else 0) + r.2
  else 0

/-- A word of BAR2 (R330). -/
def State.mgmtReg (s : State) (off : Nat) : Nat :=
  if off = 0x00 then s.devno
  else if off = 0x04 then s.raathr
  else if off = 0x08 ∨ off = 0x0C then half ((off - 8) / 4) s.ckhost.toNat
  else if off = 0x10 then s.ckstat * 256 + (if s.ckdir then 16 else 0) + s.ckpart
  else if 0x10000 ≤ off ∧ off < 0x20000 then (s.part ((off - 0x10000) / 0x1000)).reg (off % 0x1000)
  else if 0x20000 ≤ off ∧ off < 0x20000 + 0x100 * Config.numFunctions then
    let f := s.func ((off - 0x20000) / 0x100)
    let o := off % 0x100
    if o = 0 then f.fpart
    else if o = 8 ∨ o = 12 then half ((o - 8) / 4) f.fqcb.toNat
    else if o = 0x10 then f.fasidCount * 2 ^ 10 + f.fasidBase
    else if o = 0x18 then f.tdi.code
    else 0
  else 0

/-- A word of the register range (R233, R326). -/
def State.regWord (s : State) (x : Nat) : Nat :=
  if x < 0x1000000 then s.funcReg (x / 0x10000) (x % 0x10000 / 4 * 4) else s.mgmtReg ((x - 0x1000000) / 4 * 4)

/-- The registers whose reads clear them (R6): what a read of one word does. -/
def State.readWord (s : State) (x : Nat) : State :=
  if x < 0x1000000 then
    if x % 0x10000 = 0x1014 ∨ x % 0x10000 = 0x102C then
      { s with agenda := .fltlostRead ⟨x / 0x10000, x % 0x10000 == 0x102C⟩ :: s.agenda }
    else s
  else
    let o := x - 0x1000000
    if 0x10000 ≤ o ∧ o < 0x20000 ∧ o % 0x1000 = 8 then { s with agenda := .perrRead ((o - 0x10000) / 0x1000) :: s.agenda }
    else s

/-- An access's read at its point of coherence: the value, and the machine with what the read itself does. -/
def State.readAt (s : State) (pa n : Nat) : State × Nat :=
  match placeOf pa with
  | .regs x =>
    let w := s.regWord x + (if n = 8 then s.regWord (x + 4) * 2 ^ 32 else 0)
    (if n = 8 then (s.readWord x).readWord (x + 4) else s.readWord x, w % 2 ^ (8 * n))
  | _ => (s.activate pa, s.num pa n)

/-- Data of a slice that is written has no error any more (R240). -/
def State.healed (s : State) (pa n : Nat) : State :=
  match placeOf (homeOf s.devno pa) with
  | .slice sl o =>
    if (s.slices.getD sl .reset).bad.isEmpty then s
    else { s with slices := upd s.slices sl fun x => { x with bad := x.bad.filter fun b => decide (b < o ∨ o + n ≤ b) } }
  | _ => s

/-- An access's write at its point of coherence: a register write is an event of the register's unit. -/
def State.writeAt (s : State) (pa : Nat) (bs : List Byte) : State :=
  match placeOf pa with
  | .regs _ => { s with agenda := .registerWrite pa bs.length (numOf bs) :: s.agenda }
  | _ => ((s.activate pa).store pa bs).healed pa bs.length

end Sys2Proof.Machine
end

