-- ==== Sys2Proof/Machine/MemFam.lean ====
section
/-! DEFINITION. The access instructions (R252 to R258): LD, ST, LDS, STS, ATOM, CAS, ATOMS, FENCE, with the address
checks of R253, the store buffer of R254 and R264, and the D-mode rules of R269 and R271. -/

namespace Sys2Proof.Machine

/-! ### Addresses -/

/-- A lane's access that passed its checks. -/
structure Req where
  lane : Nat
  spot : Spot
  pa : Nat
  dev : Bool
  deriving DecidableEq, Repr

/-- What the checks of the lanes of an instruction found (R253, R234, R249). -/
structure Look where
  st : State
  ok : List Req
  hits : List Hit
  held : List (Nat × DWord × Nat)
  dead : Option (Dead × DWord)
  viol : Option (Bool × DWord × Nat)
  deriving DecidableEq, Repr

/-- The address of each selected lane, as its pass reads it (R103, R253). -/
def laneAddrs (t : Team) (now : Nat) (i : Instr) (g : Guard) (f : Team → Nat → DWord) : List (Nat × DWord) :=
  (passSlots t i g).flatMap fun wk =>
    let v := t.view (now + wk.2)
    ((wordLanes t.mask wk.1).filter (v.guardOn g)).map fun l => (l, f v l)

/-- One lane's address checked: alignment, then translation (R253). -/
def Look.lane (k : AccKind) (bytes : Nat) (a : Look) (x : Nat × DWord) : Look :=
  if x.2.toNat % bytes ≠ 0 then { a with hits := addHit a.hits x.1 0x05 (lo32 x.2) }
  else
    match a.st.xlate x.2 k bytes with
    | (s, .ok pa dev) => { a with st := s, ok := a.ok ++ [⟨x.1, s.spot x.2 bytes pa, pa, dev⟩] }
    | (s, .refused) => { a with st := s, hits := addHit a.hits x.1 0x08 (lo32 x.2) }
    | (s, .fault r) =>
      if (s.asid s.cur.d.asid).recov then { a with st := s, held := a.held ++ [(x.1, x.2, r)] }
      else { a with st := s, hits := addHit a.hits x.1 0x08 (lo32 x.2) }
    | (s, .violation w pa) => { a with st := s, viol := some (a.viol.getD (w, x.2, pa)) }
    | (s, .dead k) => { a with st := s, dead := some (a.dead.getD (k, x.2)) }

def State.look (s : State) (k : AccKind) (bytes : Nat) (lanes : List (Nat × DWord)) : Look :=
  lanes.foldl (Look.lane k bytes) ⟨s, [], [], [], none, none⟩

/-- Lanes held on recoverable faults: a page request for each distinct page of the instruction (R249). -/
def State.hold (s : State) (k : AccKind) (mk : Nat → DWord → Nat → HeldAccess) (xs : List (Nat × DWord × Nat)) : State :=
  let pages := distinct (xs.map fun x => x.2.1.toNat / 4096)
  pages.foldl (fun s pg =>
    let mine := xs.filter fun x => x.2.1.toNat / 4096 == pg
    match mine with
    | [] => s
    | x :: _ =>
      let tok := s.nextToken
      let s1 := s.pageRequest (s.funcOf s.cur.lid s.cur.d.part) s.cur.d.asid x.2.1 k x.2.2 (s.srcid s.cur) tok
      { s1 with nextToken := tok + 1
                holders := (tok, .team s1.cur.uid) :: s1.holders
                cur := { s1.cur with held := s1.cur.held ++ mine.map fun y => mk y.1 y.2.1 tok } }) s

/-- What lanes of instruction `ins` have stored, kept while others of it are held on a fault (R249, R253). -/
def State.lay (s : State) (ins : Nat) (xs : List (Nat × Spot)) : State :=
  { s with cur := { s.cur with laid := xs.map (fun x => ⟨ins, x.1, x.2.home, x.2.n⟩) ++ s.cur.laid } }

/-- Elements of one word of an ALD or AST: their accesses stand or fall together (R295). -/
def HeldAccess.mate (h x : HeldAccess) : Bool := h.whole && x.whole && h.ins == x.ins && h.lane == x.lane

/-- Elements that wait with a held one of their word (R295). -/
def State.holdRest (s : State) (xs : List HeldAccess) : State :=
  { s with cur := { s.cur with held := s.cur.held ++ xs.map fun h =>
      { h with token := ((s.cur.held.find? h.mate).map (·.token)).getD 0 } } }

/-- The tag cleared once its instruction is complete. -/
def Team.settleTag (t : Team) (n : Nat) : Team := if t.tagBusy n then t else t.clearTag n

/-- A D-mode access to a DEV page or to the host or peer window (R271): its REASON. -/
def dmodeReason (t : Team) (rs : List Req) : Option Word :=
  if !t.d.dmode then none
  else if rs.any fun r => r.dev then some 4
  else if rs.any fun r => remote r.pa then some 5
  else none

/-- A handler that holds a recoverable fault of its own waits until every fault of the team is answered (R249); for the
records it takes before it parks, a team's handler runs beside the faults held. -/
def State.parkHandler (new : Bool) (s : State) : State :=
  if new && s.cur.hmode then { s with cur := { s.cur with wait := .parked } } else s

/-- A plain access issued in a window (R144, R145): it waits for the outcome where a page is device-only or its checks stop
more than single lanes; else it is held with its traps, and a recoverable fault ends the window. -/
def State.shadowAccess (s : State) (w : Window) (i : Instr) (n : Nat) (lanes : List (Nat × DWord)) (lk : Look)
    (mk : Nat → DWord → Nat → HeldAccess) : State :=
  if lk.dead.isSome || lk.viol.isSome || (dmodeReason s.cur lk.ok).isSome || lk.ok.any (·.dev) then s.closeWindow w
  else
    let rs := lanes.filterMap fun x =>
      (lk.hits.find? fun h => h.mask.getLsbD x.1).map fun h => (x.1, resTrap h.cause (lo32 x.2))
    let on := lanes.filter fun x => !(rs.any fun r => r.1 == x.1)
    s.shadowed { w with
      passes := w.passes ++ [⟨w.item, 0, tagOf i, false, rs⟩]
      mem := w.mem ++ on.map fun x => (w.item, mk x.1 x.2 0)
      closed := w.closed || (w.redo.isNone && !lk.held.isEmpty) } i n (maskOf (rs.map (·.1)))

/-- A global access carried through its checks: violations and dead ASIDs first, D-mode reasons, then the lanes
that trap, the lanes held, and `put` for the lanes that go on. -/
def State.globalAccess (s : State) (i : Instr) (g : Guard) (k : AccKind) (bytes : Nat) (addr : Team → Nat → DWord)
    (mk : Nat → DWord → Nat → HeldAccess) (put : State → List Req → State) : State :=
  let n := s.passes i g
  let lanes := laneAddrs s.cur s.now i g addr
  let lk := s.look k bytes lanes
  match s.cur.window, lk.dead, lk.viol, dmodeReason s.cur lk.ok with
  | some w, _, _, _ => s.shadowAccess w i n lanes lk mk
  | none, some (k, va), _, _ => lk.st.killDead k va
  | none, none, some (true, _, pa), _ =>
    lk.st.isolateWalker s.cur.d.part (s.cur.core / 4) pa
  | none, none, some (false, _, _), _ => lk.st.isolateTeam
  | none, none, none, some r => s.trapAll i 0x15 r
  | none, none, none, none =>
    lk.st.withHits i lk.hits fun s =>
      let tag := (tagOf i).getD 0
      let s1 := put { s with cur := s.cur.allocate i } lk.ok
      let s2 := if lk.held.isEmpty then s1 else (s1.lay s1.cur.ins (lk.ok.map fun r => (r.lane, r.spot))).hold k mk lk.held
      State.parkHandler (!lk.held.isEmpty)
        (State.retire { s2 with cur := ({ s2.cur with ins := s2.cur.ins + 1 } : Team).settleTag tag } i n)

/-! ### Loads and atomics -/

def ldBytes : LdSize → Nat
  | .u8 | .s8 => 1
  | .u16 | .s16 => 2
  | .b32 => 4
  | .b64 => 8
  | .b128 => 16
def stBytes : StSize → Nat
  | .u8 => 1
  | .u16 => 2
  | .b32 => 4
  | .b64 => 8
  | .b128 => 16
def w64bytes (w : Bool) : Nat := if w then 8 else 4

/-- The registers a loaded value goes to (R254): count 63. -/
def loadRegs (size : LdSize) (x : Nat) : List Word :=
  match size with
  | .u8 | .u16 | .b32 => [BitVec.ofNat 32 x]
  | .s8 => [(BitVec.ofNat 8 x).signExtend 32]
  | .s16 => [(BitVec.ofNat 16 x).signExtend 32]
  | .b64 => [BitVec.ofNat 32 x, BitVec.ofNat 32 (x / 2 ^ 32)]
  | .b128 => (List.range 4).map fun k => BitVec.ofNat 32 (x / 2 ^ (32 * k))

/-- An old value of 32 or 64 bits as registers. -/
def oldRegs (w64 : Bool) (x : Nat) : List Word :=
  if w64 then [BitVec.ofNat 32 x, BitVec.ofNat 32 (x / 2 ^ 32)] else [BitVec.ofNat 32 x]

/-- Registers from `d` on written in one lane. -/
def laneRegs (d l : Nat) (xs : List Word) : List RegWrite := xs.zipIdx.map fun x => .v (d + x.2) [(l, ⟨x.1, 63⟩)]

/-- What an access writes when its response comes (R254, R255). -/
def Access.results (a : Access) : List RegWrite :=
  match a.op with
  | .load size => laneRegs a.d a.lane (loadRegs size a.x)
  | .atom _ w64 | .cas w64 => laneRegs a.d a.lane (oldRegs w64 a.x)
  | .tile _ _ => []

/-- The new value of an atomic (R256). -/
def atomNew (op : AOp) (w64 : Bool) (m b : Nat) : Nat :=
  let w := if w64 then 64 else 32
  match op with
  | .add => (m + b) % 2 ^ w
  | .min => if signed w m ≤ signed w b then m else b
  | .max => if signed w m ≤ signed w b then b else m
  | .umin => min m b
  | .umax => max m b
  | .and => m &&& b
  | .or => m ||| b
  | .xor => m ^^^ b
  | .exch => b
  | .fadd => (add32 .rne (BitVec.ofNat 32 m) (BitVec.ofNat 32 b)).1.toNat

/-- The youngest byte that the team's buffer holds for a place in memory, of stores older than `ins`: by either name of the
device's own memory (R234). -/
def Team.bufferByte (t : Team) (ins at_ : Nat) : Option Byte :=
  t.stores.reverse.findSome? fun e => if e.dev || decide (ins ≤ e.ins) then none else e.bytes.lookup at_

/-- The bytes of a load that the buffer holds entirely (R267). A store that is older and has not come into the buffer, for want
of room or held on a fault, may have younger ones. -/
def Team.forward (t : Team) (ins : Nat) (x : Spot) : Option Nat :=
  let bs := (List.range x.n).map fun k => t.bufferByte ins (x.home + k)
  if (t.waiting.any fun w => decide (w.ins < ins) && w.overlaps x.home x.n) || (t.holdsOlder ins fun h => h.kind == .store && h.near x.va.toNat x.n)
      || !(bs.all Option.isSome) then none
  else some (numOf (bs.filterMap id))

/-- The place of a held access in program order, and its lane. -/
def DHeld.key : DHeld → Nat × Nat
  | .store w => (w.ins, w.lane)
  | .atom ins _ lane _ _ _ _ _ _ => (ins, lane)
  | .sts ins lane _ _ => (ins, lane)
  | .atoms ins _ lane _ _ _ _ _ _ => (ins, lane)

/-- An access held until the commit (R269), set in its place: by instruction, then by lane (R270). -/
def holdIn (d : DHeld) : List DHeld → List DHeld
  | [] => [d]
  | x :: r =>
    if (DHeld.key d).1 < (DHeld.key x).1 ∨ (DHeld.key d).1 = (DHeld.key x).1 ∧ (DHeld.key d).2 < (DHeld.key x).2 then d :: x :: r
    else x :: holdIn d r
def State.holdBack (s : State) (d : DHeld) : State := { s with cur := { s.cur with dheld := holdIn d s.cur.dheld } }

/-- A byte as a D-mode team reads it at place `ins`: its own held stores over the committed state (R269). -/
def Team.heldByte (t : Team) (ins pa : Nat) : Option Byte :=
  t.dheld.reverse.findSome? fun d =>
    match d with
    | .store w => if w.ins < ins ∧ w.pa ≤ pa ∧ pa < w.pa + w.bytes.length then some (w.bytes.getD (pa - w.pa) 0) else none
    | .atom .. | .sts .. | .atoms .. => none
def State.dread (s : State) (ins pa n : Nat) : Nat :=
  numOf ((List.range n).map fun k => (s.cur.heldByte ins (pa + k)).getD (s.byte (pa + k)))

/-- A block killed by data that it read (R240). -/
def State.killData (s : State) (pa : Nat) : State :=
  s.killWith s.cur.bid ⟨0x20, 0x02, 1, BitVec.ofNat 64 pa, 0, s.srcid s.cur, true⟩

/-- An access of up to 8 bytes, or one of a device page: performed at issue from the buffer or in D-mode, else to be sent. -/
def State.oneAccess (s : State) (a : Access) : State :=
  let done := if s.cur.d.dmode then some (s.dread a.ins a.pa a.bytes)
    else if a.dev || a.isAtomic then none else s.cur.forward a.ins a.spot
  let a' : Access := match done with
    | some x => { a with seq := s.nextId, st := .performed, x := x }
    | none => { a with seq := s.nextId, st := .unsent }
  if s.cur.d.dmode && s.badData a.pa a.bytes then s.killData a.pa
  else { s with nextId := s.nextId + 1, cur := { s.cur with accesses := s.cur.accesses ++ [a'] } }

/-- The access of one lane: a load of 16 bytes is two of 8 (R252). -/
def State.newAccess (s : State) (a : Access) : State :=
  match a.op with
  | .load .b128 =>
    (s.oneAccess { a with op := .load .b64, bytes := 8, spot := { a.spot with n := 8 } }).oneAccess
      { a with op := .load .b64, bytes := 8, pa := a.pa + 8, d := a.d + 2
               spot := { a.spot with va := a.spot.va + 8, n := 8, home := a.spot.home + 8 } }
  | _ => s.oneAccess a

/-- D-mode forbids an order with TEAM or BLOCK scope (R271). -/
def dmodeOrder (t : Team) (o : MemOrd) (sc : Scope) : Bool :=
  t.d.dmode && o != .plain && (sc == .team || sc == .block)

/-- LD (R254). -/
def execLd (dly : BitVec 3) (g : Guard) (tag : Tag) (o : OpsDA) (size : LdSize) (ord : MemOrd) (scope : Scope)
    (off : BitVec 10) (s : State) : Host.Outcome State Fault Refusal :=
  let i := Instr.ld dly g tag o size ord scope off
  .next <| s.issue i g fun s =>
    if dmodeOrder s.cur ord scope then s.trapAll i 0x15 1
    else
      let n := ldBytes size
      let here := s.cur.at_
      s.globalAccess i g .load n (fun t l => t.rvPair o.a.toNat l + off.signExtend 64)
        (fun l va tok => ⟨tok, s.cur.ins, tagIndex tag, l, false, va, .load, some (.load size), o.d.toNat, 0, 0, [], n, ord, scope,
          .rlx, here, nextPt here i, 0, none⟩)
        fun s rs => rs.foldl (fun s r => s.newAccess ⟨0, s.cur.ins, tagIndex tag, r.lane, .load size, o.d.toNat, r.pa, n,
          r.spot, ord, scope, .rlx, r.dev, 0, 0, .unsent, 0⟩) s

/-- A lane's operand of 32 or 64 bits. -/
def Team.operand (t : Team) (w64 : Bool) (r : Reg) (l : Nat) : Nat :=
  if w64 then (t.rvPair r.toNat l).toNat else (t.rv r.toNat l).val.toNat

/-- ATOM and CAS (R255 to R257): one indivisible read and write for each lane. -/
def atomicAccess (i : Instr) (g : Guard) (tag : Tag) (op : AccOp) (w64 : Bool) (d a b c : Reg) (fail : FailOrd)
    (ord : MemOrd) (scope : Scope) (off : BitVec 10) (s : State) : State :=
  s.issue i g fun s =>
    if dmodeOrder s.cur ord scope then s.trapAll i 0x15 1
    else
      let n := w64bytes w64
      let here := s.cur.at_
      let vb := fun l => (s.viewOf i g l).operand w64 b l
      let vc := fun l => (s.viewOf i g l).operand w64 c l
      s.globalAccess i g .atomic n (fun t l => t.rvPair a.toNat l + off.signExtend 64)
        (fun l va tok => ⟨tok, s.cur.ins, tagIndex tag, l, false, va, .atomic, some op, d.toNat, vb l, vc l, [], n, ord, scope,
          fail, here, nextPt here i, 0, none⟩)
        fun s rs => rs.foldl (fun s r =>
          if s.cur.d.dmode then
            s.holdBack (.atom s.cur.ins (tagIndex tag) r.lane op d.toNat r.spot r.pa (vb r.lane) (vc r.lane))
          else s.newAccess ⟨0, s.cur.ins, tagIndex tag, r.lane, op, d.toNat, r.pa, n, r.spot, ord, scope, fail, r.dev,
            vb r.lane, vc r.lane, .unsent, 0⟩) s

def execAtom (dly : BitVec 3) (g : Guard) (tag : Tag) (d a b : Reg) (op : AOp) (w64 : Bool) (ord : MemOrd)
    (scope : Scope) (off : BitVec 10) (s : State) : Host.Outcome State Fault Refusal :=
  .next (atomicAccess (.atom dly g tag d a b op w64 ord scope off) g tag (.atom op w64) w64 d a b 0 .rlx ord scope off s)

def execCas (dly : BitVec 3) (g : Guard) (tag : Tag) (d a b c : Reg) (w64 : Bool) (fail : FailOrd) (ord : MemOrd)
    (scope : Scope) (off : BitVec 10) (s : State) : Host.Outcome State Fault Refusal :=
  .next (atomicAccess (.cas dly g tag d a b c w64 fail ord scope off) g tag (.cas w64) w64 d a b c fail ord scope off s)

/-! ### Stores (R254, R264) -/

/-- Whether an order gives an access a role (R263). -/
def MemOrd.role (o : MemOrd) : Bool := MemOrd.releases o || MemOrd.acquires o

/-- The spots of an instruction's stores in the unit of an address: their bytes go to one entry (R264). -/
def unitSpots (all : List (Nat × Spot)) (pa : Nat) : List Spot := (all.filter fun x => x.1 / 256 == pa / 256).map (·.2)

/-- Whether the bytes that an instruction stores to a unit may join an entry (R264): neither holds a role, no younger entry holds
a release role or overlaps the bytes; a fence mark younger than the entry keeps them apart (R269). Nor does a store join while
an older access that R265 makes it wait for is not performed, or held on a fault (log 87). -/
def joinable (t : Team) (ins : Nat) (ord : MemOrd) (xs : List Spot) (e : StoreEntry) (younger : List StoreEntry) : Bool :=
  !MemOrd.role e.ord && !MemOrd.role ord
    && !(younger.any fun y => MemOrd.releases y.ord || xs.any fun x => y.overlaps x.home x.n)
    && !(t.fences.any fun f => decide (e.ins < f.1))
    && acquireClear t ins && fullClear t ins && !(xs.any fun x => pendingOverlap t ins x.home x.n)
    && !(t.held.any fun h => decide (h.ins < ins))

/-- The position of the entry that a store's bytes join: the one that holds bytes of the same instruction for the unit, else the
youngest unsent one of the unit that is older, where R264 allows it for all that the instruction stores there. A store joins none
past an older one that waits for room. -/
def joinAt (t : Team) (ins : Nat) (ord : MemOrd) (dev : Bool) (unit : Nat) (xs : List Spot) : Option Nat :=
  let es := t.stores.zipIdx.filter fun e => e.1.unit == unit && e.1.st == .unsent && !e.1.dev && !dev
  match (es.filter fun e => e.1.ins == ins || e.1.last == ins).getLast? with
  | some e => some e.2
  | none =>
    if t.waiting.any fun w => w.ins != ins then none
    else
      match (es.filter fun e => decide (e.1.ins < ins)).getLast? with
      | some e => if joinable t ins ord xs e.1 (t.stores.drop (e.2 + 1)) then some e.2 else none
      | none => none

/-- Bytes laid over a cell list. -/
def putBytes (cells : List Host.Cell) (at_ : Nat) (bs : List Byte) : List Host.Cell :=
  let new := bs.zipIdx.map fun b => (at_ + b.2, b.1)
  (cells.filter fun c => !decide (at_ ≤ c.1 ∧ c.1 < at_ + bs.length)) ++ new

/-- An entry set in its place in program order (R260): behind those of its own or an older instruction. -/
def entryIn (e : StoreEntry) : List StoreEntry → List StoreEntry
  | [] => [e]
  | x :: r => if e.ins < x.ins then e :: x :: r else x :: entryIn e r

/-- The entries behind place `k` without what the same instruction has put on the bytes of a higher lane's store: two units may name
one place in memory (R234, R253). -/
def dropBehind (k : Nat) (w : WaitingStore) (es : List StoreEntry) : List StoreEntry :=
  es.zipIdx.map fun e =>
    if k < e.2 && e.1.last == w.ins && e.1.st == .unsent then { e.1 with bytes := e.1.bytes.filter fun c => !w.overlaps c.1 1 } else e.1

/-- One lane's bytes put in the buffer, as entry `seq` where they open one; none where it is full (R254, R264). `all` are the
addresses and spots of its instruction's stores. -/
def Team.bufferPut (t : Team) (seq cap : Nat) (all : List (Nat × Spot)) (w : WaitingStore) : Option Team :=
  match joinAt t w.ins w.ord w.dev (w.pa / 256) (unitSpots all w.pa) with
  | some k =>
    some { t with stores := dropBehind k w (upd t.stores k fun e =>
      { e with bytes := putBytes e.bytes w.spot.home w.bytes, spots := e.spots ++ [w.spot], last := max e.last w.ins }) }
  | none =>
    if t.stores.length < cap && t.waiting.isEmpty then
      let e : StoreEntry :=
        ⟨seq, w.ins, w.ins, w.pa / 256, [w.spot], putBytes [] w.spot.home w.bytes, w.ord, w.scope, w.dev, .unsent, 0⟩
      some { t with stores := entryIn e t.stores }
    else none

/-- One lane's bytes placed in the buffer, or left waiting where it is full (R254, R264). -/
def State.placeStore (s : State) (all : List (Nat × Spot)) (w : WaitingStore) : State :=
  match s.cur.bufferPut s.nextId Config.maxStoreBuffer all w with
  | some t => { s with nextId := s.nextId + 1, cur := t }
  | none => { s with cur := { s.cur with waiting := s.cur.waiting ++ [w] } }

/-- The addresses and spots of the stores of one instruction among some. -/
def spotsOf (ws : List WaitingStore) (ins : Nat) : List (Nat × Spot) := (ws.filter fun w => w.ins == ins).map fun w => (w.pa, w.spot)

/-- The stores that wait, tried again in order once an entry has left the buffer. -/
def State.placeWaiting (s : State) : State :=
  let ws := s.cur.waiting
  let s1 := ws.foldl (fun s w => s.placeStore (spotsOf ws w.ins) w) { s with cur := { s.cur with waiting := [] } }
  { s1 with cur := (distinct (ws.map (·.tag))).foldl Team.settleTag s1.cur }

/-- The entries that a D-mode team's held stores make up (R264, R268), in a buffer that holds them all. -/
def Team.heldEntries (t : Team) : Nat :=
  let ws := t.dheld.filterMap fun d => match d with
    | .store w => some w
    | .atom .. | .sts .. | .atoms .. => none
  (t.dheld.foldl (fun (u : Team) d =>
    match d with
    | .store w => (u.bufferPut 0 (Config.maxStoreBuffer * 1024) (spotsOf ws w.ins) w).getD u
    | .atom .. | .sts .. | .atoms .. => u) { t with stores := [], waiting := [], accesses := [], fences := [], held := [] }).stores.length

/-- The bytes of a lane's store that no higher lane of its instruction has put on their way before it: a lane held on a fault comes
after the others, and the highest LANE wins (R249, R253, R264). -/
def Team.uncovered (t : Team) (w : WaitingStore) : List WaitingStore :=
  let under := fun (a : Nat) =>
    t.laid.any fun x => x.ins == w.ins && decide (w.lane < x.lane ∧ x.home ≤ a ∧ a < x.home + x.n)
  if (List.range w.bytes.length).any fun k => under (w.spot.home + k) then
    (w.bytes.zipIdx.filter fun b => !under (w.spot.home + b.2)).map fun b =>
      { w with
        pa := w.pa + b.2, bytes := [b.1]
        spot := { w.spot with va := w.spot.va + BitVec.ofNat 64 b.2, n := 1, home := w.spot.home + b.2 } }
  else [w]

/-- Bytes of a lane on their way: held in D-mode (R269), where a full buffer ends the quantum (R268); else into the buffer. -/
def State.putStore (all : List (Nat × Spot)) (s : State) (w : WaitingStore) : State :=
  if s.cur.d.dmode then
    let s1 := s.holdBack (.store w)
    { s1 with cur := { s1.cur with qdone := s1.cur.qdone || decide (Config.maxStoreBuffer ≤ s1.cur.heldEntries) } }
  else s.placeStore all w

/-- A held lane's store on its way, over nothing that a higher lane of the instruction has stored. -/
def State.storeLane (s : State) (all : List (Nat × Spot)) (w : WaitingStore) : State :=
  (s.cur.uncovered w).foldl (State.putStore all) s

/-- The lanes' stores of one instruction on their way. -/
def State.storeLanes (s : State) (ws : List WaitingStore) : State :=
  ws.foldl (fun s w => s.putStore (ws.map fun x => (x.pa, x.spot)) w) s

/-- The data of a store: `n` bytes of the registers from `b` on. -/
def Team.storeData (t : Team) (b n l : Nat) : List Byte :=
  ((List.range (ceilDiv n 4)).flatMap fun k => bytesOf 4 (t.rv (b + k) l).val.toNat).take n

/-- ST (R254, R264). -/
def execSt (dly : BitVec 3) (g : Guard) (tag : Tag) (a b : Reg) (size : StSize) (ord : MemOrd) (scope : Scope)
    (off : BitVec 10) (s : State) : Host.Outcome State Fault Refusal :=
  let i := Instr.st dly g tag a b size ord scope off
  .next <| s.issue i g fun s =>
    if dmodeOrder s.cur ord scope then s.trapAll i 0x15 1
    else
      let n := stBytes size
      let here := s.cur.at_
      let data := fun l => (s.viewOf i g l).storeData b.toNat n l
      s.globalAccess i g .store n (fun t l => t.rvPair a.toNat l + off.signExtend 64)
        (fun l va tok => ⟨tok, s.cur.ins, tagIndex tag, l, false, va, .store, none, 0, 0, 0, data l, n, ord, scope, .rlx, here,
          nextPt here i, 0, none⟩)
        fun s rs => s.storeLanes (rs.map fun r => ⟨s.cur.ins, tagIndex tag, r.lane, r.spot, r.pa, data r.lane, ord, scope, r.dev⟩)

/-- A list in an order drawn from a free value: one element needs no draw (R232). -/
def drawOrder {α : Type} (free : Nat) : Nat → List α → List α
  | 0, l => l
  | _, [] => []
  | _, [a] => [a]
  | n + 1, l =>
    let k := Config.laneChoice (free + n) % l.length
    match l.drop k with
    | a :: r => a :: drawOrder free n (l.take k ++ r)
    | [] => l

/-! ### Scratchpad (R237 to R239, R270) -/

/-- The offset of a scratchpad access, 32 bits wide (R253). -/
def spadAddr (t : Team) (a : Reg) (off : BitVec 15) (l : Nat) : Nat :=
  ((t.rv a.toNat l).val + off.signExtend 32).toNat

/-- The largest number of a pass's lanes that touch one of the 32 banks (R238). -/
def bankDepth (n : Nat) (offs : List Nat) : Nat :=
  let banks := offs.map fun o => (distinct ((List.range n).map fun k => (o + k) / 8 % 32))
  ((List.range 32).map fun b => (banks.filter fun bs => bs.contains b).length).foldl max 0

/-- Cycles until a pass is complete (R238). -/
def spadCycles (atomic mate : Bool) (k : Nat) : Nat :=
  (if atomic then 24 else 20) + 4 * (k - 1) + (if mate then 8 else 0)

/-- A scratchpad lane checked: alignment, then bounds (R253, R237). -/
def spadTrap (d : Desc) (n o : Nat) : Option (Nat × Word) :=
  if o % n ≠ 0 then some (0x05, BitVec.ofNat 32 o)
  else if d.scratch < o + n then some (0x06, BitVec.ofNat 32 o)
  else none

/-- The passes of a scratchpad instruction: number, and the lanes with their offsets. -/
def spadPasses (t : Team) (now : Nat) (i : Instr) (g : Guard) (a : Reg) (off : BitVec 15) : List (Nat × List (Nat × Nat)) :=
  (passSlots t i g).map fun wk =>
    let v := t.view (now + wk.2)
    (wk.2, ((wordLanes t.mask wk.1).filter (v.guardOn g)).map fun l => (l, spadAddr v a off l))

/-- A scratchpad byte as the team reads it: in D-mode, its held STS over the committed state (R269). -/
def State.spadByte (s : State) (o : Nat) : Byte :=
  let own := s.cur.dheld.reverse.findSome? fun d =>
    match d with
    | .sts _ _ a bs => if a ≤ o ∧ o < a + bs.length then some (bs.getD (o - a) 0) else none
    | .store .. | .atom .. | .atoms .. => none
  own.getD (memRead s.blk.spad o)
def State.spadNum (s : State) (o n : Nat) : Nat := numOf ((List.range n).map fun k => s.spadByte (o + k))

/-- Whether a read of the block's scratchpad meets an uncorrectable error (R240). -/
def Block.badSpad (b : Block) (o n : Nat) : Bool := b.spadBad.any fun x => decide (o ≤ x ∧ x < o + n)

/-- A scratchpad instruction (R238, R253): it waits while an older acquire is unperformed, or, for a release, until
its step holds (R263, R270); its lanes take effect at issue, its results and tag come after the bank cycles. A pass in which no
lane accesses the scratchpad takes none: with no other, the tag clears at issue (log 112). -/
def State.spadAccess (s : State) (i : Instr) (g : Guard) (tag : Tag) (a : Reg) (off : BitVec 15) (n : Nat) (atomic store : Bool)
    (ord : MemOrd) (shadow : State → Nat → Option (LdSize × Nat) × List Byte)
    (lane : State → Nat → Nat → State × List RegWrite) : State :=
  s.issue i g fun s =>
    if !acquireClear s.cur s.cur.ins then s.stall (.scratch ord)
    else if MemOrd.releases ord && !s.cur.d.dmode && !releaseStep s.cur .block s.cur.ins then s.stall (.release .block)
    else
      let ps := spadPasses s.cur s.now i g a off
      let hits := (ps.flatMap (·.2)).foldl (fun hs lo =>
        match spadTrap s.cur.d n lo.2 with
        | some (c, d) => addHit hs lo.1 c d
        | none => hs) []
      let bad := (atomic || !store) && (ps.flatMap (·.2)).any fun lo => (spadTrap s.cur.d n lo.2).isNone && s.blk.badSpad lo.2 n
      match s.cur.window, bad with
      | some w, true => s.closeWindow w
      | none, true => s.killWord
      | some w, false =>
        let rs := (ps.flatMap (·.2)).filterMap fun lo => (spadTrap s.cur.d n lo.2).map fun c => (lo.1, resTrap c.1 c.2)
        let on := ps.flatMap fun p => (p.2.filter fun lo => (spadTrap s.cur.d n lo.2).isNone).map fun lo => (p.1, lo)
        s.shadowed { w with
          passes := w.passes ++ [⟨w.item, 0, tagOf i, false, rs⟩]
          spad := w.spad ++ on.map fun plo =>
            let x := shadow s plo.2.1
            ⟨w.item, s.now + plo.1, tagIndex tag, plo.2.1, plo.2.2, x.1, x.2, true⟩ } i ps.length (hitMask hits)
      | none, false =>
        s.withHits i hits fun s =>
          let all := ps.flatMap fun p => (p.2.filter fun lo => (spadTrap s.cur.d n lo.2).isNone).map fun lo => (p.1, lo)
          let s0 : State := { s with
            cur := s.cur.allocate i
            free := if atomic then s.free + all.length else s.free }
          let order := if atomic && !s.cur.d.dmode then drawOrder s.free all.length all else all
          let r := order.foldl (fun (x : State × List (Nat × List RegWrite)) y =>
            let z := lane x.1 y.2.1 y.2.2
            (z.1, x.2 ++ [(y.1, z.2)])) (s0, [])
          let passes := ps.filterMap fun p =>
            let offs := (all.filter fun y => y.1 == p.1).map (·.2.2)
            if offs.isEmpty then none
            else
              let due := s.now + p.1 + spadCycles atomic (s.cur.core != s.blk.home) (bankDepth n offs)
              some (⟨tagIndex tag, s.cur.ins, due, ord, store, (r.2.filter fun y => y.1 == p.1).flatMap (·.2)⟩ : SpadPass)
          let s1 : State := { r.1 with cur := { r.1.cur with spad := r.1.cur.spad ++ passes, ins := r.1.cur.ins + 1 } }
          State.retire { s1 with cur := s1.cur.settleTag (tagIndex tag) } i ps.length

/-- LDS (R254). -/
def execLds (dly : BitVec 3) (g : Guard) (tag : Tag) (o : OpsDA) (size : LdSize) (off : BitVec 15) (s : State) :
    Host.Outcome State Fault Refusal :=
  .next <| s.spadAccess (.lds dly g tag o size off) g tag o.a off (ldBytes size) false false .plain
    (fun _ _ => (some (size, o.d.toNat), [])) fun s l a =>
    (s, laneRegs o.d.toNat l (loadRegs size (s.spadNum a (ldBytes size))))

/-- Bytes written to the block's scratchpad. -/
def State.spadPut (s : State) (o : Nat) (bs : List Byte) : State :=
  { s with blk := { s.blk with
      spad := memWriteN s.blk.spad o bs
      spadBad := s.blk.spadBad.filter fun b => decide (b < o ∨ o + bs.length ≤ b) } }

/-- One lane of an STS: held in D-mode (R269), else written. -/
def State.stsLane (s : State) (l o : Nat) (bs : List Byte) : State :=
  if s.cur.d.dmode then s.holdBack (.sts s.cur.ins l o bs) else s.spadPut o bs

/-- STS (R254): lanes in ascending LANE, so the highest keeps a byte that several write (R253). -/
def execSts (dly : BitVec 3) (g : Guard) (tag : Tag) (a b : Reg) (size : StSize) (off : BitVec 15) (s : State) :
    Host.Outcome State Fault Refusal :=
  let i := Instr.sts dly g tag a b size off
  let s0 := s.settle
  let data := fun (s : State) (l : Nat) => (s.viewOf i g l).storeData b.toNat (stBytes size) l
  .next <| s.spadAccess i g tag a off (stBytes size) false true .plain (fun s l => (none, data s l)) fun s l o =>
    (s.stsLane l o (data s0 l), [])

/-- A new value of an ATOMS lane: `none` is CAS, whose compare value is v_D (R256, R257). -/
def atomsNew (op : Option AOp) (w64 : Bool) (m b c : Nat) : Nat :=
  match op with
  | some o => atomNew o w64 m b
  | none => if m = c then b else m

/-- ATOMS (R255, R256, R232): the lanes of an instruction take effect one at a time, in a free order. R232 says that the final value
and the set of old values are the same for every order; of EXCH, CAS, FADD and unequal operands that cannot hold under R253 and R256,
and they follow the order drawn (log 4). -/
def execAtoms (dly : BitVec 3) (g : Guard) (tag : Tag) (d a b : Reg) (op : Option AOp) (w64 : Bool) (ord : MemOrd)
    (off : BitVec 15) (s : State) : Host.Outcome State Fault Refusal :=
  let i := Instr.atoms dly g tag d a b op w64 ord off
  let n := w64bytes w64
  let s0 := s.settle
  .next <| s.spadAccess i g tag a off n true true ord (fun _ _ => (none, [])) fun s l o =>
      let v := s0.viewOf i g l
      let vb := v.operand w64 b l
      let vc := v.operand w64 d l
      if s.cur.d.dmode then
        (s.holdBack (.atoms s.cur.ins (tagIndex tag) l op w64 d.toNat o vb vc), [])
      else
        let m := s.spadNum o n
        (s.spadPut o (bytesOf n (atomsNew op w64 m vb vc)), laneRegs d.toNat l (oldRegs w64 m))

/-- FENCE (R258, R269): nothing in D-mode (R268); else the team waits for the step of its order, and a release
marks the buffer. -/
def execFence (dly : BitVec 3) (ord : MemOrd) (scope : Scope) (s : State) : Host.Outcome State Fault Refusal :=
  let i := Instr.fence dly ord scope
  .next <| s.issue i .pt fun s =>
    if s.cur.d.dmode then s.retire i 1
    else if fenceReady s.cur ord scope then
      let t := if (ord == .rel || ord == .ar) && scope != .team then
          { s.cur with fences := (s.cur.ins, scope) :: s.cur.fences.filter fun f => !(storesDone s.cur f.2 f.1 && scratchDone s.cur f.1) }
        else s.cur
      State.retire { s with cur := t } i 1
    else (s.begin i 1).stall (.fence ord scope s.cur.ins)

end Sys2Proof.Machine
end

