-- ==== Sys2Proof/Machine/Matrix.lean ====
section
/-! DEFINITION. The matrix unit (R277 to R296): tiles and their windows, MMA and MMAS, AZERO, ALD, AST, AMOV and QTILE.
Effects are made at issue, in the team's program order (R279); the unit's queue carries the busy cycles (R288). -/

namespace Sys2Proof.Machine

/-! ### Tiles (R277, R278) -/

def Elem.fresh (int : Bool) : Elem := ⟨0, if int then 63 else 24, 0, none, none, .none, 0⟩
def Tile.fresh (no : Nat) (int : Bool) : Tile := ⟨no, int, List.replicate 256 (Elem.fresh int)⟩

/-- The tile of a name in a word, none when it has never been bound; and as it reads. -/
def Team.bound (t : Team) (d w : Nat) : Option Tile := ((t.tiles.getD d []).getD w none)
def Team.tile (t : Team) (d w : Nat) : Tile := (t.bound d w).getD (Tile.fresh 0 false)
def Team.setTile (t : Team) (d w : Nat) (x : Tile) : Team :=
  { t with
    tiles := upd t.tiles d fun ws => (ws ++ List.replicate (w + 1 - ws.length) none).set w (some x)
    bad := t.bad.filter fun e => !(CoreWord.hit e .tile d [w]) }

/-! ### The window (R284, R285) -/

/-- A term of a k-step: its value, its floor where it is finite and nonzero, the flags it raises. -/
structure MTerm where
  val : FVal
  floor : Int
  flags : Word
  deriving DecidableEq, Repr

def Special.val : Special → Option FVal
  | .none => Option.none
  | .inf n => some (.inf n)
  | .nan => some (.nan false)
def Special.of : FVal → Special
  | .nan _ => .nan
  | .inf n => .inf n
  | .fin _ _ _ => .none

/-- `combine` of R284: opposite infinities give NaN with IV. -/
def Special.combine (a : Special) (x : FVal) : Special × Word :=
  match a.val with
  | Option.none => (Special.of x, 0)
  | some v =>
    let r := FVal.add .rne v x
    (Special.of r.1, r.2)

def FVal.finNonzero : FVal → Bool
  | .fin _ m _ => m != 0
  | _ => false
def FVal.expo : FVal → Int
  | .fin _ m e => expOf m e
  | _ => 0

/-- trunc(p / 2^u). -/
def truncAt (u : Int) : FVal → Int
  | .fin neg m e =>
    let x : Int := if u ≤ e then (m * pow2 (e - u) : Nat) else (m / pow2 (u - e) : Nat)
    if neg then -x else x
  | _ => 0

/-- The window brought back below 2^55, its exponent raised. -/
def fitWindow : Nat → Int → Int → Int × Int
  | 0, t, x => (t, x)
  | n + 1, t, x => if 2 ^ 55 ≤ t ∨ t < -2 ^ 55 then fitWindow n (t.tdiv 2) (x + 1) else (t, x)

/-- The greatest of some exponents. -/
def maxInt (l : List Int) : Option Int := l.foldl (fun m x => maxFloor m (some x)) none

/-- `promote` of R284 with the count of R285. The 0 that an empty window adds is +0 (log 119). -/
def Elem.promote (x : Elem) : Elem × Word :=
  if x.nw = 0 then (x, 0)
  else
    let v := fmt32.decode x.val.toNat
    let (t, f1) := match x.sw.val, x.xw with
      | some s, _ => FVal.add .rne v s
      | none, some e => FVal.add .rne v (.fin (decide (x.win < 0)) x.win.natAbs (e - 46))
      | none, none => FVal.add .rne v (.fin false 0 0)
    let (r, f2) := fmt32.round .rne false t
    let rv := fmt32.decode r
    let fl := maxFloor (if v.finNonzero then some (v.expo - x.cnt.toNat) else none) x.fw
    let c := match rv, fl with
      | .fin _ m e, some y => (expOf m e - y).toNat
      | _, _ => x.cnt.toNat
    (⟨BitVec.ofNat 32 r, overrideCount fmt32 rv (if x.fw = none then some x.cnt.toNat else none) c, 0, none, none, .none, 0⟩,
      f1 ||| f2 ||| snanFlag [v])

/-- `add_step` of R284. -/
def Elem.step (x : Elem) (terms : List MTerm) (p : Nat) : Elem × Word :=
  let f0 : Word := terms.foldl (fun (f : Word) t => f ||| t.flags) 0
  let special := terms.filter fun t => !(t.val.finNonzero || t.val.isZero)
  let (sw, f1) := special.foldl (fun (a : Special × Word) t =>
    let r := a.1.combine t.val
    (r.1, a.2 ||| r.2)) (x.sw, (0 : Word))
  let nz := terms.filter fun t => t.val.finNonzero
  let y : Elem :=
    match maxFloor x.xw (maxInt (nz.map fun t => t.val.expo)), nz with
    | some e, _ :: _ =>
      let win := match x.xw with
        | some e0 => x.win.tdiv ((2 ^ (e - e0).toNat : Nat) : Int)
        | none => x.win
      let t := nz.foldl (fun (a : Int) t => a + truncAt (e - 46) t.val) win
      let (w, e') := fitWindow 16 t e
      { x with win := w, xw := some e', fw := maxFloor x.fw (maxInt (nz.map (·.floor))), sw := sw, nw := x.nw + 1 }
    | _, _ => { x with sw := sw, nw := x.nw + 1 }
  if p ≤ y.nw then
    let r := y.promote
    (r.1, r.2 ||| f0 ||| f1)
  else (y, f0 ||| f1)

/-- Every element promoted, as AST, AMOV and QTILE do first; an INT32 tile has no window. -/
def Tile.promote (t : Tile) : Tile × Word :=
  if t.int then (t, 0)
  else
    let rs := t.elems.map Elem.promote
    ({ t with elems := rs.map (·.1) }, rs.foldl (fun (f : Word) r => f ||| r.2) 0)

/-! ### Fragments, scales and products (R280, R281, R283, R287) -/

/-- Row `i` of a dense fragment of `nq` registers in word `w`, in order of k; a position without a lane is zero. -/
def fragRow (t : Team) (r w width nq i : Nat) : List Nat :=
  (List.range 2).flatMap fun h => (List.range nq).flatMap fun q => (List.range (32 / width)).map fun e =>
    elemOf width e (t.rv (r + q) (32 * w + 16 * h + i)).val.toNat

/-- Row `i` of a sparse fragment: each stored value with its group's first k and its position in the group. -/
def sparseRow (t : Team) (r m w width n i : Nat) : List (Nat × Nat × Nat) :=
  let g := 32 / width
  (List.range 2).flatMap fun h => (List.range (n * g / 2)).map fun j =>
    let l := 32 * w + 16 * h + i
    let x := elemOf width (j % g) (t.rv (r + j / g) l).val.toNat
    let p := bitsOf (t.rv (m + j / 6) l).val.toNat (5 * (j % 6) + 4) (5 * (j % 6))
    (24 * (h * g / 2 + j / n), p, x)

/-- An E6M2 scale that is neither zero nor NaN (R168). -/
def e6m2 (b : Nat) : FVal := .fin false (4 + b % 4) ((b / 4 : Nat) - 33)

/-- The scales of one word: A's by row and block, B's by column and block, none where not applied; block length. -/
structure Scales where
  a : Option (List (List Nat))
  b : Option (List (List Nat))
  len : Nat
  deriving DecidableEq, Repr

/-- The descriptor of R286. -/
structure BlockDesc where
  len : Nat
  asc : Bool
  bsc : Bool
  soff : Nat
  deriving DecidableEq, Repr

/-- A format's code in FN (R111). -/
def MFmt.num (f : MFmt) : Nat :=
  match f with
  | .bf16 => 0
  | .fp16 => 1
  | .f8a => 2
  | .f8b => 3
  | .int8 => 4
  | .f4 => 5
  | .int4 => 6

/-- A descriptor that agrees with the instruction, or none (R290). -/
def readDesc (af bf : MFmt) (x : Word) : Option BlockDesc :=
  let n := x.toNat
  if MFmt.isInt af || bitsOf n 31 29 != MFmt.num af || bitsOf n 28 26 != MFmt.num bf || bitsOf n 21 20 != 0 then none
  else some ⟨8 * 2 ^ bitsOf n 25 24, x.getLsbD 23, x.getLsbD 22, bitsOf n 19 0⟩

/-- Offsets of a word's scale bytes: A's rows or B's columns (R287). -/
def scaleOffs (d : BlockDesc) (k w side r : Nat) : List Nat :=
  let nb := ceilDiv k d.len
  (List.range nb).map fun b => d.soff + 32 * nb * w + 16 * nb * side + nb * r + b

/-- The offsets that an instruction reads for a word, and their bytes. -/
def scaleReads (d : BlockDesc) (k w : Nat) : List Nat :=
  (if d.asc then (List.range 16).flatMap (scaleOffs d k w 0) else [])
    ++ if d.bsc then (List.range 16).flatMap (scaleOffs d k w 1) else []
def State.scales (s : State) (d : BlockDesc) (k w : Nat) : Scales :=
  let side := fun (n : Nat) => (List.range 16).map fun r => (scaleOffs d k w n r).map fun o => (s.spadByte o).toNat
  ⟨if d.asc then some (side 0) else none, if d.bsc then some (side 1) else none, d.len⟩

/-- The scale of a row or column for a term at k. -/
def scaleAt (t : Option (List (List Nat))) (len r k : Nat) : Option Nat := t.map fun x => (x.getD r []).getD (k / len) 0

/-- A term (R283, R287): 0xFF makes it NaN with IV, else 0x00 makes it +0, else the exact scaled product. -/
def mterm (fa fb : Fmt) (x y : Nat) (sa sb : Option Nat) : MTerm :=
  if sa = some 0xFF ∨ sb = some 0xFF then ⟨.nan false, 0, flagIV⟩
  else if sa = some 0 ∨ sb = some 0 then ⟨.fin false 0 0, 0, 0⟩
  else
    let a := fa.elem x
    let b := fb.elem y
    let (p, fl) := FVal.mul a.val b.val
    let scale := fun (v : FVal) (s : Option Nat) => match s with
      | some k => (FVal.mul v (e6m2 k)).1
      | none => v
    let q := scale (scale p sa) sb
    ⟨q, q.expo - min a.cnt b.cnt, fl ||| snanFlag [a.val, b.val]⟩

def MFmt.fmt : MFmt → Fmt
  | .bf16 | .int8 | .int4 => fmtB16
  | .fp16 => fmt16
  | .f8a => fmtF8a
  | .f8b => fmtF8b
  | .f4 => fmtF4

/-- One element of a product: `row` gives the pairs (k, a) of its row, `col` the column's elements by k. -/
def mmaElem (int : Bool) (af bf : MFmt) (p : Nat) (sc : Scales) (i j : Nat) (row : List (Nat × Nat)) (col : List Nat)
    (x : Elem) : Elem × Word :=
  if int then
    let w := MFmt.width af
    ({ x with val := x.val + BitVec.ofInt 32 ((row.map fun ka => signed w ka.2 * signed w (col.getD ka.1 0)).foldl (· + ·) 0) }, 0)
  else
    x.step (row.map fun ka => mterm (MFmt.fmt af) (MFmt.fmt bf) ka.2 (col.getD ka.1 0)
      (scaleAt sc.a sc.len i ka.1) (scaleAt sc.b sc.len j ka.1)) p

/-- A tile after one product. -/
def mmaTile (af bf : MFmt) (p : Nat) (sc : Scales) (rows : List (List (Nat × Nat))) (cols : List (List Nat)) (t : Tile) :
    Tile × Word :=
  let rs := t.elems.mapIdx fun n x =>
    mmaElem t.int af bf p sc (n / 16) (n % 16) (rows.getD (n / 16) []) (cols.getD (n % 16) []) x
  ({ t with elems := rs.map (·.1) }, rs.foldl (fun (f : Word) r => f ||| r.2) 0)

/-! ### The unit's queue and the physical tiles (R278, R279, R288) -/

/-- Whether the loads of an ALD into a name are still to come, or held on a recoverable fault. -/
def Team.filling (t : Team) (d : Nat) : Bool :=
  let fills := fun (o : AccOp) => match o with
    | .tile _ _ => true
    | .load _ | .atom _ _ | .cas _ => false
  (t.accesses.any fun a => a.d == d && fills a.op) || t.held.any fun h => h.d == d && h.op.any fills && h.failed.isNone

/-- Whether an AST of a name is held on a recoverable fault: it has yet to read the tile (R295). One that failed, and waits for a
record, has no effect any more (R204). -/
def Team.storing (t : Team) (d : Nat) : Bool := t.held.any fun h => h.whole && h.op.isNone && h.d == d && h.failed.isNone

/-- Whether accesses of an instruction are neither performed nor dropped. -/
def Team.pendingIns (t : Team) (n : Nat) : Bool :=
  let has := fun (e : StoreEntry) => decide (e.ins ≤ n ∧ n ≤ e.last)
  t.stores.any has || t.flight.any has || (t.waiting.any fun w => w.ins == n) || (t.held.any fun h => h.ins == n)
    || t.dheld.any fun d => (DHeld.key d).1 == n

/-- What an instruction does with the tiles of a name: the words, whether it binds them anew, and whether it binds those
that have never been bound (R278). -/
structure TileUse where
  name : Nat
  words : List Nat
  fresh : Bool
  make : Bool
  deriving DecidableEq, Repr

/-- The numbers of the tiles that a use meets or binds, by word. -/
def State.tileNos (s : State) (t : Team) (u : TileUse) : List (Nat × Nat) :=
  u.words.zipIdx.filterMap fun w =>
    match t.bound u.name w.1 with
    | some x => some (w.1, if u.fresh then s.nextId + w.2 else x.no)
    | none => if u.fresh || u.make then some (w.1, s.nextId + w.2) else none

/-- Whether a physical tile is bound to a name of a resident team; and whether an instruction is pending on it (R278). -/
def State.tileBound (s : State) (p : PhysTile) : Bool :=
  s.allTeams.any fun t => t.uid == p.uid && t.st != .ended && (t.bound p.name p.word).any fun x => x.no == p.no
def State.tileBusy (s : State) (q : Quad) (p : PhysTile) : Bool :=
  (q.mtxq.any fun e => e.uses.contains p.no)
    || s.allTeams.any fun t => t.uid == p.uid && (t.filling p.name || t.pins.any fun x => x.2.contains p.no && t.pendingIns x.1)

/-- The physical tiles of a quadrant with room made for a use of a team: tiles that are neither bound nor busy are free, and
as many idle bound tiles as are in the way go to their teams' context areas; none where too few can be moved (R278). -/
def State.roomFor (s : State) (t : Team) (u : TileUse) : Option (List PhysTile) :=
  let q := (s.core t.core).quads.getD t.quad .reset
  let mine := fun (p : PhysTile) => p.uid == t.uid && p.name == u.name && u.words.contains p.word
  let held := q.phys.filter fun p => s.tileBusy q p || (s.tileBound p && !(u.fresh && mine p))
  let want := ((s.tileNos t u).filter fun w => !(held.any fun p => p.no == w.2)).map fun w => (⟨w.2, t.uid, u.name, w.1⟩ : PhysTile)
  let idle := held.filter fun p => !s.tileBusy q p && !mine p
  let excess := held.length + want.length - Config.physTiles
  if idle.length < excess then none
  else some ((held.filter fun p => !((idle.take excess).any fun x => x.no == p.no)) ++ want)

/-- Whether a use keeps a team from issuing: the queue is full, the name is filled or yet to be read, or no tile is free. -/
def State.tileWait (s : State) (t : Team) (u : TileUse) : Bool :=
  decide (Config.mtxQueue ≤ ((s.core t.core).quads.getD t.quad .reset).mtxq.length) || t.filling u.name
    || (u.make && !u.fresh && t.storing u.name) || (s.roomFor t u).isNone

/-- What the next pass of a matrix instruction does with tiles. -/
def tileUse (words : List Nat) : Instr → Option TileUse
  | .mma _ d _ _ _ _ _ _ new => some ⟨d.toNat, words, new, true⟩
  | .mmas _ d _ _ _ _ _ _ new _ _ => some ⟨d.toNat, words, new, true⟩
  | .azero _ d _ => some ⟨d.toNat, words, true, true⟩
  | .ald _ _ d _ _ _ => some ⟨d.toNat, words, true, true⟩
  | .ast _ _ _ _ c _ _ _ _ => some ⟨c.toNat, words, false, false⟩
  | .amov _ _ _ c => some ⟨c.toNat, words, false, false⟩
  | .qtile _ _ _ _ c _ _ => some ⟨c.toNat, words, false, false⟩
  | _ => none

/-- A matrix instruction that uses tiles: it waits while it must, before its tile is looked at (R279). `bad` is its illegal
uses. -/
def State.matrixIssue (s : State) (i : Instr) (u : TileUse) (bad : State → Bool) (act : State → State) : State :=
  s.issueIf i .pt (fun s => !s.tileWait s.cur u && bad s) fun s =>
    if s.tileWait s.cur u then s.stall (.matrix u.name u.words u.fresh u.make) else act s

/-- Its tiles taken and its busy cycles queued; `batch` is the open batch plus 1, or 0. -/
def State.queueMatrix (s : State) (u : TileUse) (batch busy : Nat) : State :=
  let phys := (s.roomFor s.cur u).getD []
  { s.onQuad s.cur.core s.cur.quad fun q =>
      { q with mtxq := q.mtxq ++ [⟨s.cur.uid, batch, busy, (s.tileNos s.cur u).map (·.2)⟩], phys := phys } with
    nextId := s.nextId + u.words.length }

/-! ### MMA and MMAS (R282 to R290) -/

/-- An illegal use of an MMA: a tile of the other type, metadata out of range, a descriptor that is none. -/
def mmaIllegal (t : Team) (words : List Nat) (name : Nat) (desc : Option (BitVec 6)) (af bf : MFmt) (new badPos : Bool) : Bool :=
  (!new && words.any fun w => ((t.bound name w).map (·.int)).getD (MFmt.isInt af) != MFmt.isInt af) || badPos
    || desc.any fun r => (readDesc af bf (t.rs r.toNat)).isNone

/-- A scale that an MMA would read beyond the scratchpad. -/
def scaleFault (t : Team) (words : List Nat) (desc : Option (BitVec 6)) (af bf : MFmt) (k : Nat) : Option Word :=
  (desc.bind fun r => readDesc af bf (t.rs r.toNat)).bind fun d =>
    ((words.flatMap (scaleReads d k)).find? fun o => decide (t.d.scratch ≤ o)).map (BitVec.ofNat 32 ·)

/-- The common part of MMA and MMAS: `rows` gives a word's row of A as its pass reads it. -/
def State.mmaRun (s : State) (i : Instr) (d b : Reg) (desc : Option (BitVec 6)) (pm1 : BitVec 3) (af bf : MFmt)
    (new : Bool) (nq k : Nat) (badPos : Team → Nat → Bool) (rows : Team → Nat → Nat → List (Nat × Nat))
    (busy : Nat → Nat) : State :=
  let use : TileUse := ⟨d.toNat, passWords s.settle.cur i .pt, new, true⟩
  s.matrixIssue i use (fun s =>
      mmaIllegal s.cur (passWords s.cur i .pt) d.toNat desc af bf new
        ((passWords s.cur i .pt).zipIdx.any fun wk => badPos (s.cur.view (s.now + wk.2)) wk.1)) fun s =>
    let ws := use.words.zipIdx
    let view := fun (n : Nat) => s.cur.view (s.now + n)
    match scaleFault s.cur use.words desc af bf k with
    | some x => s.trapAll i 0x06 x
    | none =>
      let bd := desc.bind fun r => readDesc af bf (s.cur.rs r.toNat)
      let nos := s.tileNos s.cur use
      let one := fun (acc : Team × Word) (wk : Nat × Nat) =>
        let v := view wk.2
        let sc := match bd with
          | some x => s.scales x k wk.1
          | none => ⟨none, none, 8⟩
        let clean := Tile.fresh ((nos.lookup wk.1).getD 0) (MFmt.isInt af)
        let t0 := if new then clean else (acc.1.bound d.toNat wk.1).getD clean
        let r := mmaTile af bf (pm1.toNat + 1) sc ((List.range 16).map (rows v wk.1))
          ((List.range 16).map (fragRow v b.toNat wk.1 (MFmt.width bf) nq)) t0
        (acc.1.setTile d.toNat wk.1 r.1, acc.2 ||| r.2)
      let r := ws.foldl one (s.cur, (0 : Word))
      let t := { r.1 with fpstat := r.1.fpstat ||| r.2, opened := true }
      State.retire { s.queueMatrix use (s.cur.batch + 1) (busy ws.length) with cur := t } i ws.length

/-- MMA (R282). -/
def execMma (dly : BitVec 3) (d a b : Reg) (desc : Option (BitVec 6)) (pm1 : BitVec 3) (af bf : MFmt) (new : Bool)
    (s : State) : Host.Outcome State Fault Refusal :=
  .next <| s.mmaRun (.mma dly d a b desc pm1 af bf new) d b desc pm1 af bf new 8 (512 / MFmt.width af) (fun _ _ => false)
    (fun t w r => (fragRow t a.toNat w (MFmt.width af) 8 r).zipIdx.map fun x => (x.2, x.1)) (fun n => 4 * n)

/-- Busy cycles of an MMAS over `n` words (R288). -/
def mmasBusy (sn : SpN) (n : Nat) : Nat :=
  match sn with
  | .n12 => 3 * n
  | .n8 => 2 * n
  | .n6 => ceilDiv (3 * n) 2

/-- A stored value of zero adds no term (R281). -/
def storedZero (f : MFmt) (x : Nat) : Bool :=
  if MFmt.isInt f then x == 0
  else
    match ((MFmt.fmt f).elem x).val with
    | .fin _ m _ => m == 0
    | .inf _ | .nan _ => false

/-- MMAS (R281, R282): A holds N values of every 24. -/
def execMmas (dly : BitVec 3) (d a b : Reg) (desc : Option (BitVec 6)) (pm1 : BitVec 3) (af bf : MFmt) (new : Bool)
    (n : SpN) (mreg : BitVec 6) (s : State) : Host.Outcome State Fault Refusal :=
  let row := fun (t : Team) (w r : Nat) => sparseRow t a.toNat mreg.toNat w (MFmt.width af) (SpN.n n) r
  .next <| s.mmaRun (.mmas dly d a b desc pm1 af bf new n mreg) d b desc pm1 af bf new 12 (768 / MFmt.width af)
    (fun t w => (List.range 16).any fun r => (row t w r).any fun x => decide (23 < x.2.1))
    (fun t w r => ((row t w r).filter fun x => !storedZero af x.2.2).map fun x => (x.1 + x.2.1, x.2.2)) (mmasBusy n)

/-! ### AZERO, ALD, AST, AMOV (R291 to R295) -/

/-- AZERO: the name bound to a fresh tile in every word. -/
def execAzero (dly : BitVec 3) (d : Reg) (int : Bool) (s : State) : Host.Outcome State Fault Refusal :=
  let i := Instr.azero dly d int
  let use : TileUse := ⟨d.toNat, passWords s.settle.cur i .pt, true, true⟩
  .next <| s.matrixIssue i use (fun _ => false) fun s =>
    let t := (s.tileNos s.cur use).foldl (fun (t : Team) w => t.setTile d.toNat w.1 (Tile.fresh w.2 int)) s.cur
    State.retire { s.queueMatrix use 0 use.words.length with cur := t } i use.words.length

/-- The addresses of a word's elements: row stride `st`, `n` bytes an element (R292, R293); elements are named
256 × word + index. -/
def tileAddrs (base : DWord) (st : Word) (n w : Nat) : List (Nat × DWord) :=
  (List.range 256).map fun e =>
    (256 * w + e, base + BitVec.ofNat 64 ((16 * w + e / 16) * st.toNat + n * (e % 16)))

/-- The words of an ALD or AST checked one after another: the machine, the words that go on with their requests,
the elements held on recoverable faults, and the first trap of each other word, for all its active lanes (R295). -/
structure TileLook where
  st : State
  ok : List Req
  hits : List Hit
  held : List (Nat × DWord × Nat)
  rest : List (Nat × DWord)
  dead : Option (Dead × DWord)
  viol : Option (Bool × DWord × Nat)
  deriving DecidableEq, Repr

/-- Records joined by cause. -/
def joinHit (hs : List Hit) (h : Hit) : List Hit :=
  if hs.any fun x => x.cause = h.cause then hs.map fun x => if x.cause = h.cause then { x with mask := x.mask ||| h.mask } else x
  else hs ++ [h]

/-- The words checked: a misaligned base or stride first (R292, R293); a word with a recoverable fault is held whole. -/
def State.tileLook (s : State) (k : AccKind) (base : DWord) (st : Word) (n : Nat) (words : List Nat) : TileLook :=
  words.foldl (fun (a : TileLook) w =>
    let es := tileAddrs base st n w
    let lanes := maskOf (wordLanes s.cur.mask w)
    match es.find? fun x => x.2.toNat % n != 0 with
    | some x => { a with hits := joinHit a.hits ⟨0x05, lo32 x.2, lanes⟩ }
    | none =>
      let lk := a.st.look k n es
      let b := { a with st := lk.st, dead := a.dead.or lk.dead, viol := a.viol.or lk.viol }
      match lk.hits, lk.held with
      | h :: _, _ => { b with hits := joinHit a.hits { h with mask := lanes } }
      | [], [] => { b with ok := a.ok ++ lk.ok }
      | [], fs => { b with held := a.held ++ fs, rest := a.rest ++ lk.ok.map fun r => (r.lane, r.spot.va) })
    ⟨s, [], [], [], [], none, none⟩

/-- ALD and AST carried through their checks, as a global access is; `put` acts for the words that go on. -/
def State.tileAccess (s : State) (i : Instr) (use : TileUse) (k : AccKind) (base : DWord) (st : Word) (n : Nat)
    (mk : Nat → DWord → Nat → HeldAccess) (put : State → List Req → List Nat → State) : State :=
  let lk := s.tileLook k base st n use.words
  let reason := dmodeReason s.cur lk.ok
  match lk.dead, lk.viol, reason with
  | some (k, va), _, _ => lk.st.killDead k va
  | none, some (true, _, pa), _ =>
    lk.st.isolateWalker s.cur.d.part (s.cur.core / 4) pa
  | none, some (false, _, _), _ => lk.st.isolateTeam
  | none, none, some r => s.trapAll i 0x15 r
  | none, none, none =>
    lk.st.withHits i lk.hits fun s1 =>
      let tag := (tagOf i).getD 0
      let go := use.words.filter fun w => maskWord (hitMask lk.hits) w == 0
      let good := go.filter fun w => !(lk.held.any fun f => f.1 / 256 == w)
      let mine := { use with words := go }
      let nos := (s1.tileNos s1.cur mine).map (·.2)
      let s2 := s1.queueMatrix mine 0 (2 * use.words.length)
      let s3 := put { s2 with cur := { s2.cur.allocate i with
        pins := (s2.cur.ins, nos) :: s2.cur.pins.filter fun p => s2.cur.pendingIns p.1 } } lk.ok good
      let s3' := if lk.held.isEmpty then s3 else s3.lay s3.cur.ins (lk.ok.map fun r => (32 * (r.lane / 256), r.spot))
      let s4 := (s3'.hold k mk lk.held).holdRest (lk.rest.map fun x => mk x.1 x.2 0)
      State.parkHandler (!lk.held.isEmpty) (State.retire
        { s4 with cur := ({ s4.cur with ins := s4.cur.ins + 1 } : Team).settleTag tag } i use.words.length)

/-- ALD (R292): a fresh tile filled by plain loads. A word that is held keeps its new tile aside until it is filled. -/
def execAld (dly : BitVec 3) (tag : Tag) (d a b : Reg) (int : Bool) (s : State) : Host.Outcome State Fault Refusal :=
  let i := Instr.ald dly tag d a b int
  let use : TileUse := ⟨d.toNat, passWords s.settle.cur i .pt, true, true⟩
  .next <| s.matrixIssue i use (fun _ => false) fun s =>
    let here := s.cur.at_
    let ins := s.cur.ins
    let nos := s.tileNos s.cur use
    let no := fun (w : Nat) => (nos.lookup w).getD 0
    s.tileAccess i use .load (s.cur.rsPair a.toNat) (s.cur.rs b.toNat) 4
      (fun x va tok => ⟨tok, ins, tagIndex tag, 32 * (x / 256), true, va, .load, some (.tile (x % 256) int), d.toNat, x % 256,
        no (x / 256), [], 4, .plain, .team, .rlx, here, nextPt here i, 0, none⟩)
      fun s rs good =>
        let t := good.foldl (fun (t : Team) w => t.setTile d.toNat w (Tile.fresh (no w) int)) s.cur
        rs.foldl (fun s r => s.newAccess ⟨0, ins, tagIndex tag, 32 * (r.lane / 256), .tile (r.lane % 256) int, d.toNat, r.pa, 4,
          r.spot, .plain, .team, .rlx, r.dev, 0, 0, .unsent, 0⟩) { s with cur := t }

/-- Bytes of an AST element (R293). -/
def ofmtBytes : OFmt → Nat
  | .fp32 | .int32 => 4
  | .bf16 | .fp16 => 2
  | .f8a | .f8b | .int8 => 1

/-- The value of an AST element on its way: an FP32 value with its bits, or an integer. -/
inductive AstVal where
  | fp (x : Nat)
  | int (x : Int)
  deriving DecidableEq, Repr

def round32 (x : FVal) : Nat × Word := convert fmt32 .rne x

/-- FP32 steps of the epilogue: RELU and CLAMP. -/
def reluFp (x : Nat) : Nat :=
  let v := fmt32.decode x
  if v.isNan then x else if FVal.cmp v (.fin false 0 0) ≤ 0 then 0 else x
def clampFp (bound : Word) (x : Nat) : Nat × Word :=
  let v := fmt32.decode x
  let t := bound.toNat % 2 ^ 31
  let tv := fmt32.decode t
  if v.isNan then (x, 0)
  else if tv.isNan then (fmt32.nan, flagIV)
  else if FVal.cmp v tv.neg < 0 then (t + 2 ^ 31, 0)
  else if 0 < FVal.cmp v tv then (t, 0)
  else (x, 0)

def Act.relu : Act → Bool
  | .relu | .reluClamp => true
  | .none | .clamp => false
def Act.clamp : Act → Bool
  | .clamp | .reluClamp => true
  | .none | .relu => false

/-- The epilogue of one element (R293): SCALE, BIAS, ACT. -/
def astValue (int : Bool) (val : Word) (act : Act) (scale bias : Bool) (sv bv cv : Word) : AstVal × Word :=
  if int && !scale && !bias then
    let x := val.toInt
    let y := if Act.relu act then max x 0 else x
    let t : Int := cv.toInt.natAbs
    (.int (if Act.clamp act then clampInt (-t) t y else y), 0)
  else
    let (x0, f0) := if int then round32 (FVal.ofInt val.toInt) else (val.toNat, (0 : Word))
    let (x1, f1) := if scale then
        let p := FVal.mul (fmt32.decode x0) (fmt32.decode sv.toNat)
        let r := fmt32.round .rne false p.1
        (r.1, p.2 ||| r.2 ||| snanFlag [fmt32.decode x0, fmt32.decode sv.toNat])
      else (x0, (0 : Word))
    let (x2, f2) := if bias then
        let p := FVal.add .rne (fmt32.decode x1) (fmt32.decode bv.toNat)
        let r := fmt32.round .rne false p.1
        (r.1, p.2 ||| r.2 ||| snanFlag [fmt32.decode x1, fmt32.decode bv.toNat])
      else (x1, (0 : Word))
    let x3 := if Act.relu act then reluFp x2 else x2
    let (x4, f4) := if Act.clamp act then clampFp cv x3 else (x3, (0 : Word))
    (.fp x4, f0 ||| f1 ||| f2 ||| f4)

/-- The stored element (R171, R172, R293): FP32 values as they are for OFMT FP32, integers rounded once. -/
def astStore (o : OFmt) (x : AstVal) : Nat × Word :=
  let int := fun (n : Nat) (lo hi : Int) =>
    match x with
    | .fp v =>
      let r := roundInt .rne lo hi (fmt32.decode v)
      (wrap n r.1, r.2)
    | .int v => (wrap n (clampInt lo hi v), (0 : Word))
  let fp := fun (f : Fmt) =>
    match x with
    | .fp v => convert f .rne (fmt32.decode v)
    | .int v => f.round .rne false (FVal.ofInt v)
  match o with
  | .fp32 => (match x with
    | .fp v => (v, 0)
    | .int _ => fp fmt32)
  | .bf16 => fp fmtB16
  | .fp16 => fp fmt16
  | .f8a => fp fmtF8a
  | .f8b => fp fmtF8b
  | .int32 => int 32 (-2 ^ 31) (2 ^ 31 - 1)
  | .int8 => int 8 (-128) 127

/-- The tiles of a name promoted in some words, with their flags in FPSTAT (R284); an unbound name binds nothing. -/
def Team.promoteTiles (t : Team) (c : Nat) (words : List Nat) : Team :=
  words.foldl (fun (t : Team) w =>
    match t.bound c w with
    | none => t
    | some x => { t.setTile c w x.promote.1 with fpstat := t.fpstat ||| x.promote.2 }) t

/-- AST (R293): the tile's elements stored in program order, row by row. What an element of a held word stores is worked
out at issue from the tile that it pins (R295). -/
def execAst (dly : BitVec 3) (tag : Tag) (a b c : Reg) (ofmt : OFmt) (act : Act) (scale bias : Bool) (s : State) :
    Host.Outcome State Fault Refusal :=
  let i := Instr.ast dly tag a b c ofmt act scale bias
  let use : TileUse := ⟨c.toNat, passWords s.settle.cur i .pt, false, false⟩
  .next <| s.matrixIssue i use (fun _ => false) fun s =>
    let here := s.cur.at_
    let t0 := s.cur
    let n := ofmtBytes ofmt
    let old := fun (x : Nat) => (t0.tile c.toNat (x / 256)).elems.getD (x % 256) (Elem.fresh false)
    let out := fun (t : Team) (x : Nat) =>
      let tl := t.tile c.toNat (x / 256)
      let e := tl.elems.getD (x % 256) (Elem.fresh tl.int)
      let v := astValue tl.int e.val act scale bias (t0.rs (b.toNat + 1)) (t0.rs (b.toNat + 2)) (t0.rs (b.toNat + 3))
      let r := astStore ofmt v.1
      (bytesOf n r.1, v.2 ||| r.2)
    let tp := t0.promoteTiles c.toNat use.words
    s.tileAccess i use .store (t0.rsPair a.toNat) (t0.rs b.toNat) n
      (fun x va tok =>
        let no := ((t0.bound c.toNat (x / 256)).map (·.no)).getD 0
        let promoted : Word := if (t0.tile c.toNat (x / 256)).int then 0 else (old x).promote.2
        ⟨tok, t0.ins, tagIndex tag, 32 * (x / 256), true, va, .store, none, c.toNat, x % 256, no, (out tp x).1, n, .plain, .team,
          .rlx, here, nextPt here i, promoted ||| (out tp x).2, none⟩)
      fun s rs good =>
        let t := s.cur.promoteTiles c.toNat good
        let f : Word := rs.foldl (fun (f : Word) r => f ||| (out t r.lane).2) 0
        State.storeLanes { s with cur := { t with fpstat := t.fpstat ||| f } }
          (rs.map fun r => ⟨t0.ins, tagIndex tag, 32 * (r.lane / 256), r.spot, r.pa, (out t r.lane).1, .plain, .team, r.dev⟩)

/-- AMOV (R294): element (8h + q, r) and its count to v(D + q), in every lane the word has. -/
def execAmov (dly : BitVec 3) (tag : Tag) (d c : Reg) (s : State) : Host.Outcome State Fault Refusal :=
  let i := Instr.amov dly tag d c
  let use : TileUse := ⟨c.toNat, passWords s.settle.cur i .pt, false, false⟩
  .next <| s.matrixIssue i use (fun _ => false) fun s =>
    let ws := use.words
    let t := (s.cur.promoteTiles c.toNat ws).allocate i
    let cells := fun (w q : Nat) => (List.range 32).filterMap fun l =>
      if 32 * w + l < t.d.teamw then
        let e := (t.tile c.toNat w).elems.getD (16 * (8 * (l / 16) + q) + l % 16) (Elem.fresh false)
        some (32 * w + l, (⟨e.val, e.cnt⟩ : VCell))
      else none
    let regs := ws.flatMap fun w => (List.range 8).map fun q => RegWrite.v (d.toNat + q) (cells w q)
    State.retire { s.queueMatrix use 0 (2 * ws.length) with cur := { t with tagged := t.tagged ++ [⟨tagIndex tag, regs⟩] } }
      i ws.length

/-! ### QTILE (R276 of *tile*, R296) -/

/-- A quantised format: the element format (none for integers), the width and maxfin. -/
def qfmtOf : QFmt → Option Fmt × Nat × Nat
  | .f8a => (some fmtF8a, 8, 448)
  | .f8b => (some fmtF8b, 8, 57344)
  | .int8 => (none, 8, 127)
  | .f4 => (some fmtF4, 4, 6)
  | .int4 => (none, 4, 7)

def blkLen : BlkLen → Nat
  | .b8 => 8
  | .b16 => 16
  | .b32 => 32
  | .b64 => 64

/-- The greatest magnitude of some finite values. -/
def amax (xs : List FVal) : Nat × Int :=
  xs.foldl (fun (a : Nat × Int) x =>
    match x with
    | .fin _ m e => if magLe m e a.1 a.2 then a else (m, e)
    | _ => a) (0, 0)

/-- The least E6M2 scale at or above amax / maxfin, 0xFE if none. -/
def qscale (maxfin : Nat) (a : Nat × Int) : Nat :=
  ((List.range 0xFE).find? fun k =>
    match e6m2 (k + 1) with
    | .fin _ m e => magLe a.1 a.2 (m * maxfin) e
    | _ => false).elim 0xFE (· + 1)

/-- x / s rounded to an element (R276). -/
def qelem (f : Option Fmt) (maxfin width sc : Nat) (x : FVal) : Nat :=
  match x, e6m2 sc with
  | .fin neg m e, .fin _ sm se =>
    let q := stuck neg (m * 2 ^ 64 / sm) (e - se - 64) (m * 2 ^ 64 % sm == 0)
    let q := if m = 0 then .fin neg 0 0 else q
    match f with
    | some f => (f.round .rne false q).1
    | none => wrap width (roundInt .rne (-(maxfin : Int)) maxfin q).1
  | _, _ => 0

/-- One block: its scale and its elements. -/
def qblock (fm : QFmt) (xs : List FVal) : Nat × List Nat :=
  let (f, width, mx) := qfmtOf fm
  if xs.any fun x => !(x.finNonzero || x.isZero) then (0xFF, xs.map fun _ => (f.map Fmt.nan).getD 0)
  else if xs.all FVal.isZero then (0, xs.map fun _ => 0)
  else
    let sc := qscale mx (amax xs)
    (sc, xs.map (qelem f mx width sc))

/-- Runs of `len` elements. -/
def runsOf (len : Nat) : Nat → List FVal → List (List FVal)
  | 0, _ => []
  | n + 1, xs => xs.take len :: runsOf len n (xs.drop len)

/-- Two 4-bit elements in a byte, the first in the low half. -/
def nibbles : List Nat → List Byte
  | a :: b :: r => BitVec.ofNat 8 (a + 16 * b) :: nibbles r
  | _ => []

/-- A copy: its elements, then its scale bytes. -/
def qcopy (fm : QFmt) (len : Nat) (xs : List FVal) : List Byte :=
  let bs := (runsOf len (256 / len) xs).map (qblock fm)
  let es := bs.flatMap (·.2)
  (if (qfmtOf fm).2.1 = 8 then es.map (BitVec.ofNat 8) else nibbles es) ++ bs.map fun b => BitVec.ofNat 8 b.1

/-- Bytes of a copy. -/
def qsize (fm : QFmt) (len : Nat) : Nat := 32 * (qfmtOf fm).2.1 + 256 / len

/-- The first fault of a QTILE: an offset, a bound. -/
def qtileFault (t : Team) (size : Nat) (ws : List Nat) (offs : List Nat) : Option (Nat × Word) :=
  let all := ws.flatMap fun w => offs.map fun o => o + 512 * w
  match offs.find? fun o => o % 16 != 0 with
  | some o => some (0x05, BitVec.ofNat 32 o)
  | none => (all.find? fun o => decide (t.d.scratch < o + size)).map fun o => (0x06, BitVec.ofNat 32 o)

/-- QTILE: both copies of every word, the column-blocked one over the row-blocked one; its writes are STS accesses,
so it waits while an older acquire is unperformed (R270) and its tag clears when they are complete. -/
def execQtile (dly : BitVec 3) (tag : Tag) (a b c : Reg) (fmt : QFmt) (len : BlkLen) (s : State) :
    Host.Outcome State Fault Refusal :=
  let i := Instr.qtile dly tag a b c fmt len
  let use : TileUse := ⟨c.toNat, passWords s.settle.cur i .pt, false, false⟩
  .next <| s.matrixIssue i use (fun s => use.words.any fun w => (s.cur.tile c.toNat w).int) fun s =>
    if !acquireClear s.cur s.cur.ins then s.stall (.scratch .plain)
    else
      let ws := use.words
      let oa := (s.cur.rs a.toNat).toNat
      let ob := (s.cur.rs b.toNat).toNat
      match qtileFault s.cur (qsize fmt (blkLen len)) ws [oa, ob] with
      | some (cause, d) => s.trapAll i cause d
      | none =>
        let t := (s.cur.promoteTiles c.toNat ws).allocate i
        let vals := fun (w : Nat) => (t.tile c.toNat w).elems.map fun e => fmt32.decode e.val.toNat
        let cols := fun (xs : List FVal) => (List.range 256).map fun k => xs.getD (16 * (k % 16) + k / 16) (.fin false 0 0)
        let put := fun (s : State) (w o : Nat) (bs : List Byte) =>
          s.stsLane (32 * w) o bs
        let s1 := ws.foldl (fun s w =>
          put (put s w (oa + 512 * w) (qcopy fmt (blkLen len) (vals w))) w (ob + 512 * w)
            (qcopy fmt (blkLen len) (cols (vals w)))) { s.queueMatrix use 0 (4 * ws.length) with cur := t }
        let p : SpadPass := ⟨tagIndex tag, t.ins, s.now + 4 * ws.length, .plain, true, []⟩
        State.retire { s1 with cur := { s1.cur with spad := s1.cur.spad ++ [p], ins := s1.cur.ins + 1 } } i ws.length

end Sys2Proof.Machine
end

