-- ==== Sys2Proof/Machine/Ordering.lean ====
section
/-! DEFINITION. The steps of the ordering machine as events (R265 to R268, R227, R240) and the arrival of results
(R92, R103, R238): RESULT_WRITEBACK, TAGGED_RESULT_WRITE, SCRATCHPAD_ACCESS_COMPLETE, STORE_SEND, LOAD_SEND,
REQUEST_PERFORM, STORE_ACK, LOAD_RESPONSE, ACK_FORWARD. An event whose condition does not hold changes nothing. -/

namespace Sys2Proof.Machine

/-- RESULT_WRITEBACK (R103): everything of fixed latency due by now is written. -/
def execResultWriteback (uid : Nat) (s : State) : Host.Outcome State Fault Refusal := .next (s.focus uid).settle

/-- TAGGED_RESULT_WRITE (R92): the tag's results are written over what the registers hold, and it clears. -/
def execTaggedResultWrite (uid : Nat) (tag : Tag) (s : State) : Host.Outcome State Fault Refusal :=
  .next <|
    let s := (s.focus uid).settle
    let n := tagIndex tag
    let mine := s.cur.tagged.filter fun w => w.tag == n
    if mine.isEmpty then s
    else
      let t := s.cur.putAll (mine.flatMap (·.ws))
      { s with cur := ({ t with tagged := t.tagged.filter fun w => w.tag != n } : Team).settleTag n }

/-- SCRATCHPAD_ACCESS_COMPLETE (R238): the passes due by now write their registers; a tag clears with its last. -/
def execScratchpadAccessComplete (uid : Nat) (s : State) : Host.Outcome State Fault Refusal :=
  .next <|
    let s := (s.focus uid).settle
    let done := s.cur.spad.filter fun p => decide (p.due ≤ s.now)
    let t := s.cur.putAll (done.flatMap (·.ws))
    let t1 : Team := { t with spad := t.spad.filter fun p => decide (s.now < p.due) }
    { s with cur := (distinct (done.map (·.tag))).foldl Team.settleTag t1 }

/-! ### Sending -/

/-- Whether every pass of the stores that an entry holds has placed its bytes (R264). Where the store's own
entries fill the buffer and nothing older can drain, they may be sent. -/
def placed (t : Team) (e : StoreEntry) : Bool :=
  (t.waiting.all fun w => w.ins != e.ins && w.ins != e.last) || t.stores.all fun x => x.ins == e.ins

/-- The conditions of R265 for an unsent entry. An older store that waits for room, or is held on a fault, counts (log 107). -/
def storeSendable (t : Team) (e : StoreEntry) : Bool :=
  let older := t.stores.takeWhile fun x => x.seq != e.seq
  let clash := fun (x : StoreEntry) => x.bytes.any fun c => e.bytes.any fun d => d.1 == c.1
  e.st == .unsent && placed t e
    && !(older.any clash) && !(t.flight.any clash)
    && !(t.waiting.any fun w => decide (w.ins < e.ins) && e.bytes.any fun c => w.overlaps c.1 1)
    && !(t.holdsOlder e.ins fun h => e.spots.any fun x => h.near x.va.toNat x.n)
    && !(e.bytes.any fun c => pendingOverlap t e.ins c.1 1)
    && acquireClear t e.ins && fullClear t e.ins && marksClear t e.ins
    && (!(MemOrd.releases e.ord) || releaseStep t e.scope e.ins)
    && (!(MemOrd.full e.ord) || fullStep t e.scope e.ins)
    && (!e.dev || deviceClear t e.ins)

/-- STORE_SEND (R265): the entry goes into the request channel and counts in ULOC or UREM. -/
def execStoreSend (uid seq : Nat) (s : State) : Host.Outcome State Fault Refusal :=
  .next <|
    let s := s.focus uid
    match s.cur.stores.find? fun e => e.seq = seq with
    | none => s
    | some e =>
      if storeSendable s.cur e && s.cur.uid == uid && s.cur.st != .frozen then
        let r := remote (e.unit * 256)
        { s with cur := { s.cur with
            stores := s.cur.stores.map fun x => if x.seq = seq then { x with st := .sent } else x
            uloc := if r then s.cur.uloc else s.cur.uloc + 1
            urem := if r then s.cur.urem + 1 else s.cur.urem } }
      else s

/-- The conditions of R267 and R268 for a load or atomic that is not served from the buffer. An older access held on a fault
counts (log 107). -/
def accessSendable (t : Team) (a : Access) : Bool :=
  a.st == .unsent
    && !(t.stores.any fun e => decide (e.ins < a.ins) && e.overlaps a.spot.home a.bytes)
    && !(t.waiting.any fun w => decide (w.ins < a.ins) && w.overlaps a.spot.home a.bytes)
    && !(t.flight.any fun e => e.overlaps a.spot.home a.bytes)
    && !(t.holdsOlder a.ins fun h => h.near a.spot.va.toNat a.bytes)
    && !(pendingOverlap t a.ins a.spot.home a.bytes)
    && acquireClear t a.ins && fullClear t a.ins
    && (!(MemOrd.full a.ord) || fullStep t a.scope a.ins)
    && (!a.isAtomic || ((!(MemOrd.releases a.ord) || releaseStep t a.scope a.ins) && marksClear t a.ins))
    && (!a.dev || deviceClear t a.ins)

/-- LOAD_SEND (R267, R268). -/
def execLoadSend (uid seq : Nat) (s : State) : Host.Outcome State Fault Refusal :=
  .next <|
    let s := s.focus uid
    match s.cur.accesses.find? fun a => a.seq = seq with
    | none => s
    | some a =>
      if accessSendable s.cur a && s.cur.uid == uid && s.cur.st != .frozen then
        let r := remote a.pa
        { s with cur := { s.cur with
            accesses := s.cur.accesses.map fun x => if x.seq = seq then { x with st := .sent } else x
            uloc := if a.isAtomic && !r then s.cur.uloc + 1 else s.cur.uloc
            urem := if a.isAtomic && r then s.cur.urem + 1 else s.cur.urem } }
      else s

/-! ### Performing and answering -/

/-- The bytes of an entry written at their point: one access on a DEV page, a register word by word, memory byte by byte. -/
def State.writeCells (s : State) (dev : Bool) (cells : List Host.Cell) : State :=
  match cells with
  | [] => s
  | (a, _) :: _ =>
    if dev then s.writeAt a (cells.map (·.2))
    else
      match placeOf a with
      | .regs _ =>
        (distinct (cells.map (·.1 / 4))).reverse.foldl (fun s w =>
          let at_ := (List.range 4).filter fun k => cells.any fun c => c.1 = 4 * w + k
          s.writeAt (4 * w + at_.headD 0) (at_.filterMap fun k => cells.lookup (4 * w + k))) s
      | _ => cells.foldl (fun s c => (s.store c.1 [c.2]).healed c.1 1) (s.activate a)

/-- An atomic's value at its point: the new value (R256, R257). -/
def Access.newValue (a : Access) (m : Nat) : Option Nat :=
  match a.op with
  | .atom op w64 => some (atomNew op w64 m a.b)
  | .cas _ => if m = a.c then some a.b else none
  | .load _ | .tile _ _ => none

/-- The aligned 8-byte units of an entry, rising: each is performed at an instant of its own (R252); an access to a DEV page,
performed once (R248), is one. -/
def StoreEntry.parts (e : StoreEntry) : List (List Host.Cell) :=
  if e.dev then [e.bytes]
  else (sortBy id (distinct (e.bytes.map (·.1 / 8)))).map fun u => e.bytes.filter fun c => c.1 / 8 == u

/-- The next unit of a sent entry of a list performed: whether it is a device's, and its cells. -/
def performIn (seq : Nat) (es : List StoreEntry) : Option (Bool × List Host.Cell × List StoreEntry) :=
  match es.find? fun e => e.seq == seq && e.st == .sent with
  | none => none
  | some e =>
    some (e.dev, (e.parts).getD e.units [], es.map fun x =>
      if x.seq = seq then { x with units := x.units + 1, st := if e.parts.length ≤ e.units + 1 then .performed else .sent } else x)

/-- Whether what a launch sends to a physical address is dropped: the host's, once the traffic of its function has stopped (R340;
log 128). -/
def State.severed (s : State) (lid part pa : Nat) : Bool :=
  (s.func (s.funcOf lid part)).stopped &&
    match placeOf pa with
    | .host _ => true
    | _ => false

/-- The cells of an entry written, unless they are dropped. -/
def State.deliverCells (s : State) (lid part : Nat) (dev : Bool) (cs : List Host.Cell) : State :=
  if cs.any fun c => s.severed lid part c.1 then s else s.writeCells dev cs

/-- REQUEST_PERFORM (R266): a sent write changes memory, unit by unit, a sent read takes the value, an atomic does both; also for
entries of a saved or moved team (R264 of *moves*). Uncorrectable data kills the block that reads it (R240). What is sent to the host by
a function whose traffic has stopped is dropped (R340). -/
def execRequestPerform (uid seq : Nat) (s : State) : Host.Outcome State Fault Refusal :=
  .next <|
    match (s.saved.flatMap (·.teams)).find? fun t => t.uid = uid with
    | some t =>
      match performIn seq t.flight with
      | none => s
      | some (dev, cs, fl) =>
        { s.deliverCells t.lid t.d.part dev cs with
          saved := s.saved.map fun b => { b with teams := b.teams.map fun u => if u.uid = uid then { u with flight := fl } else u } }
    | none =>
      let s := s.focus uid
      if s.cur.uid ≠ uid then s
      else
        match performIn seq s.cur.stores, performIn seq s.cur.flight with
        | some (dev, cs, es), _ => State.deliverCells { s with cur := { s.cur with stores := es } } s.cur.lid s.cur.d.part dev cs
        | none, some (dev, cs, fl) => State.deliverCells { s with cur := { s.cur with flight := fl } } s.cur.lid s.cur.d.part dev cs
        | none, none =>
          match s.cur.accesses.find? fun a => a.seq == seq && a.st == .sent with
          | none => s
          | some a =>
            if s.severed s.cur.lid s.cur.d.part a.pa then
              { s with cur := { s.cur with
                accesses := s.cur.accesses.map fun x => if x.seq = seq then { x with st := .performed } else x } }
            else if s.badData a.pa a.bytes then s.killData a.pa
            else
              let (s1, m) := s.readAt a.pa a.bytes
              let s2 := { s1 with cur := { s1.cur with
                accesses := s1.cur.accesses.map fun x => if x.seq = seq then { x with st := .performed, x := m } else x } }
              match a.newValue m with
              | some v => s2.writeAt a.pa (bytesOf a.bytes v)
              | none => s2

/-- STORE_ACK (R266): a performed entry leaves the buffer and its counter falls; a saved team's is credited by the
leaf that saved it (R227). Stores that wait for room are placed. -/
def execStoreAck (uid seq : Nat) (s : State) : Host.Outcome State Fault Refusal :=
  .next <|
    let lower := fun (t : Team) (e : StoreEntry) =>
      if remote (e.unit * 256) then { t with urem := t.urem - 1 } else { t with uloc := t.uloc - 1 }
    match (s.saved.flatMap (·.teams)).find? fun t => t.uid = uid with
    | some t =>
      match t.flight.find? fun e => e.seq == seq && e.st == .performed with
      | none => s
      | some e =>
        let credit := fun (u : Team) =>
          if u.uid = uid then { lower u e with flight := u.flight.filter fun x => x.seq != seq } else u
        { s with saved := s.saved.map fun b => { b with teams := b.teams.map credit } }
    | none =>
      let s := s.focus uid
      match s.cur.stores.find? fun e => e.seq == seq && e.st == .performed with
      | none => s
      | some e =>
        if s.cur.uid = uid then
          State.placeWaiting { s with cur := { lower s.cur e with stores := s.cur.stores.filter fun x => x.seq != seq } }
        else s

/-- ACK_FORWARD (R227, R265 of *moves*): an acknowledgement for a team that has moved reaches its new core. -/
def execAckForward (uid seq : Nat) (s : State) : Host.Outcome State Fault Refusal :=
  .next <|
    let s := s.focus uid
    match s.cur.flight.find? fun e => e.seq == seq && e.st == .performed with
    | none => s
    | some e =>
      if s.cur.uid = uid then
        let t := s.cur
        { s with cur := { t with
            flight := t.flight.filter fun x => x.seq != seq
            uloc := if remote (e.unit * 256) then t.uloc else t.uloc - 1
            urem := if remote (e.unit * 256) then t.urem - 1 else t.urem } }
      else s

/-- A tile's element filled by a load of ALD (R292). -/
def Team.putTile (t : Team) (d w i : Nat) (x : Word) : Team :=
  { t with tiles := upd t.tiles d fun ws => upd ws w fun o => o.map fun tl =>
      { tl with elems := upd tl.elems i fun e => { e with val := x } } }

/-- LOAD_RESPONSE (R254, R255, R266): the value read is written to the registers, or to a tile; an atomic is
acknowledged; the tag clears with the last lane. -/
def execLoadResponse (uid seq : Nat) (s : State) : Host.Outcome State Fault Refusal :=
  .next <|
    let s := (s.focus uid).settle
    match s.cur.accesses.find? fun a => a.seq == seq && a.isPerformed with
    | none => s
    | some a =>
      if s.cur.uid ≠ uid then s
      else
        let t := match a.op with
          | .tile i _ => s.cur.putTile a.d (a.lane / 32) i (BitVec.ofNat 32 a.x)
          | .load _ | .atom _ _ | .cas _ => s.cur.putAll a.results
        let t1 : Team := { t with
          accesses := t.accesses.filter fun x => x.seq != seq
          uloc := if a.isAtomic && !remote a.pa then t.uloc - 1 else t.uloc
          urem := if a.isAtomic && remote a.pa then t.urem - 1 else t.urem }
        { s with cur := t1.settleTag a.tag }

/-! ### Recoverable faults answered (R250) -/

/-- Where the path of a held access stands: a fetch at its instruction, another behind it. -/
def HeldAccess.place (h : HeldAccess) : CodePt := if h.kind == .fetch then h.start else h.next

/-- Whether a record holds the path of a held access: a course imbalance trap found the team parked. -/
def HeldAccess.inRec (h : HeldAccess) (r : TrapRec) : Bool := r.cause == 0x12 && r.start == h.place

/-- The lanes of the path of a held access: the current one, one that waits on the stack while records are handled, or
one in the record of a course imbalance trap. -/
def Team.heldPath (t : Team) (h : HeldAccess) : LaneMask :=
  if t.at_ = h.place then t.mask
  else
    match t.stack.find? fun e => !e.join && e.start == h.place, t.recs.find? h.inRec with
    | some e, _ => e.mask
    | none, some r => r.mask
    | none, none => 0

/-- Lanes taken off the records that hold the path of a held access; one left without lanes is dropped, unless it is
being handled. -/
def Team.unrecord (t : Team) (h : HeldAccess) (m : LaneMask) : List TrapRec :=
  let rs := t.recs.map fun r => if h.inRec r then { r with mask := r.mask &&& ~~~ m } else r
  if t.hmode then rs.take 1 ++ (rs.drop 1).filter fun r => r.mask != 0 else rs.filter fun r => r.mask != 0

/-- The lanes whose trap a held access raises: its own, those of its word (R295), or all that fetch. -/
def Team.heldLanes (t : Team) (h : HeldAccess) : LaneMask :=
  let m := t.heldPath h
  if h.kind == .fetch then m else if h.whole then maskOf (wordLanes m (h.lane / 32)) else laneBit h.lane

/-- Held lanes of one instruction raise a cause, deferred, with a datum (R210, R250, R271): they leave their path. An access
of the handler's own kills the block (R211). While the team holds as many records as it can (R204), they wait. -/
def State.recordHeld (s : State) (hs : List HeldAccess) (h : HeldAccess) (cause : Nat) (datum : Word) (m : LaneMask) : State :=
  if m = 0 then s
  else if s.cur.hmode && s.cur.at_ == h.place then s.killTrap cause h.start.pc datum
  else if Config.maxRecords ≤ (s.cur.unrecord h m).length then
    { s with cur := { s.cur with held := s.cur.held ++ hs.map fun x => { x with failed := some (cause, datum) } } }
  else
    let s1 := { s with cur := { s.cur with
      recs := s.cur.unrecord h m ++ [⟨h.start, h.next, cause, datum, m⟩]
      mask := if s.cur.at_ = h.place then s.cur.mask &&& ~~~ m else s.cur.mask
      stack := s.cur.stack.map fun e => if e.join then e else { e with mask := e.mask &&& ~~~ m } } }
    if s1.cur.mask = 0 && !s1.cur.hmode then s1.takeTrap else s1

/-- Held lanes of one instruction fail with cause 0x08 and the address of the lowest (R210, R250). -/
def State.failHeld (s : State) (hs : List HeldAccess) : State :=
  match minBy (·.lane) hs with
  | none => s
  | some h => s.recordHeld hs h 0x08 (lo32 h.va) (hs.foldl (fun m h => m ||| s.cur.heldLanes h) 0)

/-- Accesses that raised a cause while no record was free, recorded once one is, those of one instruction and cause together
(R204): what D-mode forbids for all lanes of the path (R271). -/
def State.failPending (s : State) : State :=
  if s.cur.recs.length < Config.maxRecords then
    match s.cur.held.find? (·.failed.isSome) with
    | none => s
    | some h =>
      let mine := fun (x : HeldAccess) => x.start == h.start && x.failed.map (·.1) == h.failed.map (·.1)
      let s1 : State := { s with cur := { s.cur with held := s.cur.held.filter fun x => !mine x } }
      match h.failed with
      | some (0x15, d) => s1.recordHeld (s.cur.held.filter mine) h 0x15 d (s1.cur.heldPath h)
      | _ => s1.failHeld (s.cur.held.filter mine)
  else s

/-- How the new translation of a held access goes: it may be made, it fails, D-mode forbids it, it faults again with a reason,
or its block is killed or its team frozen. -/
inductive ReplayRes where
  | ok (pa : Nat) (dev : Bool)
  | failed
  | dmode (reason : Word)
  | again (reason : Nat)
  | gone
  deriving DecidableEq, Repr

/-- A held lane's access made at a physical address (R146, R250); a D-mode team holds a write and an atomic back (R269);
the flags of an element's conversion are set when it is stored (R293). `all` are the addresses and spots of its instruction's
accesses. -/
def State.putHeld (s : State) (all : List (Nat × Spot)) (h : HeldAccess) (pa : Nat) (dev : Bool) : State :=
  let s : State := { s with cur := { s.cur with fpstat := s.cur.fpstat ||| h.flags } }
  let at_ := s.spot h.va h.size pa
  match h.op with
  | some op =>
    let load := match op with
      | .load _ | .tile _ _ => true
      | .atom _ _ | .cas _ => false
    if s.cur.d.dmode && !load then
      s.holdBack (.atom h.ins h.tag h.lane op h.d at_ pa h.b h.c)
    else s.newAccess ⟨0, h.ins, h.tag, h.lane, op, h.d, pa, h.size, at_, h.ord, h.scope, h.fail, dev, h.b, h.c, .unsent, 0⟩
  | none => s.storeLane all ⟨h.ins, h.tag, h.lane, at_, pa, h.bytes, h.ord, h.scope, dev⟩

/-- What a word of an ALD or AST does to its tile once its accesses can be made (R284, R292, R295): the fresh tile kept for the
ALD is bound; the AST's tile is promoted, if the name is still bound to it. -/
def Team.tileOf (t : Team) (h : HeldAccess) : Team :=
  let w := h.lane / 32
  if !h.whole then t
  else
    match h.op, t.bound h.d w with
    | some (.tile _ int), b => if b.any fun x => x.no == h.c then t else t.setTile h.d w (Tile.fresh h.c int)
    | _, some x => if x.no = h.c then t.setTile h.d w x.promote.1 else t
    | _, none => t

/-- A held access translated anew (R250). -/
def State.replayHeld (s : State) (h : HeldAccess) : State × ReplayRes :=
  if h.kind == .fetch then (s, .ok 0 false)
  else
    match s.xlate h.va h.kind h.size with
    | (s1, .ok pa dev) =>
      (s1, if s1.cur.d.dmode && dev then .dmode 4 else if s1.cur.d.dmode && remote pa then .dmode 5 else .ok pa dev)
    | (s1, .fault r) => (s1, if (s1.asid s1.cur.d.asid).recov then .again r else .failed)
    | (s1, .refused) => (s1, .failed)
    | (s1, .dead k) => (s1.killDead k h.va, .gone)
    | (s1, .violation true pa) => (s1.isolateWalker s1.cur.d.part (s1.cur.core / 4) pa, .gone)
    | (s1, .violation false _) => (s1.isolateTeam, .gone)

/-- Where the accesses go that may be made. -/
def State.madeAt (s : State) (xs : List (HeldAccess × ReplayRes)) : List (Nat × Spot) :=
  xs.filterMap fun x => match x.2 with
    | .ok pa _ => some (pa, s.spot x.1.va x.1.size pa)
    | .failed | .dmode _ | .again _ | .gone => none

/-- The lanes whose stores are made, and where. -/
def State.laidBy (s : State) (xs : List (HeldAccess × ReplayRes)) : List (Nat × Spot) :=
  xs.filterMap fun x => match x.1.kind, x.2 with
    | .store, .ok pa _ => some (x.1.lane, s.spot x.1.va x.1.size pa)
    | _, _ => none

/-- A held access made, where its translation allows it. -/
def State.redoHeld (all : List (Nat × Spot)) (s : State) (x : HeldAccess × ReplayRes) : State :=
  match x.2 with
  | .ok pa dev =>
    if x.1.kind == .fetch then s else State.putHeld { s with cur := s.cur.tileOf x.1 } all x.1 pa dev
  | .failed | .dmode _ | .again _ | .gone => s

/-- The place of a held access among those of its instruction: by lane, and in a word of an ALD or AST by element (R293). -/
def HeldAccess.turn (h : HeldAccess) : Nat := h.lane * 256 + if h.whole then h.b else 0

/-- Held accesses of one instruction tried again (R249, R250, R295): those that fault again are held under new records, one for
each page; those that fail are recorded together; elements of one word of an ALD or AST share the worst of their fates. What
D-mode forbids traps every lane of the path (R271). -/
def State.replayInstr (s : State) (hs : List HeldAccess) : State :=
  let r := (sortBy HeldAccess.turn hs).foldl (fun (a : State × List (HeldAccess × ReplayRes)) h =>
    let y := a.1.replayHeld h
    (y.1, a.2 ++ [(h, y.2)])) (s, [])
  let xs := r.2
  let with_ := fun (p : ReplayRes → Bool) (h : HeldAccess) => xs.any fun x => p x.2 && (x.1 == h || x.1.mate h)
  let failed := with_ (· == .failed)
  let again := with_ fun y => match y with
    | .again _ => true
    | _ => false
  match hs, xs.findSome? fun x => (match x.2 with | .dmode n => some n | _ => none) with
  | [], _ => s
  | h :: _, some n =>
    let s1 := { r.1 with cur := { r.1.cur with dheld := r.1.cur.dheld.filter fun d => (DHeld.key d).1 != h.ins } }
    s1.recordHeld hs h 0x15 n (s1.cur.heldPath h)
  | h :: _, none =>
    let made := xs.filter fun x => !failed x.1 && !again x.1
    let s1 := (made.foldl (State.redoHeld (r.1.madeAt made)) r.1).lay h.ins (r.1.laidBy made)
    let kept := xs.filter fun x => !failed x.1 && again x.1
    let faults := kept.zipIdx.filterMap fun x => match x.1.2 with
      | .again n => some (x.2, x.1.1.va, n)
      | .ok _ _ | .failed | .dmode _ | .gone => none
    let rest := kept.filterMap fun x => match x.2 with
      | .ok _ _ => some x.1
      | .again _ | .failed | .dmode _ | .gone => none
    let s2 := (s1.hold h.kind (fun k _ tok => { ((kept[k]?).map (·.1)).getD h with token := tok }) faults).holdRest rest
    s2.failHeld ((xs.filter fun x => failed x.1).map (·.1))

/-- Held accesses tried again, instruction by instruction. -/
def State.replayAll (s : State) (hs : List HeldAccess) : State :=
  (distinct (hs.map (·.start))).foldl (fun s p => s.replayInstr (hs.filter fun h => h.start == p)) s

/-- The current team's accesses held on a token taken up again, or failed. A word of an ALD or AST goes on when all of its
tokens are answered, and fails with the first (R295). A D-mode team that the fault has stopped has ended its quantum (R268). -/
def State.answerTeam (s : State) (token : Nat) (fail : Bool) : State :=
  let stopped := s.cur.d.dmode && !s.cur.hmode && s.cur.recs.isEmpty
  let s : State := { s with cur := { s.cur with qdone := s.cur.qdone || stopped } }
  let on := fun (h : HeldAccess) => h.token == token && h.failed.isNone
  let named := s.cur.held.filter on
  let mine := if fail then s.cur.held.filter fun h => named.any fun x => x == h || x.mate h else named
  let s1 := { s with cur := { s.cur with held := s.cur.held.filter fun h => !mine.contains h } }
  let s2 :=
    if fail then s1.failHeld mine
    else
      let early := mine.filter fun h => s1.cur.held.any h.mate
      (s1.holdRest early).replayAll (mine.filter fun h => !early.contains h)
  { s2 with cur := (distinct (mine.map (·.tag))).foldl Team.settleTag s2.cur }

/-! ### Traps taken at a boundary (R47, R205) -/

/-- Whether the current team may take a trap at its boundary: not in a window or its handler, not killed or stopped by a flush (R219,
R223), nor by a trap that kills its block at the commit (R274). -/
def State.takesTraps (s : State) (uid : Nat) : Bool :=
  s.cur.uid == uid && !s.cur.hmode && s.cur.window.isNone && s.cur.st == .resident && s.cur.dkill.isNone && s.blk.kill.isNone
    && s.blk.leaving != .flush

/-- TRAP_TAKE (R205, R207): a team whose path is empty or that parks takes its records; a pending course imbalance trap becomes a
record at the first boundary with AMASK 0 and room for it (R47, R205), and so do accesses that failed (R204). A path at a clause
wait is held at its header. -/
def execTrapTake (uid : Nat) (s : State) : Host.Outcome State Fault Refusal :=
  .next <|
    let s := s.focus uid
    if !s.takesTraps uid then s
    else
      let s := s.failPending
      if !s.takesTraps uid then s
      else
        let here : CodePt := match s.cur.wait with
          | .clause h _ _ _ _ _ => ⟨h, 0⟩
          | _ => s.cur.at_
        let r := { s with cur := { s.cur with at_ := here } }
        if s.cur.mask = 0 then s.takeTrap
        else
          match s.cur.apend, s.cur.amask with
          | some d, false =>
            if Config.maxRecords ≤ s.cur.recs.length then r.takeTrap
            else
              let x : TrapRec := ⟨here, here, 0x12, d, s.cur.mask⟩
              State.takeTrap { s with cur := { s.cur with apend := none, recs := s.cur.recs ++ [x], mask := 0, wait := .none } }
          | _, _ => if !s.cur.held.isEmpty && !s.cur.recs.isEmpty then r.takeTrap else s

end Sys2Proof.Machine
end

