-- ==== Sys2Proof/Machine/Engine.lean ====
section
/-! DEFINITION. Counters, copies, marks, messages and the setting-out table (R298 to R322): WAITC, YIELD, BATCH,
MARK, MARK.W, COPY, SEND, the events of their engines, and the answers to recoverable faults (R250). -/

namespace Sys2Proof.Machine

/-! ### Counters (R298 to R301) -/

/-- A counter raised by an item, complete or not. -/
def Team.raise (t : Team) (c : CCls) (it : CntItem) : Team :=
  match c with
  | .cpy => { t with cpy := retireItems (t.cpy ++ [it]) }
  | .mtx => { t with mtx := retireItems (t.mtx ++ [it]) }
  | .msg => { t with msg := retireItems (t.msg ++ [it]) }

/-- A counter at 63 keeps the team from raising it (R298). -/
def Team.counterFull (t : Team) (c : CCls) : Bool := decide (Config.maxCounter ≤ (t.counter c).length)

/-- Whether a wait on a counter is over (R299). -/
def Team.counterAt (t : Team) (c : CCls) (n : Nat) : Bool := decide ((t.counter c).length ≤ n)

def waitcBody (i : Instr) (cls : CCls) (n : Nat) (s : State) : State :=
  if !s.cur.counterAt cls n then s.stall (.counter cls n)
  else if cls == .cpy && s.cur.copyFault then s.reportRetired i
  else s.retire i 1

/-- WAITC (R299); a copy fault among the copies retired is reported by it (R307). -/
def execWaitc (dly : BitVec 3) (cls : CCls) (n : BitVec 6) (s : State) : Host.Outcome State Fault Refusal :=
  let i := Instr.waitc dly cls n
  .next (s.issue i .pt fun s => s.gate i (waitcBody i cls n.toNat))

def yieldBody (i : Instr) (cls : CCls) (n : Nat) (off : BitVec 18) (s : State) : State :=
  let target := branchTarget s.cur.at_.pc off
  if !s.cur.counterAt cls n then
    let s' := s.retire i 1
    { s' with cur := { s'.cur with at_ := ⟨target, 0⟩, wait := .yielded cls n target, yieldAt := some (cls, n, target) } }
  else if cls == .cpy && s.cur.copyFault then s.reportRetired i
  else
    let s' := s.retire i 1
    { s' with cur := { s'.cur with at_ := ⟨target, 0⟩ } }

/-- YIELD (R300): the path goes to the label at once, or when the counter lets it. -/
def execYieldC (dly : BitVec 3) (cls : CCls) (n : BitVec 6) (off : BitVec 18) (s : State) : Host.Outcome State Fault Refusal :=
  let i := Instr.yieldC dly cls n off
  .next (s.issue i .pt fun s => s.gate i (yieldBody i cls n.toNat off))

/-- The matrix instructions of batch `b` of a team that are not done (R289). -/
def State.batchOpen (s : State) (t : Team) (b : Nat) : Bool :=
  (((s.core t.core).quads.getD t.quad .reset).mtxq).any fun e => decide (e.uid = t.uid ∧ e.batch = b + 1)

/-- BATCH (R301): the open batch is closed; one without MMA or MMAS is complete at once, and one whose instructions are done already.
A batch with instructions of a D-mode team completes at a commit, whenever they are done (R274). -/
def execBatch (dly : BitVec 3) (s : State) : Host.Outcome State Fault Refusal :=
  let i := Instr.batch dly
  .next <| s.issue i .pt fun s =>
    if s.cur.counterFull .mtx then s.stall (.full .mtx)
    else
      let t := s.cur.raise .mtx ⟨s.cur.batch, if s.cur.d.dmode then !s.cur.opened else !s.batchOpen s.cur s.cur.batch⟩
      State.retire { s with cur := { t with batch := t.batch + 1, opened := false } } i 1

/-- The batches of a team whose instructions are done complete. -/
def State.completeBatches (s : State) (t : Team) : Team :=
  { t with mtx := retireItems (t.mtx.map fun x => if s.batchOpen t x.key then x else { x with done := true }) }

/-- BATCH_COMPLETE (R289): batches of a team whose instructions are done complete; a team that was to end with its open
batch ends. Both are a commit's work in D-mode (R270, R274). -/
def execBatchComplete (uid : Nat) (s : State) : Host.Outcome State Fault Refusal :=
  .next <|
    let s := s.focus uid
    if s.cur.uid ≠ uid then s
    else
      let s1 : State := if s.cur.d.dmode then s else { s with cur := s.completeBatches s.cur }
      if !s.cur.d.dmode && s1.cur.wait == .finish && s1.cur.st == .resident && !s1.mtxBusy s1.cur then s1.endTeam else s1

/-! ### Marks (R316, R318) -/

def EntSt.settled : EntSt → Bool
  | .complete | .cancelled => true
  | .running | .faulted | .held .. => false

/-- The entries of a block with DUE ≤ n that are not complete, ascending, with whether each faulted (R318). -/
def State.lateEntries (s : State) (b : Block) (n : Nat) : List (Nat × Bool) :=
  match s.launch b.lid with
  | none => []
  | some l =>
    l.table.zipIdx.filterMap fun e =>
      if n < e.1.due then none
      else
        match l.entry b.bid e.2 with
        | some st => if st.settled then none else some (e.2, st == .faulted)
        | none => some (e.2, false)

/-- TRAPDATA of cause 0x10 (R319). -/
def lateDatum (k : Nat) (faulted : Bool) : Word := BitVec.ofNat 32 ((if faulted then 2 ^ 31 else 0) + k)

/-- MARK.W, and MARK in D-mode (R318, R270): the mark rises after the release step, and the team waits for the
entries due; a faulted one traps. LATE counts a wait, not in D-mode (R320). -/
def markWBody (i : Instr) (n : Nat) (s : State) : State :=
  if n < s.cur.mark then s.trapAll i 0x03 (encodeWord0 i)
  else if !releaseStep s.cur .dev s.cur.ins then (s.begin i 1).stall (.release .dev)
  else
    let s1 := State.pushStarts { s with cur := { s.cur with mark := n } } s.cur.bid
    let late := s1.lateEntries s1.blk n
    match late.find? (·.2), late with
    | some e, _ => { s1 with cur := { s1.cur with wait := .none } }.trapAll i 0x10 (lateDatum e.1 true)
    | none, [] =>
      let waited := s.cur.wait == .markw n && !s.cur.d.dmode
      State.retire { s1 with cur := { s1.cur with late := if waited then min (s1.cur.late + 1) 65535 else s1.cur.late } } i 1
    | none, _ :: _ => (s1.begin i 1).stall (.markw n)

def execMarkW (dly : BitVec 3) (n : BitVec 16) (s : State) : Host.Outcome State Fault Refusal :=
  let i := Instr.markW dly n
  .next (s.issue i .pt fun s => s.gate i (markWBody i n.toNat))

/-- MARK (R318): it never waits for an entry; one that is late traps and nothing changes. -/
def execMark (dly : BitVec 3) (n : BitVec 16) (s : State) : Host.Outcome State Fault Refusal :=
  let i := Instr.mark dly n
  .next <| s.issue i .pt fun s =>
    if s.cur.d.dmode then (s.begin i 1).stall (.commit i)
    else if n.toNat < s.cur.mark then s.trapAll i 0x03 (encodeWord0 i)
    else
      match s.lateEntries s.blk n.toNat with
      | e :: _ => s.trapAll i 0x10 (lateDatum e.1 e.2)
      | [] =>
        if releaseStep s.cur .dev s.cur.ins then
          State.retire (State.pushStarts { s with cur := { s.cur with mark := n.toNat } } s.cur.bid) i 1
        else (s.begin i 1).stall (.release .dev)

/-! ### COPY (R302 to R304) -/

/-- The slice that a COPY supplies. -/
def copySlice (t : Team) (a b c : Reg) (s2g : Bool) (rec : Option (BitVec 6)) : Slice :=
  ⟨t.tno, t.rsPair a.toNat, (t.rs b.toNat).toNat, (t.rs c.toNat).toNat, s2g,
    rec.map fun k => (k.toNat, (t.rs (c.toNat + 1)).toNat)⟩

/-- The checks of a COPY with a nonzero count, in order (R303). -/
def copyTrap (d : Desc) (x : Slice) : Option (Nat × Word) :=
  let ring := (x.ring.map (·.2)).getD 0
  let slot := (x.ring.map fun r => r.2 + 16 * r.1).getD 0
  if x.n = 0 then none
  else if bitsOf x.ga.toNat 63 56 ≠ 0 then some (0x08, lo32 x.ga)
  else if x.ga.toNat % 16 ≠ 0 ∨ x.off % 16 ≠ 0 ∨ x.n % 16 ≠ 0 ∨ ring % 16 ≠ 0 then some (0x05, lo32 x.ga)
  else if d.scratch < x.off + x.n then some (0x06, BitVec.ofNat 32 x.off)
  else if x.ring.isSome ∧ d.scratch < slot + 16 then some (0x06, BitVec.ofNat 32 slot)
  else none

/-- A slice joined to the block's `k`-th copy (R304). -/
def addSlice (cs : List Copy) (k : Nat) (x : Slice) : List Copy :=
  if cs.any fun c => c.k = k then cs.map fun c => if c.k = k then { c with slices := c.slices ++ [x] } else c
  else cs ++ [⟨k, [x], false, false, 0, [], []⟩]

/-- A slice supplied once the release step holds; cpy rises and the copy may start (R272, R304); in D-mode copies start at
the commit (R270). -/
def copyBody (i : Instr) (x : Slice) (s : State) : State :=
  if !releaseStep s.cur .dev s.cur.ins then (s.begin i 1).stall (.release .dev)
  else
    let k := s.blk.suppliedBy x.tno
    let b := { s.blk with
      copies := addSlice s.blk.copies k x
      supplied := (x.tno, k + 1) :: s.blk.supplied.filter fun y => y.1 ≠ x.tno }
    (State.retire { s with blk := b, cur := { s.cur.raise .cpy ⟨k, false⟩ with kept := none } } i 1).startCopies s.cur.bid

/-- COPY (R302, R303): its operands are read and checked once, when it issues. -/
def execCopy (dly : BitVec 3) (a b c : Reg) (s2g : Bool) (rec : Option (BitVec 6)) (s : State) :
    Host.Outcome State Fault Refusal :=
  let i := Instr.copy dly a b c s2g rec
  .next <| s.issue i .pt fun s =>
    match s.cur.kept with
    | some (.copy x) => s.gate i (copyBody i x)
    | some (.send _) | none =>
      if s.cur.counterFull .cpy then s.stall (.full .cpy)
      else
        let x := copySlice s.cur a b c s2g rec
        match copyTrap s.cur.d x with
        | some (cause, datum) => s.trapAll i cause datum
        | none => State.gate { s with cur := { s.cur with kept := some (.copy x) } } i (copyBody i x)

/-! ### The block-transfer engine (R305 to R307) -/

def Copy.sorted (c : Copy) : List Slice := sortBy (·.tno) c.slices

/-- What slices of one copy must share (R307): DIR, REC and, with REC, the tag and the ring. -/
def Slice.kind (x : Slice) : Bool × Option (Nat × Nat) := (x.s2g, x.ring)

/-- The lowest-numbered team whose slice differs from that of the lowest-numbered team (R307). -/
def Copy.differs (c : Copy) : Option Nat :=
  match c.sorted with
  | [] => none
  | x :: r => (r.find? fun y => Slice.kind y != Slice.kind x).map (·.tno)

/-- The beats of a copy: a slice and a byte of it, 64 bytes each (R305). -/
def Copy.beats (c : Copy) : List (Slice × Nat) :=
  c.sorted.flatMap fun x => (List.range (ceilDiv x.n 64)).map fun j => (x, 64 * j)

/-- One 16-byte piece of a beat, translated. -/
structure Piece where
  va : DWord
  off : Nat
  res : XRes
  deriving DecidableEq, Repr

/-- Aligned 8-byte units of some writes of which a free choice is made: old or new (R305, R307, R315). -/
def tornUnits (free : Nat) (us : List (Nat × List Byte)) : List (Nat × List Byte) :=
  us.zipIdx.filterMap fun u => if Config.unitNew (free + u.2) then some u.1 else none

/-- Bytes as units of 8. -/
def unitsOf (a : Nat) (bs : List Byte) : List (Nat × List Byte) :=
  (List.range (ceilDiv bs.length 8)).map fun k => (a + 8 * k, (bs.drop (8 * k)).take 8)

/-- The physical address behind a refused translation, where one was formed (R218). -/
def State.formed (s : State) (pier asid : Nat) (va : DWord) : Option Nat :=
  (s.cached none pier asid va.toNat).map fun e => e.frame + va.toNat % 2 ^ e.log

/-- What a translation that failed says of a copy fault: KIND, WHERE and DATA (R218, R308). -/
def State.copyFaultOf (s : State) (b : Block) (tno : Nat) (p : Piece) : Option CopyFault :=
  match p.res with
  | .ok _ _ => none
  | .fault r => some ⟨tno, if r = 1 then 2 else 1, p.va, 1⟩
  | .refused =>
    match s.formed (b.home / 4) b.d.asid p.va with
    | some pa => some ⟨tno, 2, BitVec.ofNat 64 pa, 0⟩
    | none => some ⟨tno, 2, p.va, 1⟩
  | .violation _ _ | .dead _ => some ⟨tno, 1, p.va, 1⟩

/-- Scratchpad bytes of a slice that no slice of a higher-numbered team covers (R305). -/
def keepBytes (c : Copy) (tno off : Nat) (bs : List Byte) : List Host.Cell :=
  bs.zipIdx.filterMap fun b =>
    let o := off + b.2
    if c.slices.any fun y => decide (tno < y.tno ∧ y.off ≤ o ∧ o < y.off + y.n) then none else some (o, b.1)

/-- Cells put into the block's scratchpad. -/
def State.spadCells (s : State) (cells : List Host.Cell) : State :=
  { s with blk := { s.blk with
      spad := cells.foldl (fun m c => memWrite m c.1 c.2) s.blk.spad
      spadBad := s.blk.spadBad.filter fun b => !(cells.any fun c => c.1 == b) } }

/-- Copy `k` of the current block changed. -/
def State.onCopy (s : State) (k : Nat) (f : Copy → Copy) : State :=
  { s with blk := { s.blk with copies := s.blk.copies.map fun c => if c.k = k then f c else c } }

/-- The pieces of a beat translated in the launch's ASID, through the home core's pier. -/
def State.beatPieces (s : State) (b : Block) (x : Slice) (off : Nat) : State × List Piece :=
  let k : AccKind := if x.s2g then .store else .load
  (List.range (ceilDiv (min 64 (x.n - off)) 16)).foldl (fun (a : State × List Piece) j =>
    let va := x.ga + BitVec.ofNat 64 (off + 16 * j)
    let (s', r) := a.1.translate none (b.home / 4) b.d.part b.d.asid va k 16
    (s', a.2 ++ [⟨va, off + 16 * j, r⟩])) (s, [])

/-- A piece moved between an address and scratchpad; a torn one by 8-byte units. -/
def State.movePiece (s : State) (c : Copy) (x : Slice) (pa off : Nat) (torn : Bool) : State :=
  if x.s2g then
    let us := unitsOf pa (memReadN s.blk.spad (x.off + off) 16)
    let s1 := if torn then { s with free := s.free + 2 } else s
    (if torn then tornUnits s.free us else us).foldl (fun s u => s.writeAt u.1 u.2) s1
  else
    let (s1, v) := s.readAt pa 16
    let us := unitsOf (x.off + off) (bytesOf 16 v)
    let s2 := if torn then { s1 with free := s1.free + 2 } else s1
    (if torn then tornUnits s.free us else us).foldl (fun s u => s.spadCells (keepBytes c x.tno u.1 u.2)) s2

/-- A beat that cannot be made: its block is killed where its ASID is no longer live (R327), no port is left (R332), or a table
cannot be read (R240); before a frozen walker it is held, with reason 3 and no page request, until the walker is released
(R220; log 109). -/
def State.deadBeat (s : State) (n : Nat) (x : Slice) (off : Nat) (k : Dead) (va : DWord) : State :=
  match k.kill s.blk.d 0x05 va va 1 (s.engineId s.blk.home 0) with
  | some i => s.killWith s.blk.bid i
  | none =>
    State.onCopy { s with nextToken := s.nextToken + 1 } n
      fun c => { c with holds := c.holds ++ [(s.nextToken, x.tno, off, 3, va)] }

/-- The fault that a copy already holds on the page of an address, by its token. -/
def Copy.holding (c : Copy) (va : DWord) : Option Nat :=
  (c.holds.find? fun h => h.2.2.2.1 != 3 && h.2.2.2.2.toNat / 4096 == va.toNat / 4096).map (·.1)

/-- A beat held on a recoverable fault, by a page request with the engine's SRCID (R249, R307); beats of one copy that fault on
one page share the fault. -/
def State.holdBeat (s : State) (k : Nat) (x : Slice) (off : Nat) (va : DWord) (reason : Nat) : State :=
  let b := s.blk
  match (b.copies.find? fun c => c.k = k).bind fun c => c.holding va with
  | some tok => s.onCopy k fun c => { c with holds := c.holds ++ [(tok, x.tno, off, reason, va)] }
  | none =>
  let tok := s.nextToken
  let kind : AccKind := if x.s2g then .store else .load
  let s1 := s.pageRequest (s.funcOf b.lid b.d.part) b.d.asid va kind reason (s.engineId b.home 0) tok
  State.onCopy { s1 with nextToken := tok + 1, holders := (tok, .copy b.bid) :: s1.holders } k
    fun c => { c with holds := c.holds ++ [(tok, x.tno, off, reason, va)] }

/-- One beat of a slice of the current block's copy (R305, R307, R220): a violation freezes the engine and moves
nothing; a recoverable fault holds the beat; a fault leaves its bytes old or new by units; else the beat moves. -/
def State.beat (s : State) (c : Copy) (x : Slice) (off : Nat) : State :=
  let b := s.blk
  let (s1, ps) := s.beatPieces b x off
  let viol := ps.findSome? fun p =>
    match p.res with
    | .violation w pa => some (w, pa)
    | _ => none
  let dead := ps.findSome? fun p =>
    match p.res with
    | .dead k => some (k, p.va)
    | _ => none
  let held := ps.findSome? fun p =>
    match p.res with
    | .fault r => if (s1.asid b.d.asid).recov then some (p.va, r) else none
    | _ => none
  let good := ps.filterMap fun p =>
    match p.res with
    | .ok pa _ => some (pa, p.off)
    | _ => none
  match dead, viol, held with
  | some (k, va), _, _ => s1.deadBeat c.k x off k va
  | none, some (true, pa), _ => s1.isolateWalker b.d.part (b.home / 4) pa
  | none, some (false, pa), _ =>
    (s1.isolate b.d.part 0x05 (s1.engineId b.home 0) (some b.lid) (BitVec.ofNat 64 pa) 0).onCore b.home
      fun k => { k with bteFrozen := true }
  | none, none, some (va, r) => s1.holdBeat c.k x off va r
  | none, none, none =>
    let bad := good.filterMap fun g =>
      if (if x.s2g then s1.blk.badSpad (x.off + g.2) 16 else s1.badData g.1 16) then some (⟨x.tno, 4, BitVec.ofNat 64 g.1, 0⟩ : CopyFault) else none
    let faults := ps.filterMap (s1.copyFaultOf b x.tno) ++ bad
    let s2 := good.foldl (fun s g => s.movePiece c x g.1 g.2 (!faults.isEmpty)) s1
    s2.onCopy c.k fun c => { c with faults := c.faults ++ faults }

/-- Whether a block's copies run: they are abandoned by a kill or a flush (R219, R223), and run in a commit in D-mode (R270). -/
def Block.copying (b : Block) : Bool := b.kill.isNone && b.leaving != .flush && !b.d.dmode

/-- A cycle's beat charged to the home core: 0.2 A (R38). -/
def State.chargeBeat (s : State) (core : Nat) : State := s.onCore core fun k => { k with acts := addAt 0 40 k.acts }

/-- COPY_BEAT (R305): the next beat of the block's oldest started copy that has one, on an open cycle. -/
def execCopyBeat (bid : Nat) (s : State) : Host.Outcome State Fault Refusal :=
  .next <|
    let s0 := s.focusBlock bid
    let c? := s0.blk.copies.find? fun c => c.started && c.differs.isNone && decide (c.beat < c.beats.length)
    match c? with
    | none => s
    | some c =>
      match c.beats.drop c.beat with
      | [] => s
      | (x, off) :: _ =>
        if s0.blk.bid ≠ bid || !s0.blk.copying || (s0.core s0.blk.home).bteFrozen || !s0.openCycle s0.blk.home then s
        else
          let s1 := (s0.chargeBeat s0.blk.home).onCopy c.k fun c => { c with beat := c.beat + 1 }
          s1.beat c x off

/-- The fault a copy reports (R307): for slices that differ KIND 3, else the lowest KIND of the lowest-numbered team. -/
def Copy.report (c : Copy) : Option CopyFault :=
  match c.differs with
  | some t => some ⟨t, 3, 0, 0⟩
  | none => minBy (fun f => f.tno * 8 + f.kind) c.faults

/-- A copy's record (R306). -/
def copyRecord (c : Copy) (idem : Bool) (tag : Nat) (clock : DWord) : List Byte :=
  let f := c.report
  let kind := (f.map (·.kind)).getD 0
  let bytes := if kind = 3 then 0
    else ((c.slices.filter fun x => !(c.faults.any fun g => g.tno = x.tno)).map (·.n)).foldl (· + ·) 0
  bytesOf 1 (if f.isSome then 1 else 0) ++ bytesOf 1 kind
    ++ bytesOf 2 (if f.isSome then faultCode (if idem then 0 else 1) 0x05 0x11 else 0) ++ bytesOf 4 bytes
    ++ bytesOf 1 tag ++ bytesOf 1 ((f.map (·.tno)).getD 0) ++ bytesOf 2 0 ++ bytesOf 4 clock.toNat

/-- CPYERR after a copy fault (R308). -/
def cpyerrOf (f : CopyFault) (ring : Option (Nat × Nat)) : Word :=
  BitVec.ofNat 32 (2 ^ 31 + f.kind * 2 ^ 24 + f.tno * 2 ^ 17 + (if ring.isSome then 2 ^ 16 else 0)
    + (ring.map (·.1)).getD 0 * 2 ^ 10)

/-- A copy of the current block finished: its record, CPYERR and unreported faults, its items of cpy (R306, R307). -/
def State.finishCopy (s : State) (c : Copy) : State :=
  let b := s.blk
  let ring := ((c.sorted.head?).map (·.ring)).getD none
  let has := fun (t : Team) => c.slices.any fun x => x.tno = t.tno
  let s1 := match ring with
    | some (tag, base) => s.spadPut (base + 16 * tag) (copyRecord c b.d.idem tag s.clock)
    | none => s
  let s2 := { s1 with blk := { s1.blk with copies := s1.blk.copies.filter fun x => x.k ≠ c.k } }
  let s3 := s2.onBlockTeams b.bid fun t => if has t then { t with cpy := doneItem t.cpy c.k } else t
  match c.report with
  | none => s3
  | some f =>
    let s4 := s3.onBlockTeams b.bid fun t =>
      if has t then
        { t with cpyerr := cpyerrOf f ring
                 unreported := if ring.isNone && t.st != .ended then t.unreported ++ [c.k] else t.unreported }
      else t
    if ring.isNone && !((s4.liveTeams b.bid).any has) then
      s4.killWith b.bid ⟨0x11, 0x05, if b.d.idem then 0 else 1, f.wher, f.data, s.engineId b.home 0, true⟩
    else s4

/-- Whether a copy has nothing left to do. -/
def Copy.finished (c : Copy) : Bool :=
  c.started && c.holds.isEmpty && (c.differs.isSome || decide (c.beats.length ≤ c.beat))

/-- COPY_COMPLETE (R305): the block's oldest finished copy. -/
def execCopyComplete (bid : Nat) (s : State) : Host.Outcome State Fault Refusal :=
  .next <|
    let s0 := s.focusBlock bid
    match s0.blk.copies.find? Copy.finished with
    | none => s
    | some c => if s0.blk.bid ≠ bid || !s0.blk.copying || (s0.core s0.blk.home).bteFrozen then s else s0.finishCopy c

/-! ### SEND and MESSAGE_ACCEPT (R86, R87, R310 to R312) -/

/-- Why a lane's SEND traps: a core number of 192 or more, or no handler table or no right to use it. -/
def State.sendTrap (s : State) (core : Word) : Option Word :=
  let low := core &&& 0xFF
  if Config.numCores ≤ core.toNat then some low
  else if (s.part s.cur.d.part).handlers.isNone || !s.cur.d.messages then some (low ||| 0x100)
  else none

/-- SEND (R311): one message for each selected lane, its operands read when it issues, put into the channel after the release
step (R274). -/
def execSend (dly : BitVec 3) (g : Guard) (a b : Reg) (h : BitVec 8) (w : BitVec 4) (s : State) :
    Host.Outcome State Fault Refusal :=
  let i := Instr.send dly g a b h w
  .next <| s.issue i g fun s =>
    if s.cur.d.dmode then s.trapAll i 0x15 2
    else if s.cur.counterFull .msg then s.stall (.full .msg)
    else
      let ms := match s.cur.kept with
        | some (.send ms) => ms
        | some (.copy _) | none => (lanesOf (selectedLanes s.cur s.now g)).map fun l =>
            let v := s.viewOf i g l
            (l, (v.rv a.toNat l).val, (List.range w.toNat).map fun k => (v.rv (b.toNat + k) l).val)
      if !releaseStep s.cur .dev s.cur.ins then
        (State.begin { s with cur := { s.cur with kept := some (.send ms) } } i (s.passes i g)).stall (.release .dev)
      else
        let hits := ms.foldl (fun hs x =>
          match s.sendTrap x.2.1 with
          | some d => addHit hs x.1 0x16 d
          | none => hs) []
        let ok := ms.filter fun x => (s.sendTrap x.2.1).isNone
        if ok.any fun x => !ownsCore (s.part s.cur.d.part) x.2.1.toNat then s.isolateTeam
        else
          State.withHits { s with cur := { s.cur with kept := none } } i hits fun s =>
            let key := s.nextId
            let queue := (s.launch s.cur.lid).map fun l => (l.f, l.q)
            let sent := ok.map fun x =>
              (⟨x.2.1.toNat, h.toNat, x.2.2, s.srcid s.cur, s.cur.uid, key, s.cur.lid, queue⟩ : Message)
            State.retire { s with channel := s.channel ++ sent, nextId := key + 1, cur := s.cur.raise .msg ⟨key, sent.isEmpty⟩ } i
              (s.passes i g)

/-- The entry that a message names, if it is not empty (R85, R87). -/
def HandlerTable.entry? (t : HandlerTable) (h : Nat) : Option HandlerEntry :=
  (t.entries[h]?).bind fun e => if e.entry = 0 then none else some e

/-- MESSAGE_ACCEPT (R86, R87): a message of the channel goes into its core's inbox if there is room; one without a
handler is discarded with a fault, whose UNIT is the cores' (log 53). The sender's item completes with its last message. -/
def execMessageAccept (idx : Nat) (s : State) : Host.Outcome State Fault Refusal :=
  .next <|
    match s.channel[idx]? with
    | none => s
    | some m =>
      if Config.inboxSize ≤ (s.core m.dst).inbox.length then s
      else
        let p := s.partOfCore m.dst
        let s1 := { s with channel := s.channel.eraseIdx idx }
        let known := (s.part p).handlers.bind fun t => t.entry? m.handler
        let s2 := match known with
          | some _ => s1.onCore m.dst fun k => { k with inbox := k.inbox ++ [m] }
          | none => s1.postFault (s1.lowestFunc p) ⟨faultCode 0 0x00 0x16, p, 0xFF, 0, 0, m.src, 0⟩
        if s2.channel.any fun x => decide (x.uid = m.uid ∧ x.key = m.key) then s2
        else s2.onTeam m.uid fun t => { t with msg := doneItem t.msg m.key }

/-! ### The setting-out table (R315 to R317, R321) -/

/-- The ranges an entry works on for a block (R315): slice address and global address. -/
def SetEntry.slicePa (e : SetEntry) (index : Nat) : Nat := Machine.slicePa e.slice (e.soff + index * e.sstride)
def SetEntry.global (e : SetEntry) (index : Nat) : DWord := e.gaddr + BitVec.ofNat 64 (index * e.gstride)

/-- Whether an entry may start for a block (R316). -/
def State.entryMayStart (s : State) (b : Block) (l : Launch) (idx : Nat) (e : SetEntry) : Bool :=
  b.live && b.kill.isNone && b.leaving != .flush && (l.entry b.bid idx).isNone && !(s.slices.getD e.slice .reset).tierFrozen
    && match s.blockMark b.bid with
       | some m => decide (e.issue ≤ m)
       | none => false

/-- The state of an entry's run changed. -/
def State.setEntry (s : State) (lid bid idx : Nat) (st : EntSt) : State :=
  s.onLaunch lid fun l => { l with ents := l.ents.map fun e => if e.bid = bid ∧ e.idx = idx then { e with st := st } else e }

/-- What an entry does (R315): its chunks of 256 bytes as far as they translate, the writes as 8-byte units, and
what stopped it: a violation, a held fault, or a fault with WHERE and DATA. -/
inductive EntStop where
  | violation (byWalker : Bool) (pa : Nat)
  | held (va : DWord) (reason : Nat)
  | fault (wher : DWord) (data : Word)
  | dead (why : Dead) (va : DWord)
  deriving DecidableEq, Repr

structure EntWork where
  st : State
  units : List (Nat × List Byte)
  stop : Option EntStop
  deriving DecidableEq, Repr

/-- One chunk of a FETCH (kind 0) or of a WRITEBACK or EVICT. -/
def EntWork.chunk (e : SetEntry) (d : Desc) (index : Nat) (w : EntWork) (j : Nat) : EntWork :=
  if w.stop.isSome then w
  else
    let va := e.global index + BitVec.ofNat 64 (256 * j)
    let spa := e.slicePa index + 256 * j
    let k : AccKind := if e.kind = 0 then .load else .store
    let (s, r) := w.st.translate none e.slice d.part d.asid va k 256
    match r with
    | .ok pa _ =>
      let src := if e.kind = 0 then pa else spa
      if s.badData src 256 then { w with st := s, stop := some (.fault (BitVec.ofNat 64 src) 0) }
      else
        { w with
          st := if e.kind = 0 then s.activate pa else s
          units := w.units ++ unitsOf (if e.kind = 0 then spa else pa) (s.bytesAt src 256) }
    | .fault reason =>
      if (s.asid d.asid).recov then { w with st := s, stop := some (.held va reason) }
      else { w with st := s, stop := some (.fault va 1) }
    | .refused =>
      match s.formed e.slice d.asid va with
      | some pa => { w with st := s, stop := some (.fault (BitVec.ofNat 64 pa) 0) }
      | none => { w with st := s, stop := some (.fault va 1) }
    | .violation b pa => { w with st := s, stop := some (.violation b pa) }
    | .dead k => { w with st := s, stop := some (.dead k va) }

def zeroUnits (pa n : Nat) : List (Nat × List Byte) := unitsOf pa (List.replicate n 0)

def State.entryWork (s : State) (e : SetEntry) (d : Desc) (index : Nat) : EntWork :=
  match e.kind with
  | 3 => ⟨s, zeroUnits (e.slicePa index) e.len, none⟩
  | 4 => ⟨s, [], none⟩
  | k =>
    let w := (List.range (e.len / 256)).foldl (EntWork.chunk e d index) ⟨s, [], none⟩
    if k = 2 && w.stop.isNone then { w with units := w.units ++ zeroUnits (e.slicePa index) e.len } else w

def State.putUnits (s : State) (us : List (Nat × List Byte)) : State := us.foldl (fun s u => s.writeAt u.1 u.2) s

/-- Units of which each holds its old or its new value (R315). -/
def State.putTorn (s : State) (us : List (Nat × List Byte)) : State :=
  { s.putUnits (tornUnits s.free us) with free := s.free + us.length }

/-- An entry faulted for its block, with one record (R317). -/
def State.faultEntry (s : State) (l : Launch) (bid idx : Nat) (e : SetEntry) (wher : DWord) (data : Word) : State :=
  let code := faultCode 1 0x06 0x11
  ((s.setEntry l.lid bid idx .faulted).postFault [l.f]
    ⟨code, l.d.part, l.q, l.tag, wher, s.engineId (192 + e.slice) 1, data⟩).launchFault l.lid code

/-- A tier engine frozen by a violation: the entries it runs count as faulted (R220, R317). -/
def State.freezeTier (s : State) (l : Launch) (e : SetEntry) (pa : Nat) : State :=
  let s1 := s.isolate l.d.part 0x06 (s.engineId (192 + e.slice) 1) (some l.lid) (BitVec.ofNat 64 pa) 0
  let stop := fun (x : Launch) (r : EntRun) =>
    if (x.table.getD r.idx e).slice = e.slice && !r.st.settled then { r with st := EntSt.faulted } else r
  { s1 with
    slices := upd s1.slices e.slice fun h => { h with tierFrozen := true }
    launches := s1.launches.map fun x => { x with ents := x.ents.map (stop x) } }

/-- Entries of the block that a DROP cancels (R315): earlier ones, started and not complete, that touch its range. One that has
faulted never completes, and stays faulted (R317). -/
def dropped (l : Launch) (bid index idx : Nat) (e : SetEntry) : List (Nat × SetEntry) :=
  l.table.zipIdx.filterMap fun x =>
    let lo := e.slicePa index
    let lo' := x.1.slicePa index
    let on := match l.entry bid x.2 with
      | some .running | some (.held ..) => true
      | _ => false
    if x.2 < idx && on && x.1.slice = e.slice && decide (lo < lo' + x.1.len ∧ lo' < lo + e.len) then some (x.2, x.1) else none

/-- The writes of a launch that are made: none to the host where its function's traffic has stopped (R340; log 128). -/
def State.uncut (s : State) (lid part : Nat) (us : List (Nat × List Byte)) : List (Nat × List Byte) :=
  us.filter fun u => !s.severed lid part u.1

/-- An entry cancelled (R315, R321): units it had not finished hold their old or new value. -/
def State.cancelEntry (s : State) (l : Launch) (bid index : Nat) (x : Nat × SetEntry) : State :=
  let w := s.entryWork x.2 l.d index
  let s1 := s.putTorn (s.uncut l.lid l.d.part w.units)
  { s1.setEntry l.lid bid x.1 .cancelled with
    holders := s1.holders.filter fun h => h.2 != .entry l.lid x.1 bid }

/-- An entry started for a block, if it may (R316, R220): one that would reach another partition freezes its engine, or the table
walker, and counts as faulted; a DROP cancels. An engine starts its entries in table order. -/
def State.startEntry (s : State) (bid idx : Nat) : State :=
  match s.block bid with
  | none => s
  | some b =>
    match s.launch b.lid with
    | none => s
    | some l =>
      match l.table[idx]? with
      | none => s
      | some e =>
        let before := l.table.zipIdx.any fun x => decide (x.2 < idx) && x.1.slice == e.slice && s.entryMayStart b l x.2 x.1
        if !s.entryMayStart b l idx e || before then s
        else
          let s1 := s.onLaunch l.lid fun l => { l with ents := l.ents ++ [⟨bid, b.index, idx, .running⟩] }
          if e.kind = 4 then (dropped l bid b.index idx e).foldl (fun s x => s.cancelEntry l bid b.index x) s1
          else
            match (s1.entryWork e l.d b.index).stop with
            | some (.violation true pa) => (s1.isolateWalker l.d.part e.slice pa).setEntry l.lid bid idx .faulted
            | some (.violation false pa) => s1.freezeTier l e pa
            | _ => s1

/-- SETOUT_ENTRY_START (R316); in D-mode entries start at a commit (R270). -/
def execSetoutEntryStart (bid idx : Nat) (s : State) : Host.Outcome State Fault Refusal :=
  .next (if ((s.block bid).map (·.d.dmode)).getD false then s else s.startEntry bid idx)

/-- An entry whose ASID is not live, that finds no port left, or that needs a table that cannot be read: its block is killed, and
it is faulted (R327, R332, R240). Before a frozen walker it waits, unless its partition is quarantined, whose entries do not run
any more: it is faulted (R220; log 109). -/
def State.deadEntry (s : State) (w : EntWork) (l : Launch) (r : EntRun) (e : SetEntry) (k : Dead) (va : DWord) : State :=
  let torn := fun (_ : Unit) => (w.st.putTorn w.units).setEntry l.lid r.bid r.idx .faulted
  match k.kill l.d 0x06 va va 1 (s.engineId (192 + e.slice) 1) with
  | some i => (torn ()).killWith r.bid i
  | none => if (s.part l.d.part).st == .quarantined then torn () else s

/-- A running entry carried out: complete, held, or faulted. -/
def State.runEntry (s : State) (l : Launch) (r : EntRun) (e : SetEntry) : State :=
  let w := s.entryWork e l.d r.index
  match w.stop with
  | none => (w.st.putUnits w.units).setEntry l.lid r.bid r.idx .complete
  | some (.violation true pa) => (w.st.isolateWalker l.d.part e.slice pa).setEntry l.lid r.bid r.idx .faulted
  | some (.violation false pa) => w.st.freezeTier l e pa
  | some (.fault wher data) => (w.st.putTorn w.units).faultEntry l r.bid r.idx e wher data
  | some (.dead k va) => s.deadEntry w l r e k va
  | some (.held va reason) =>
    let tok := w.st.nextToken
    let k : AccKind := if e.kind = 0 then .load else .store
    let s1 := w.st.pageRequest l.f l.d.asid va k reason (w.st.engineId (192 + e.slice) 1) tok
    State.setEntry { s1 with nextToken := tok + 1, holders := (tok, .entry l.lid r.idx r.bid) :: s1.holders } l.lid r.bid r.idx
      (.held tok va)

/-- SETOUT_ENTRY_COMPLETE (R315, R316): a running entry has moved its bytes. The block may have ended or be saved. Those of a
D-mode launch run in its commits (R274). -/
def execSetoutEntryComplete (bid idx : Nat) (s : State) : Host.Outcome State Fault Refusal :=
  .next <|
    let l? := s.launches.find? fun l => l.ents.any fun r => decide (r.bid = bid ∧ r.idx = idx)
    match l? with
    | none => s
    | some l =>
      match l.ents.find? fun r => decide (r.bid = bid ∧ r.idx = idx), l.table[idx]? with
      | some r, some e =>
        if r.st == .running && !l.d.dmode && !(s.slices.getD e.slice .reset).tierFrozen then s.runEntry l r e else s
      | _, _ => s

/-! ### PRESP (R250) -/

/-- A held beat of the current block's copies answered. -/
def State.answerCopy (s : State) (token : Nat) (fail : Bool) : State :=
  match s.blk.copies.find? fun c => c.holds.any fun h => h.1 = token with
  | none => s
  | some c =>
    let mine := c.holds.filter fun h => h.1 = token
    let s1 := s.onCopy c.k fun c => { c with holds := c.holds.filter fun h => h.1 ≠ token }
    mine.foldl (fun s h =>
      match c.slices.find? fun x => x.tno = h.2.1 with
      | none => s
      | some x =>
        if fail then
          let (s2, ps) := s.beatPieces s.blk x h.2.2.1
          let s3 := ps.foldl (fun (s : State) p =>
            match p.res with
            | .ok pa _ => s.movePiece c x pa p.off true
            | .fault _ | .refused | .violation .. | .dead _ => s) s2
          s3.onCopy c.k fun c =>
            { c with faults := c.faults ++ [⟨x.tno, if h.2.2.2.1 = 1 then 2 else 1, h.2.2.2.2, 1⟩] }
        else s.beat c x h.2.2.1) s1

/-- A held entry answered: it runs on, or it is faulted. -/
def State.answerEntry (s : State) (lid idx bid : Nat) (fail : Bool) : State :=
  match s.launch lid with
  | none => s
  | some l =>
    match l.table[idx]?, l.ents.find? fun r => decide (r.bid = bid ∧ r.idx = idx) with
    | some e, some r =>
      match r.st with
      | .held _ va =>
        if fail then
          let w := s.entryWork e l.d r.index
          (w.st.putTorn w.units).faultEntry l bid idx e va 1
        else s.setEntry lid bid idx .running
      | .running | .complete | .faulted | .cancelled => s
    | _, _ => s

/-- A recoverable fault of function `f` answered (R250): one no longer held is ignored, and so is that of a saved block, or of a D-mode
launch part of which is saved, which replays the access when it is restored (R228). A team's RETRY before a frozen table walker
waits for its release (R220; log 109). -/
def State.answer (s : State) (f token : Nat) (fail : Bool) : State :=
  match s.holders.lookup token with
  | none => s
  | some h =>
    let s1 := { s with holders := s.holders.filter fun x => x.1 ≠ token }
    match h with
    | .team uid =>
      let s2 := s1.focus uid
      if s2.cur.uid ≠ uid || s2.funcOf s2.cur.lid s2.cur.d.part ≠ f
          || (s2.cur.d.dmode && s.saved.any fun b => b.blk.lid == s2.cur.lid) then s
      else if !fail && (s.pier (s2.cur.core / 4)).walkerFrozen then { s2 with holders := (token, .retried uid) :: s2.holders }
      else s2.answerTeam token fail
    | .retried _ => s
    | .copy bid =>
      let s2 := s1.focusBlock bid
      if s2.blk.bid = bid && s2.funcOf s2.blk.lid s2.blk.d.part = f then s2.answerCopy token fail else s
    | .entry lid idx bid => if ((s.launch lid).map (·.f)).getD f = f then s1.answerEntry lid idx bid fail else s

/-- PRESP_RETRY and PRESP_FAIL (R250, R327). -/
def execPrespRetry (f token : Nat) (s : State) : Host.Outcome State Fault Refusal := .next (s.answer f token false)
def execPrespFail (f token : Nat) (s : State) : Host.Outcome State Fault Refusal := .next (s.answer f token true)

end Sys2Proof.Machine
end

