-- ==== Sys2Proof/Machine/Predict.lean ====
section
/-! DEFINITION. The outcome of a predicted branch (R146 to R150): what a window holds commits item by item, a selective
replay issues its items again for the lanes left out, and a full replay discards it. -/

namespace Sys2Proof.Machine

/-! ### What a window holds -/

/-- The lanes that trapped at item `k` of a window or later. -/
def Window.trappedFrom (w : Window) (k : Nat) : LaneMask :=
  maskOf ((w.passes.filter fun p => decide (k ≤ p.item)).flatMap fun p => (p.rs.filter fun r => r.2.trap.isSome).map (·.1))

/-- The window with what it holds of some lanes alone (R146). The other lanes of its scratchpad passes have accessed the scratchpad:
they count in the passes' cycles (R238). -/
def Window.onLanes (w : Window) (m : LaneMask) : Window :=
  { w with
    passes := w.passes.map fun p => { p with rs := p.rs.filter fun r => m.getLsbD r.1 }
    mem := w.mem.filter fun x => m.getLsbD x.2.lane
    spad := w.spad.map fun x => { x with kept := x.kept && m.getLsbD x.lane } }

/-- The lanes' results of an item, word by word and lanes rising, as one issue for all of them gives them. -/
def Window.itemRes (w : Window) (k : Nat) : List (Nat × List (Nat × LaneRes)) :=
  let rs := sortBy (·.1) ((w.passes.filter fun p => p.item == k).flatMap (·.rs))
  (sortBy id (distinct (rs.map fun r => r.1 / 32))).map fun x => (x, rs.filter fun r => r.1 / 32 == x)

/-- The place after an item. -/
def WinItem.next (x : WinItem) : CodePt :=
  match x.what with
  | .instr i => nextPt x.start i
  | .word _ _ len => ⟨x.start.pc + BitVec.ofNat 64 (4 * len), x.start.left - 1⟩

/-- The window given up from item `k` on: the team stands at that item with the lanes that came to it, and issues it as any
other; the tags that the items dropped had set are clear. -/
def State.truncate (s : State) (w : Window) (k : Nat) : State :=
  match w.items[k]? with
  | none => { s with cur := { s.cur with window := none } }
  | some x =>
    let t := ((w.items.drop k).filterMap fun y =>
      match y.what with
      | .instr i => tagOf i
      | .word .. => none).foldl Team.clearTag s.cur
    let keep := (w.redo.map (·.keep)).getD 0
    { s with cur := { t with window := none, at_ := x.start, mask := t.mask ||| keep ||| w.trappedFrom k, wait := .none }, sel := false }

/-- Whether the header before an item waits for every fixed-latency result (R95): a replay waits there too. -/
def Window.drains (w : Window) (k : Nat) : Bool := (w.items[k]?).any (·.drain)

/-! ### Commit (R146) -/

/-- The passes of the LDS and STS lanes of an item: each word's of the window and of its replay, by the cycle at which it issued. -/
def spadIssues (xs : List WinSpad) : List (List WinSpad) :=
  (sortBy id (distinct (xs.map fun x => x.lane / 32))).flatMap fun w =>
    let mine := xs.filter fun x => x.lane / 32 == w
    (sortBy id (distinct (mine.map (·.cycle)))).map fun n => sortBy (·.lane) (mine.filter fun x => x.cycle == n)

/-- The LDS and STS lanes of an item carried out, in lane order; each pass is complete as long after its issue as it takes
(R238). -/
def State.commitSpad (s : State) (xs : List WinSpad) : State :=
  let mate := s.cur.core != s.blk.home
  let s0 := (sortBy (·.lane) (xs.filter fun x => x.kept && x.load.isNone)).foldl (fun (s : State) x => s.stsLane x.lane x.off x.bytes) s
  (spadIssues xs).foldl (fun s mine =>
    let r := (mine.filter (·.kept)).foldl (fun (a : State × List RegWrite) x =>
      match x.load with
      | some (size, d) => (a.1, a.2 ++ laneRegs d x.lane (loadRegs size (a.1.spadNum x.off (ldBytes size))))
      | none => a) (s, [])
    match mine with
    | [] => s
    | x :: _ =>
      let n := match x.load with
        | some (size, _) => ldBytes size
        | none => x.bytes.length
      let due := x.cycle + spadCycles false mate (bankDepth n (mine.map (·.off)))
      { r.1 with cur := { r.1.cur with
        spad := r.1.cur.spad ++ [⟨x.tag, r.1.cur.ins, due, .plain, x.load.isNone, r.2⟩] } }) s0

/-- Lanes of an item whose access faults with a recoverable fault: the team parks at resolution (R149). -/
def State.commitHeld (s : State) (held : List (Nat × DWord × Nat)) (mem : List HeldAccess) (n : Nat) : State :=
  match mem with
  | [] => s
  | h :: _ =>
    State.parkHandler (!held.isEmpty)
      (s.hold h.kind (fun l va tok =>
        { (mem.find? fun (x : HeldAccess) => decide (x.lane = l ∧ x.va = va)).getD h with token := tok, ins := n }) held)

/-- An instruction of a window committed: its results go to the registers, its accesses become the team's own, in program
order (R146), and it counts as retired. -/
def State.commitInstr (s : State) (w : Window) (k : Nat) (i : Instr) (mem : List HeldAccess) (lk : Look) : State :=
  let ps := w.passes.filter fun p => p.item == k
  let n := s.cur.ins
  let t : Team := match tagOf i with
    | none => ps.foldl (fun (t : Team) p => t.schedule p.due p.writes) s.cur
    | some tag =>
      match ps.flatMap WinPass.writes with
      | [] => s.cur
      | xs => { s.cur with tagged := s.cur.tagged ++ [⟨tag, xs⟩] }
  let s1 : State := { s with cur := { t with draw := if Instr.isRnd i then t.draw + 1 else t.draw } }
  let own := fun (l : Nat) => (mem.find? fun h => h.lane == l).map fun h => { h with ins := n }
  let s2 := lk.ok.foldl (fun s r =>
    match own r.lane with
    | some h => s.putHeld (lk.ok.map fun r => (r.pa, r.spot)) h r.pa r.dev
    | none => s) s1
  let s3 := ((s2.commitSpad (w.spad.filter fun x => x.item == k)).lay n (lk.ok.map fun r => (r.lane, r.spot))).commitHeld lk.held mem n
  let u := ({ s3.cur with ins := n + 1 } : Team).counted i
  { s3 with cur := match tagOf i with
    | some tag => u.settleTag tag
    | none => u }

/-- The lanes that come to item `k` of a window that commits. -/
def State.reaching (s : State) (w : Window) (k : Nat) : LaneMask :=
  s.cur.mask ||| (w.redo.map (·.keep)).getD 0 ||| w.trappedFrom k

/-- An item of a window that no lane of the true path came to: a team that waited would not have issued it (R146). -/
def State.dropItem (s : State) (x : WinItem) : State :=
  match x.what with
  | .instr i =>
    match tagOf i with
    | some n => { s with cur := s.cur.settleTag n }
    | none => s
  | .word .. => s

/-- An item of a window committed (R146), with its records, one for each cause (R204); false where the window is gone: its
accesses no longer pass the checks that they passed when they issued, or the records overflow, and the team issues the
instruction itself; or a trap in the handler kills the block (R211); or a fault or the end of the quantum stops the team
behind it (R249, R268). -/
def State.commitItem (s : State) (w : Window) (k : Nat) : State × Bool :=
  match w.items[k]? with
  | none => (s, true)
  | some x =>
    if s.reaching w k = 0 then (s.dropItem x, true)
    else
    let hits := passHits ((w.itemRes k).map fun r => (0, r.2))
    let mem := sortBy (·.lane) ((w.mem.filter fun y => y.1 == k).map (·.2))
    let lk := match mem with
      | [] => (⟨s, [], [], [], none, none⟩ : Look)
      | h :: _ => s.look h.kind h.size (mem.map fun h => (h.lane, h.va))
    let moved := lk.dead.isSome || lk.viol.isSome || !lk.hits.isEmpty || (lk.ok.any (·.dev)) || (dmodeReason s.cur lk.ok).isSome
    if moved || decide (Config.maxRecords < s.cur.recs.length + hits.length) && !s.cur.hmode then (s.truncate w k, false)
    else
      match hits, s.cur.hmode with
      | h :: _, true => (State.killTrap { s with cur := { s.cur with window := none } } h.cause x.start.pc h.datum, false)
      | _, _ =>
        let new := hits.map fun h => (⟨x.start, x.next, h.cause, h.datum, h.mask⟩ : TrapRec)
        let s1 : State := { lk.st with cur := { lk.st.cur with recs := lk.st.cur.recs ++ new } }
        match x.what with
        | .word .. => (s1, true)
        | .instr i =>
          let s2 := s1.commitInstr w k i mem lk
          if (!lk.held.isEmpty || s2.cur.qdone) && decide (k + 1 < w.items.length) then (s2.truncate w (k + 1), false) else (s2, true)

/-- Items of a window committed in order. -/
def State.commitItems (s : State) (w : Window) : List Nat → State × Bool
  | [] => (s, true)
  | k :: r =>
    match s.commitItem w k with
    | (s1, true) => State.commitItems s1 w r
    | (s1, false) => (s1, false)

/-! ### Resolution (R146 to R150) -/

/-- The team on its true first path, a window discarded (R146, R149): the tags that it had set are clear. -/
def Team.discard (t : Team) (w : Window) (start : CodePt) (mask : LaneMask) : Team :=
  let u := ((List.range 6).filter fun n => w.tags.getLsbD n).foldl Team.clearTag t
  { u with window := none, at_ := start, mask := mask, wait := .none }

/-- MASK_PREDICTION_RESOLVE (R146, R148, R150): the lanes of the other path are pushed (R135), a wrong prediction counts in
REPLAYS, the predictor learns the outcome. A right window commits; a wrong one that begins at the true place commits the lanes
of both masks and issues its items again for the lanes left out; any other is discarded, and so is a wrong one of a team
to be saved (R149). -/
def execMaskPredictionResolve (uid : Nat) (s : State) : Host.Outcome State Fault Refusal :=
  .next <|
    let s := s.focus uid
    match s.cur.window with
    | none => s
    | some w =>
      if w.redo.isSome then s
      else
        let fall := w.active &&& ~~~ w.taken
        let pfall := w.active &&& ~~~ w.pred
        let same := (decide (pfall = 0)) == decide (fall = 0)
        let mask := if fall = 0 then w.taken else fall
        let pmask := if pfall = 0 then w.pred else pfall
        let right := same && pmask == mask
        let start := if fall = 0 then w.target else w.fall
        let t := { s.cur with
          replays := if right then s.cur.replays else s.cur.replays + 1
          stack := if fall = 0 || w.taken = 0 then s.cur.stack else ⟨false, w.target, w.taken⟩ :: s.cur.stack }
        let slot := (w.pc.extractLsb' 2 8).toNat
        let s1 : State := { s.onQuad s.cur.core s.cur.quad fun q =>
            { q with pred := (slot, PredEntry.after (q.pred.lookup slot) w.pc w.active w.taken)
                              :: q.pred.filter fun e => e.1 != slot } with cur := t, sel := false }
        if !right && (!same || s.blk.leaving == .save) then { s1 with cur := t.discard w start mask }
        else
          let w1 := w.onLanes mask
          let keep := t.mask &&& mask
          let omitted := mask &&& ~~~ pmask
          if omitted = 0 || w.items.isEmpty then
            match State.commitItems { s1 with cur := { t with mask := keep } } w1 (List.range w.items.length) with
            | (s2, true) => { s2 with cur := { s2.cur with window := none, mask := s2.cur.mask ||| omitted } }
            | (s2, false) => s2
          else
            { s1 with cur := { t with
                mask := omitted
                wait := .none
                readyAt := s1.now
                drainFirst := w.drains 0
                window := some { w1 with closed := false, redo := some ⟨List.range w.items.length, keep, mask, t.at_, t.wait⟩ } } }

/-- A selective replay at its end: the lanes of both masks go on together. -/
def Team.rejoin (t : Team) (r : Redo) : Team :=
  { t with window := none, mask := t.mask ||| r.keep, at_ := r.place, wait := r.wait }

/-- An item issued again (R146): it commits for the lanes of both masks with those of the replay, in program order. Where the
replay has no lane left, what remains commits. -/
def State.redone (s : State) (w : Window) (r : Redo) (k : Nat) (rest : List Nat) : State :=
  if w.closed then s.truncate w k
  else
    match s.commitItem w k with
    | (s1, false) => s1
    | (s1, true) =>
      if s1.cur.mask = 0 || rest.isEmpty then
        match s1.commitItems w rest with
        | (s2, true) => { s2 with cur := s2.cur.rejoin r }
        | (s2, false) => s2
      else { s1 with cur := { s1.cur with
              drainFirst := s1.cur.drainFirst || w.drains (rest.headD 0)
              window := some { w with redo := some { r with todo := rest } } } }

end Sys2Proof.Machine
end

