-- ==== Sys2Proof/Machine/Issue.lean ====
section
/-! DEFINITION. Clause headers (R94 to R96), readiness and the choice of a team (R29, R30), the fetch of an
instruction (R113, R114), and what a cycle of the clock does (R36, R39, R53 to R55, R288). -/

namespace Sys2Proof.Machine

/-! ### Fetching -/

/-- What the current team fetches at its place: a header word, an instruction, words that are none, or a fault. -/
inductive Fetched where
  | header (w : Word)
  | instr (i : Instr)
  | illegal (w : Word) (long : Bool)
  | fault (va : DWord) (r : XRes)
  deriving DecidableEq, Repr

/-- The fetch of the word or words at the current team's place (R95, R114). -/
def State.fetchNext (s : State) : State × Fetched :=
  let pc := s.cur.at_.pc
  match s.fetch pc with
  | (s1, .error r) => (s1, .fault pc r)
  | (s1, .ok w0) =>
    if s.cur.at_.left = 0 then (s1, .header w0)
    else if w0.getLsbD 25 then
      match s1.fetch (pc + 4) with
      | (s2, .error r) => (s2, .fault (pc + 4) r)
      | (s2, .ok w1) =>
        match decode (bytesOfWord w0 ++ bytesOfWord w1) with
        | .ok (i, _) => (s2, .instr i)
        | .error _ => (s2, .illegal w0 true)
    else
      match decode (bytesOfWord w0) with
      | .ok (i, _) => (s1, .instr i)
      | .error _ => (s1, .illegal w0 false)

/-! ### Readiness (R29) -/

/-- Every fixed-latency result of a team written by open cycle `n`. -/
def Team.allLanded (t : Team) (n : Nat) : Bool := t.fixAll.all fun e => decide (e.due ≤ n)

/-- Whether the set of a REORDER is complete (R160). -/
def State.reorderComplete (s : State) (t : Team) : Bool :=
  match s.block t.bid with
  | none => false
  | some b =>
    ((s.liveTeams t.bid).filter fun u => u.core = t.core).all fun u =>
      u.wait == .reorder && u.tags == 0 && u.fix.isEmpty && b.reorder.any fun a => decide (a.1 = u.uid ∧ a.2.2.2 = 0)

/-- Whether what a team waits for has come; the open cycle of a release counts as the next (R59; log 99). A D-mode REORDER is done
by a commit (R270). -/
def State.waitOver (s : State) (t : Team) : Bool :=
  match t.wait with
  | .none => true
  | .clause _ tags cls thr drain _ =>
    t.tags &&& BitVec.ofNat 6 tags == 0
      && (match cls with
          | some c => t.counterAt c thr
          | none => true)
      && (!drain || t.allLanded (s.core t.core).opens)
  | .counter c n | .yielded c n _ => t.counterAt c n
  | .full c => !t.counterFull c
  | .matrix name words fresh make => !s.tileWait t ⟨name, words, fresh, make⟩
  | .finish => false
  | .barrier b =>
    match s.block t.bid with
    | some k => t.last.getD b none != some (k.bars.getD b ⟨none, 0, 0⟩).ph
    | none => true
  | .release sc => releaseStep t sc t.ins
  | .fence o sc _ => fenceReady t o sc
  | .scratch _ => acquireClear t t.ins
  | .markw n =>
    match s.block t.bid with
    | some b => let l := s.lateEntries b n; l.isEmpty || l.any (·.2)
    | none => true
  | .reorder =>
    match s.block t.bid with
    | some b => !(b.reorder.any fun a => decide (a.1 = t.uid ∧ a.2.2.2 = 0)) || (!b.d.dmode && s.reorderComplete t)
    | none => true
  | .parked => t.held.isEmpty
  | .walker => !(s.pier (t.core / 4)).walkerFrozen
  | .commit _ => false

/-- Whether a quantum of a D-mode launch is in progress (R268): a team of it has acted since the last commit, or has ended its
quantum, or holds accesses for the commit. -/
def State.quantumOpen (s : State) (lid : Nat) : Bool :=
  s.allTeams.any fun t => t.lid == lid && (t.st == .resident || t.st == .ended) && (t.qacted || t.qdone || !t.dheld.isEmpty)

/-- Whether NOPRE holds a block on its cores (R229); the blocks of a D-mode launch share it (R230). -/
def State.nopreHeld (s : State) (b : Block) : Bool :=
  s.allTeams.any fun t => t.st == .resident && t.nopre && (t.bid == b.bid || (b.d.dmode && t.lid == b.lid))

/-- Whether some team has supplied its slice of a copy of a block and another has not (R304); the blocks of a D-mode launch share
it. -/
def State.copyPartial (s : State) (b : Block) : Bool :=
  s.allBlocks.any fun x => x.live && (x.bid == b.bid || (b.d.dmode && x.lid == b.lid && !x.handler)) && x.copies.any fun c => !c.started

/-- Whether a block that leaves its cores lets its teams issue (R221 to R224, R229): a drained one does, one drained
for NOPRE while it lasts, a D-mode one until its quantum ends (R273), and one to be saved while a copy that its save waits for
waits itself for a slice (R224, R298; log 51). -/
def State.mayRun (s : State) (b : Block) : Bool :=
  match b.leaving with
  | .no | .drain => true
  | .nopre => s.nopreHeld b || (b.d.dmode && s.quantumOpen b.lid)
  | .save => (b.d.dmode && s.quantumOpen b.lid) || s.copyPartial b
  | .flush => false

/-- A course imbalance trap that a team takes at its next boundary (R47): no pass of it issues before. -/
def Team.imbalanced (t : Team) : Bool := t.apend.isSome && !t.amask && !t.hmode && t.window.isNone

/-- Whether a window lets its team go on (R144, R146): it has not ended, or its items are issued again. -/
def Team.inWindow (t : Team) : Bool :=
  match t.window with
  | none => true
  | some w => w.redo.isSome || !w.closed

/-- Whether a team issues items of its window again (R146). -/
def Team.redoing (t : Team) : Bool := (t.window.bind (·.redo)).isSome

/-- Whether nothing but its next instruction holds a team back (R29, R144, R219, R224, R249, R268): a save lets a selective replay
that it found under way come to its end (R149, R224). -/
def State.mayIssue (s : State) (t : Team) : Bool :=
  t.st == .resident && t.inWindow && decide (t.readyAt ≤ (s.core t.core).opens)
    && (!t.drainFirst || t.allLanded (s.core t.core).opens)
    && (t.held.isEmpty || t.hmode) && !t.qdone && t.mask != 0 && !t.imbalanced
    && (match s.block t.bid with
        | some b => b.kill.isNone && b.ctx.isNone && (s.mayRun b || (b.leaving == .save && t.redoing))
        | none => false)
    && s.waitOver t

/-- What the current team waits for before an instruction that it has come to, none of whose passes has issued: the phase of a
BAR.WAIT (R152), a counter above the bound of a WAITC (R299) or at 63 (R298), the matrix unit and its tiles (R278, R279), an
older acquire or the release step before a scratchpad access (R263, R270). In D-mode a commit tests BAR.WAIT and WAITC (R270). -/
def State.holdsOn (s : State) (i : Instr) : Wait :=
  let t := s.cur
  let full := fun (c : CCls) => if t.kept.isNone && t.counterFull c then Wait.full c else .none
  if t.reportsFirst || (t.hmode && handlerForbids i) || (takingPoint i && !t.hmode && !t.recs.isEmpty) then .none
  else
    match i with
    | .barWait _ b => if !t.d.dmode && s.barrierWaits b.toNat then .barrier b.toNat else .none
    | .waitc _ cls n => if !t.d.dmode && !t.counterAt cls n.toNat then .counter cls n.toNat else .none
    | .copy .. => full .cpy
    | .send .. => if t.d.dmode then .none else full .msg
    | .batch _ => full .mtx
    | .lds .. | .sts .. => if acquireClear t t.ins then .none else .scratch .plain
    | .atoms _ _ _ _ _ _ _ _ ord _ =>
      if !acquireClear t t.ins then .scratch ord
      else if MemOrd.releases ord && !t.d.dmode && !releaseStep t .block t.ins then .release .block
      else .none
    | i =>
      match tileUse (passWords t i .pt) i with
      | none => .none
      | some u =>
        if s.tileWait t u then .matrix u.name u.words u.fresh u.make
        else
          match i with
          | .qtile .. => if acquireClear t t.ins then .none else .scratch .plain
          | _ => .none

/-- What a team that stands inside a clause waits for before it is ready (R29), found by looking at its next instruction: in a
window, what ends it has no wait of its own. A fetch that needs a frozen walker waits for its release (R220; log 109). -/
def State.holdWait (s : State) (t : Team) : Wait :=
  if t.at_.left = 0 || t.redoing then .none
  else
    let s := s.focus t.uid
    match t.window, s.fetchNext.2 with
    | none, .instr i => s.holdsOn i
    | some w, .instr i => if t.ends w i then .none else s.holdsOn i
    | none, .fault _ (.dead .walker) => .walker
    | _, _ => .none

/-- Whether a team's window ends before its next instruction, or before words that cannot be fetched (R144). -/
def State.endsNext (s : State) (t : Team) : Bool :=
  match t.window with
  | none => false
  | some w =>
    match (s.focus t.uid).fetchNext.2 with
    | .instr i => t.ends w i
    | .fault _ _ => true
    | .header _ | .illegal _ _ => false

/-- Whether what a team does next inside a clause takes no issue cycle: an instruction goes on whose passes were charged before it
waited (R36; log 99), or a window ends (R144). -/
def State.silentDue (s : State) (t : Team) : Bool :=
  s.mayIssue t && t.at_.left != 0 && !t.redoing && (t.paid || t.synced == some (t.at_.pc, 16) || s.endsNext t)

/-- Whether a team may issue a pass at this open cycle of its core (R29): it stands inside a clause, before an instruction that need
not wait. -/
def State.ready (s : State) (t : Team) : Bool :=
  s.mayIssue t && (t.at_.left != 0 || t.redoing) && !s.silentDue t && s.holdWait t == .none

/-- Whether a team has arrived at a header, which is read without an issue cycle (R95). -/
def State.headerDue (s : State) (t : Team) : Bool := s.mayIssue t && t.at_.left == 0 && !t.redoing

/-! ### The clause header -/

/-- A trap of every active lane at a word that is no instruction of a table, `len` words long: held in a window (R145), else
recorded, or taken as R205 says. -/
def State.trapWord (s : State) (cause : Nat) (datum : Word) (len : Nat) : State :=
  let next : CodePt := ⟨s.cur.at_.pc + BitVec.ofNat 64 (4 * len), s.cur.at_.left - 1⟩
  match s.cur.window with
  | some w => s.shadowTrap w cause datum len
  | none =>
  if s.cur.hmode then s.killTrap cause s.cur.at_.pc datum
  else if Config.maxRecords ≤ s.cur.recs.length then s.takeTrap
  else State.takeTrap { s with cur := { s.cur with recs := s.cur.recs ++ [⟨s.cur.at_, next, cause, datum, s.cur.mask⟩], mask := 0 } }

/-- The engine class of a clause's first instruction, where its words can be fetched and are defined. -/
def State.firstEng (s : State) (pc : DWord) : Option (BitVec 3) :=
  match s.fetch pc with
  | (s1, .ok w0) =>
    match s1.fetch (pc + 4) with
    | (_, .ok w1) => engOf w0 w1
    | (_, .error _) => if w0.getLsbD 25 then none else engOf w0 0
  | (_, .error _) => none

/-- CLAUSE_HEADER (R94 to R96): an illegal header traps; else the clause is entered and its wait begins; the yield hint is
of a team that is its quadrant's current one (R30). A path that
YIELD parked waits at its label again (R47, R300). -/
def execClauseHeader (w : Word) (s : State) : Host.Outcome State Fault Refusal :=
  .next <|
    let s := s.settle
    let pc := s.cur.at_.pc
    let bad := fun (_ : Unit) => s.trapWord 0x02 w 1
    match decodeHeader w with
    | none => bad ()
    | some h =>
      if (s.firstEng (pc + 4)).any (· != h.eng) then bad ()
      else
        let enter := fun (rep : Bool) =>
          { s.onQuad s.cur.core s.cur.quad fun q => { q with yhint := q.yhint || (h.yhint && q.current == s.cur.uid) } with
            cur := { s.cur with
              at_ := ⟨pc + 4, h.count.toNat⟩
              wait := .clause pc h.twait.toNat h.ccls h.cthr.toNat h.drain (rep || h.ccls == some .cpy)
              yieldAt := if s.cur.hmode then s.cur.yieldAt else none }
            sel := false }
        match s.cur.yieldAt with
        | some (c, n, label) =>
          if !s.cur.hmode && label == pc then
            if s.cur.counterAt c n then enter (c == .cpy) else { s with cur := { s.cur with wait := .yielded c n label }, sel := false }
          else enter false
        | none => enter false

/-! ### Choosing a team (R30) -/

/-- The ready teams of a quadrant. -/
def State.readyOn (s : State) (core quad : Nat) : List Team :=
  s.allTeams.filter fun t => t.st != .vacant && t.core == core && t.quad == quad && s.ready t

/-- Whether a team's count of cycles not chosen has reached the override (R30). -/
def Team.starved (t : Team) : Bool := decide (Config.starvationLimit ≤ t.starve)

/-- The team a switch chooses: the oldest of those that have starved, else the oldest (R30). -/
def pickOldest (ts : List Team) : Option Team :=
  match minBy (·.age) (ts.filter Team.starved) with
  | some t => some t
  | none => minBy (·.age) ts

/-- A team made the one that acts; a switch starts the greedy count again. -/
def State.chooseTeam (s : State) (core quad : Nat) (t : Team) : State :=
  let s1 := s.onQuad core quad fun q =>
    { q with current := t.uid, greedy := if q.current = t.uid then q.greedy else 0, yhint := false }
  { s1.focus t.uid with sel := true }

/-- Whether a quadrant may issue in this cycle. -/
def State.quadFree (s : State) (core quad : Nat) : Bool :=
  s.openCycle core && decide (((s.core core).quads.getD quad .reset).busyTo ≤ (s.core core).opens)

/-- The choice of R30, `force` making the current team give way if another is ready. -/
def State.pick (s : State) (core quad : Nat) (force : Bool) : State :=
  let q := (s.core core).quads.getD quad .reset
  let ts := s.readyOn core quad
  let cur := ts.find? fun t => t.uid = q.current
  let others := ts.filter fun t => t.uid ≠ q.current
  match cur, pickOldest others with
  | some t, none => s.chooseTeam core quad t
  | some t, some u => if force then s.chooseTeam core quad u else s.chooseTeam core quad t
  | none, some u => s.chooseTeam core quad u
  | none, none => s

/-- Whether a ready team other than the quadrant's current one has starved. -/
def State.starves (s : State) (core quad : Nat) : Bool :=
  (s.readyOn core quad).any fun t => t.uid != ((s.core core).quads.getD quad .reset).current && t.starved

/-- Whether an exception of R30 makes a current team that is ready give way: the yield hint, the greedy limit, or a team that has
starved. -/
def State.giveWay (s : State) (core quad : Nat) : Bool :=
  let q := (s.core core).quads.getD quad .reset
  q.yhint || decide (Config.greedyLimit ≤ q.greedy) || s.starves core quad

/-- ISSUE_CYCLE (R30): a free quadrant chooses a team, which issues next. -/
def execIssueCycle (core quad : Nat) (s : State) : Host.Outcome State Fault Refusal :=
  .next (if s.quadFree core quad then s.pick core quad (s.giveWay core quad) else s)

/-- GREEDY_LIMIT (R30): after 4,096 issue cycles the quadrant selects another ready team. -/
def execGreedyLimit (core quad : Nat) (s : State) : Host.Outcome State Fault Refusal :=
  .next (if s.quadFree core quad && decide (Config.greedyLimit ≤ ((s.core core).quads.getD quad .reset).greedy) then
    s.pick core quad true else s)

/-- STARVATION_OVERRIDE (R30): a team that has starved is chosen before older ones, and before a current team that is ready. -/
def execStarvationOverride (core quad : Nat) (s : State) : Host.Outcome State Fault Refusal :=
  .next (if s.quadFree core quad && s.starves core quad then s.pick core quad true else s)

/-- Undefined words trap with cause 0x01 (R113). -/
def State.illegal (s : State) (w : Word) (long : Bool) : State :=
  let s := s.settle
  s.trapWord 0x01 w (if long then 2 else 1)

/-! ### A cycle -/

/-- A wait at a barrier or for YIELD's counter: a fence or REORDER stall counts (R55, R160, R258), and in D-mode what waits for a
commit. -/
def Wait.idles : Wait → Bool
  | .barrier _ | .yielded _ _ _ | .reorder | .fence _ _ _ => true
  | .commit i =>
    match i with
    | .barWait .. | .barSync .. | .yieldC .. | .reorder .. => true
    | _ => false
  | _ => false

/-- Whether a team waits at a barrier or is parked by YIELD, for automatic ballast (R55). -/
def State.waitsForBallast (s : State) (t : Team) : Bool :=
  !t.hmode && t.held.isEmpty && ((!s.waitOver t && t.wait.idles) || (s.mayIssue t && (s.holdWait t).idles))

/-- Whether automatic ballast may run on a core: every ordinary team there waits, and no handler team runs (R55). -/
def State.allWait (s : State) (c : Nat) : Bool :=
  let ts := s.coreTeams c
  !ts.isEmpty && !(ts.any (·.handler)) && ts.all fun t => s.waitsForBallast t

/-- Whether a core's engine moves a beat of a block's context in an open cycle: its home's the block's and its own teams' areas, the
mate's those of its teams (R38, R224). -/
def Block.moving (b : Block) (core : Nat) : Bool :=
  b.live && b.ctx.any fun n => (core == b.home && n.1 != 0) || (b.pair && core == b.home + 1 && n.2 != 0)

/-- The beats left after a cycle that is open on the home core, or on its mate: a context that has been written waits for its
block's save, one that has been read is there. -/
def Block.nextCtx (b : Block) (home mate : Bool) : Option (Nat × Nat) :=
  match b.ctx with
  | none => none
  | some n =>
    let left := (if home then n.1 - 1 else n.1, if mate then n.2 - 1 else n.2)
    if left == (0, 0) && b.leaving != .save then none else some left

/-- Level of automatic ballast: from the cycle after the last team begins to wait (R55). -/
def State.autoLevel (s : State) (c : Nat) : Nat :=
  if (s.core c).ballast && s.allWait c then greatest (((s.coreBlocks c).filter (·.auto)).map (·.alvl)) else 0

/-- The current of the present cycle of a core, in units of 5 mA (R39). -/
def State.cycleCurrent (s : State) (c : Nat) : Nat :=
  let k := s.core c
  let act := if s.openCycle c then
      200 + k.acts.headD 0 + 300 * (k.quads.filter fun q => !q.mtxq.isEmpty).length
        + 40 * (s.allBlocks.filter (·.moving c)).length
    else 200
  let burns := ((s.coreTeams c).filter fun t => t.burn.2 != 0 && decide (t.burnFrom ≤ s.clock.toNat)).map (·.burn.1)
  max (act + 25 * greatest (burns ++ [s.autoLevel c, if (s.ordinary c).isEmpty then k.idle else 0])) (200 + 25 * k.floorLvl)

/-- The head of a matrix queue works for one cycle; an instruction without cycles left is done (R279, R289). -/
def stepQueue : List MtxWork → List MtxWork
  | [] => []
  | e :: r => if e.busy ≤ 1 then r else { e with busy := e.busy - 1 } :: r

/-- A quadrant after an open cycle: a cycle without a pass ends the run of the greedy count. -/
def Quad.tick (q : Quad) (opens : Nat) : Quad :=
  { q with mtxq := stepQueue q.mtxq, greedy := if opens < q.busyTo then q.greedy else 0 }

/-- A core after a cycle. -/
def State.coreTick (s : State) (c : Nat) (k : Core) : Core :=
  let k1 := { k with
    sum := k.sum + s.cycleCurrent c
    floorLvl := greatest ((s.coreBlocks c).map (·.hold))
    ballast := s.allWait c
    idle := s.idleLevel c }
  if s.openCycle c then
    { k1 with opens := k.opens + 1, acts := k.acts.drop 1, quads := k.quads.map fun q => q.tick k.opens }
  else k1

/-- A pass of a GETSR that issues in a cycle reads the register in that cycle (R103, R107): its lanes' results on their way. -/
def Team.readSr (t : Team) (x : SrRead) (val : Nat → Word) : Team :=
  { t with fix := t.fix.map fun e =>
      match e.w with
      | .v r cs =>
        if e.due = x.at_ + 4 ∧ r = x.dst then { e with w := .v r (cs.map fun c => if c.1 / 32 = x.word then (c.1, ⟨val c.1, c.2.cnt⟩) else c) }
        else e
      | _ => e }

/-- The passes of GETSR that issue in this cycle carried out, where it is open on the team's core. -/
def State.srTick (s : State) (t : Team) : Team :=
  if s.openCycle t.core then
    let n := (s.core t.core).opens
    let u := (t.srReads.filter fun x => x.at_ == n).foldl (fun (u : Team) x => u.readSr x fun l => s.sysValue t l x.sr) t
    { u with srReads := t.srReads.filter fun x => decide (n < x.at_) }
  else t

/-- A team after a cycle: its burn runs; a ready team that its quadrant did not choose starves (R30, R53). -/
def State.teamTick (s : State) (t0 : Team) : Team :=
  let t := s.srTick t0
  let q := (s.core t.core).quads.getD t.quad .reset
  { t with
    burn := if t.burn.2 != 0 && decide (t.burnFrom ≤ s.clock.toNat) then (t.burn.1, t.burn.2 - 1) else t.burn
    starve := if t.st == .resident && s.openCycle t.core && q.current != t.uid && s.ready t then t.starve + 1 else t.starve }

/-- The beats of the next cycle: each core's engine moves one, for its oldest copy with a beat left (R305). -/
def State.beatsDue (s : State) : List Instr :=
  let has := fun (b : Block) => b.live && b.copying && b.copies.any fun c => c.started && c.differs.isNone && decide (c.beat < c.beats.length)
  (List.range Config.numCores).filterMap fun c =>
    (minBy (·.bid) (s.allBlocks.filter fun b => b.home == c && has b)).map fun b => .copyBeat b.bid

/-- One cycle of the clock. A window ends before anything of the next cycle (R36). -/
def State.tick (s : State) : State :=
  let s1 := { s with cores := s.cores.mapIdx s.coreTick, cur := s.teamTick s.cur, teams := s.teams.map s.teamTick }
  let block := fun (b : Block) => if b.live then
      { b with cycles := b.cycles + 1, ctx := b.nextCtx (s.openCycle b.home) (s.openCycle (b.home + 1)) } else b
  { s1.mapBlocks block with
    clock := s.clock + 1
    agenda := (if (s.clock.toNat + 1) % Config.windowCycles = 0 then [.windowEnd] else []) ++ s.beatsDue ++ s.agenda }

/-! ### Steps that the machine takes by itself -/

/-- Whether no fixed-latency result of a register among `ws` is on its way: the answers of tagged instructions wait for
them (log 14). -/
def Team.noFixFor (t : Team) (ws : List RegWrite) : Bool :=
  t.fix.all fun e => e.w.reg.isNone || ws.all fun w => w.reg != e.w.reg

/-- A branch's outcome that is known (R146), and a trap taken at a boundary (R47, R205). -/
def State.boundaryEvents (s : State) (t : Team) : List Instr :=
  let dead := t.dkill.isSome || (s.block t.bid).all fun b => b.kill.isSome || b.leaving == .flush
  (if !dead && t.window.any fun w => w.redo.isNone && decide (w.knownAt ≤ s.landAt t.core) then [.maskPredictionResolve t.uid] else [])
    ++ (if t.st == .resident && !dead && t.window.isNone && !t.hmode
          && ((t.apend.isSome && !t.amask) || (!t.recs.isEmpty && (t.mask == 0 || !t.held.isEmpty)) || t.held.any (·.failed.isSome))
        then [.trapTake t.uid] else [])

/-- What a team's own machinery has to do now, in the model's order (log 1): results, prediction, traps, burns, and
its memory accesses. -/
def State.teamEvents (s : State) (t : Team) : List Instr :=
  let n := s.landAt t.core
  let can := t.st != .vacant && t.st != .frozen
  (if can && t.fix.any fun e => decide (e.due ≤ n) then [.resultWriteback t.uid] else [])
    ++ (if can && t.spad.any fun p => decide (p.due ≤ n) then [.scratchpadAccessComplete t.uid] else [])
    ++ (((t.tagged.filter fun w => t.noFixFor w.ws).take 1).filterMap fun w => (Tag.ofCode (BitVec.ofNat 3 (w.tag + 1))).map (Instr.taggedResultWrite t.uid))
    ++ s.boundaryEvents t
    ++ (if t.burn.1 != 0 && t.burn.2 == 0 then [.burnExpire t.uid] else [])
    ++ (((t.accesses.filter fun a => a.isPerformed && t.noFixFor a.results).take 1).map fun a => .loadResponse t.uid a.seq)
    ++ (((t.stores.filter fun e => e.st == .performed).take 1).map fun e => .storeAck t.uid e.seq)
    ++ (((t.accesses.filter fun a => a.st == .sent).take 1).map fun a => .requestPerform t.uid a.seq)
    ++ (((t.stores.filter fun e => e.st == .sent).take 1).map fun e => .requestPerform t.uid e.seq)
    ++ (if t.st == .frozen then []
        else (((t.stores.filter fun e => storeSendable t e).take 1).map fun e => .storeSend t.uid e.seq)
          ++ (((t.accesses.filter fun a => accessSendable t a).take 1).map fun a => .loadSend t.uid a.seq))

/-- The next such step: a window that has ended first, then the teams in turn. -/
def State.ownEvent (s : State) : Option Instr :=
  if s.wins < s.clock.toNat / Config.windowCycles then some .windowEnd
  else s.allTeams.findSome? fun t => (s.teamEvents t).head?

/-- A result or a scratchpad pass of a team whose cycle has come (R103, R238), an outcome that is known, or a trap at a
boundary. -/
def State.landingEvent (s : State) : Option Instr :=
  s.allTeams.findSome? fun t =>
    let n := s.landAt t.core
    if t.st == .vacant || t.st == .frozen then none
    else if t.fix.any fun e => decide (e.due ≤ n) then some (.resultWriteback t.uid)
    else if t.spad.any fun p => decide (p.due ≤ n) then some (.scratchpadAccessComplete t.uid)
    else (s.boundaryEvents t).head?

/-- A team that has something to do without an issue cycle: one that has arrived at a header, or that goes on with an instruction. -/
def State.headerTeam (s : State) : Option Nat := (s.allTeams.find? fun t => s.headerDue t || s.silentDue t).map (·.uid)

/-- A quadrant that may issue now. -/
def State.issueEvent (s : State) : Option Instr :=
  (s.allTeams.find? fun t => s.ready t && s.quadFree t.core t.quad).map fun t => .issueCycle t.core t.quad

end Sys2Proof.Machine
end

