-- ==== Sys2Proof/Machine/Queue.lean ====
section
/-! DEFINITION. Queues (R64 to R76, R80, R84, R88): doorbells, queue control blocks, commands, the checks of a launch,
completion records and interrupts, and the reset of a queue. -/

namespace Sys2Proof.Machine

/-! ### Fields of byte strings -/

/-- `n` bytes of a byte string from an offset, as a number (R4). -/
def fld (bs : List Byte) (off n : Nat) : Nat := numOf ((bs.drop off).take n)
def zeroBytes (bs : List Byte) (off n : Nat) : Bool := fld bs off n == 0

/-! ### Queue control blocks (R64 to R66) -/

/-- Where a queue's QCB lies in host memory. -/
def State.qcbAt (s : State) (f q : Nat) : Nat := (s.func f).fqcb.toNat + 256 * q

/-- Whether a function's traffic reaches the host: an interface in ERROR writes nothing (R340). -/
def State.reaches (s : State) (f q : Nat) : Bool := !(s.func f).stopped && !(s.queue f q).silent

/-- A field of the mutable half of a queue's QCB written in host memory (R66); nowhere while FQCB is 0, which is taken as no table
registered (log 108). -/
def State.qcbPut (s : State) (f q off n x : Nat) : State :=
  if s.reaches f q && (s.func f).fqcb != 0 then s.store (hostPa (s.qcbAt f q + off)) (bytesOf n x) else s

def State.setQState (s : State) (f q : Nat) (st : QState) : State :=
  (s.onQueue f q fun x => { x with st := st }).qcbPut f q 0x90 1 st.code
def State.setLastFault (s : State) (f q code : Nat) : State :=
  (s.onQueue f q fun x => { x with lastFault := code }).qcbPut f q 0x92 2 code
def State.putInflight (s : State) (f q : Nat) : State := s.qcbPut f q 0x91 1 (s.queue f q).inflight

/-- A queue put into FAULTED with a grade-R code of cause 0x03 (R65, R67). -/
def State.faultQueue (s : State) (f q : Nat) : State := (s.setQState f q .faulted).setLastFault f q (faultCode 0 0x08 0x03)

/-- The read-only half read from its bytes (R65). -/
def QcbHalf.ofBytes (b : List Byte) : QcbHalf where
  ringbase := BitVec.ofNat 64 (fld b 0 8)
  ringlog := fld b 8 1
  cmpllog := fld b 9 1
  asid := fld b 0x0A 2
  part := fld b 0x0C 1
  func := fld b 0x0D 1
  tenant := fld b 0x0E 2
  cmplbase := BitVec.ofNat 64 (fld b 0x10 8)
  priomin := fld b 0x18 1
  rights := fld b 0x19 1
  coalt := fld b 0x1A 1
  coaln := fld b 0x1B 1
  irqvec := fld b 0x1C 2

/-- Whether every field is in its range and the reserved bytes, from 0x1E to 0x7F, are zero (R65). -/
def QcbHalf.ok (h : QcbHalf) (reservedZero : Bool) : Bool :=
  reservedZero && h.ringbase.extractLsb' 0 12 == 0 && h.cmplbase.extractLsb' 0 12 == 0
    && decide (4 ≤ h.ringlog ∧ h.ringlog ≤ 16 ∧ 4 ≤ h.cmpllog ∧ h.cmpllog ≤ 16 ∧ h.asid < 1024 ∧ h.part < 16 ∧ h.func ≤ 64
      ∧ h.priomin ≤ 3 ∧ h.rights < 4 ∧ 1 ≤ h.coalt ∧ h.coalt ≤ 64 ∧ 1 ≤ h.coaln ∧ h.irqvec < 2048)

/-- Whether a tenant has a valid entry in its partition's table (R333). -/
def Partition.knows (p : Partition) (tenant : Nat) : Bool := p.tenants.any fun t => t.valid && t.id == tenant

/-! ### Takeable commands and idleness (R67, R69, R88) -/

def Queue.ringFull (q : Queue) : Bool :=
  !q.owed.isEmpty || decide (2 ^ q.half.cmpllog ≤ (q.cmplTail - q.chead).toNat)

/-- Whether the queue takes commands at all now (R67, R330, R331). -/
def State.takes (s : State) (f q : Nat) : Bool :=
  let x := s.queue f q
  x.st == .active && !x.stopped && !x.frozen && x.head != x.tail && !x.ringFull && (s.part x.half.part).st == .active
    && !(s.func f).stopped

/-- A queue's idle time starts when nothing is in flight and nothing is takeable (R88). -/
def State.noteIdle (s : State) (f q : Nat) : State :=
  let idle := (s.queue f q).inflight == 0 && !s.takes f q
  s.onQueue f q fun x => { x with idleFrom := if idle then x.idleFrom.or (some s.clock.toNat) else none }

/-! ### Completion records and interrupts (R76, R88) -/

/-- The completion interrupt (R88). -/
def State.completionIrq (s : State) (f q : Nat) : State :=
  let x := s.queue f q
  let s1 := s.onQueue f q fun x => { x with pending := 0 }
  if s.reaches f q then s1.raiseIrq f x.half.irqvec else s1

/-- The bytes of a completion record (R76). -/
def recordBytes (tag : Word) (status kind fault : Nat) (blocks : Word) (clock : DWord) (phase : Nat) : List Byte :=
  bytesOf 4 tag.toNat ++ bytesOf 1 status ++ bytesOf 1 kind ++ bytesOf 2 0 ++ bytesOf 2 fault ++ bytesOf 2 0
    ++ bytesOf 4 blocks.toNat ++ bytesOf 8 clock.toNat ++ bytesOf 8 phase

/-- An access of the global scheduler core for a queue, in the queue's ASID. -/
def State.queueXlate (s : State) (f q : Nat) (va : DWord) (k : AccKind) (n : Nat) : State × XRes :=
  let h := (s.queue f q).half
  s.translate none Config.numPiers h.part h.asid va k n

/-- A record written at CMPLTAIL, which then advances; the count may raise the interrupt (R76, R80, R88). A record
whose address does not translate is not written. -/
def State.writeRecord (s : State) (f q : Nat) (tag : Word) (status kind fault : Nat) (blocks : Word) : State :=
  let x := s.queue f q
  let slot := x.cmplTail.toNat % 2 ^ x.half.cmpllog
  let bs := recordBytes tag status kind fault blocks s.clock (x.cmplTail.toNat / 2 ^ x.half.cmpllog % 2)
  let (s1, r) := s.queueXlate f q (x.half.cmplbase + BitVec.ofNat 64 (slot * 32)) .store 32
  let s2 := match r with
    | .ok pa _ => if s.reaches f q then s1.writeAt pa bs else s1
    | _ => s1
  let s3 := s2.onQueue f q fun x =>
    { x with cmplTail := x.cmplTail + 1, pending := x.pending + 1, oldest := if x.pending = 0 then s.clock.toNat else x.oldest }
  let s4 := s3.qcbPut f q 0x88 4 (s3.queue f q).cmplTail.toNat
  if (s4.queue f q).half.coaln ≤ (s4.queue f q).pending then s4.completionIrq f q else s4

/-- A record written, or owed while the completion ring is full (R67). -/
def State.complete (s : State) (f q : Nat) (tag : Word) (status kind fault : Nat) (blocks : Word) : State :=
  let s1 :=
    if (s.queue f q).ringFull then s.onQueue f q fun x => { x with owed := x.owed ++ [(tag, status, kind, fault, blocks)] }
    else s.writeRecord f q tag status kind fault blocks
  s1.noteIdle f q

/-- Owed records written while there is room; the CLOCK of one is that of its writing, when it is formed (R76; log 110). -/
def State.payOwed (s : State) (f q : Nat) : List (Word × Nat × Nat × Nat × Word) → State
  | [] => s.onQueue f q fun x => { x with owed := [] }
  | r :: rest =>
    let s0 := s.onQueue f q fun x => { x with owed := [] }
    if (s0.queue f q).ringFull then s0.onQueue f q fun x => { x with owed := r :: rest }
    else State.payOwed (s0.writeRecord f q r.1 r.2.1 r.2.2.1 r.2.2.2.1 r.2.2.2.2) f q rest

/-- COALESCING_TIMER (R88). -/
def execCoalescingTimer (f q : Nat) (s : State) : Host.Outcome State Fault Refusal :=
  .next <|
    let x := s.queue f q
    if x.pending ≠ 0 ∧ x.oldest + x.half.coalt * 1250 ≤ s.clock.toNat then s.completionIrq f q else s

/-- IDLE_FLUSH (R88). -/
def execIdleFlush (f q : Nat) (s : State) : Host.Outcome State Fault Refusal :=
  .next <|
    let x := s.queue f q
    match x.idleFrom with
    | some t => if x.pending ≠ 0 ∧ t + 4 * 1250 ≤ s.clock.toNat then s.completionIrq f q else s
    | none => s

/-! ### Doorbells (R67) -/

/-- TAIL ahead of HEAD by more than the ring, or behind it (R67). -/
def Queue.tailBad (q : Queue) : Bool := decide (2 ^ q.half.ringlog < (q.tail - q.head).toNat)

/-- QTAIL_WRITE. -/
def execQtailWrite (f q : Nat) (v : Word) (s : State) : Host.Outcome State Fault Refusal :=
  .next <|
    let s1 := (s.onQueue f q fun x => { x with tail := v }).qcbPut f q 0x84 4 v.toNat
    let x := s1.queue f q
    (if x.st == .active && x.tailBad then s1.faultQueue f q else s1).noteIdle f q

/-- QCHEAD_WRITE: a CHEAD behind the last one or ahead of CMPLTAIL is ignored; records owed are written. -/
def execQcheadWrite (f q : Nat) (v : Word) (s : State) : Host.Outcome State Fault Refusal :=
  .next <|
    let x := s.queue f q
    if (x.cmplTail - x.chead).toNat < (v - x.chead).toNat then s
    else
      let s1 := (s.onQueue f q fun x => { x with chead := v }).qcbPut f q 0x8C 4 v.toNat
      (s1.payOwed f q x.owed).noteIdle f q

/-- QCTL_ENABLE (R64, R65, R67, R333, R340): the half is read, from the snapshot of a locked interface; a stopped
queue takes commands again. -/
def execQctlEnable (f q : Nat) (s : State) : Host.Outcome State Fault Refusal :=
  .next <|
    let fn := s.func f
    let x := s.queue f q
    if fn.tdi == .locked || fn.stopped then s
    else
      match x.st with
      | .active => (s.onQueue f q fun x => { x with stopped := false }).noteIdle f q
      | .resetting | .faulted => s
      | .idle | .reset =>
        let bytes := s.bytesAt (hostPa (s.qcbAt f q)) 128
        let (h, clean) := match fn.snapshot[q]? with
          | some x => x
          | none => (QcbHalf.ofBytes bytes, zeroBytes bytes 0x1E 0x62)
        let s1 := s.onQueue f q fun x => { x with half := h, stopped := false, frozen := false, silent := false }
        if !h.ok clean || !(s.part h.part).knows h.tenant then s1.faultQueue f q
        else
          let s2 := s1.setQState f q .active
          (if (s2.queue f q).tailBad then s2.faultQueue f q else s2).noteIdle f q

/-- QCTL_STOP (R67). -/
def execQctlStop (f q : Nat) (s : State) : Host.Outcome State Fault Refusal :=
  .next ((s.onQueue f q fun x => { x with stopped := true }).noteIdle f q)

/-! ### Commands (R68, R69) -/

def Command.ofBytes (b : List Byte) : Command where
  kind := fld b 0 1
  order := (BitVec.ofNat 32 (fld b 0 4)).getLsbD 8
  cmpl := (BitVec.ofNat 32 (fld b 0 4)).getLsbD 9
  zero := fld b 0 4 / 1024 == 0 && zeroBytes b 0x18 0x28
  tag := BitVec.ofNat 32 (fld b 4 4)
  addr := BitVec.ofNat 64 (fld b 8 8)
  value := BitVec.ofNat 64 (fld b 0x10 8)

/-- Whether a command has the form of its kind: fields that must be zero are, and its address is aligned (R68). -/
def Command.formed (c : Command) : Bool :=
  c.zero &&
    match c.kind with
    | 0 | 2 => c.addr == 0 && c.value == 0
    | 1 => c.addr.toNat % 128 == 0 && c.value == 0
    | 3 => c.addr.toNat % 8 == 0
    | _ => false

/-- The fault code of a READ or WRITE that the global scheduler core cannot make (R76): 0x20 for an uncorrectable error, of a table
entry too (R240), else 0x08. -/
def queueFault : XRes → Nat
  | .dead (.data _) => faultCode 0 0x08 0x20
  | .ok .. | .fault _ | .refused | .violation .. | .dead _ => faultCode 0 0x08 0x08

/-- Bytes read for a queue, or the fault code of READ (R76): a translation that fails, or an uncorrectable error. The reads may
activate rows (R344). -/
def State.queueRead (s : State) (f q : Nat) (va : DWord) (n : Nat) : State × Except Nat (List Byte) :=
  let skew := va.toNat % 16
  (List.range (if n = 0 then 0 else ceilDiv (skew + n) 16)).foldl (fun (a : State × Except Nat (List Byte)) j =>
    match a.2 with
    | .error c => (a.1, .error c)
    | .ok bs =>
      let lo := 16 * j - skew
      let m := min (16 * j + 16 - skew) n - lo
      match a.1.queueXlate f q (va + BitVec.ofNat 64 lo) .load 4 with
      | (s1, .ok pa _) =>
        if s1.badData pa m then (s1, .error (faultCode 0 0x08 0x20)) else (s1.touch pa m, .ok (bs ++ s1.bytesAt pa m))
      | (s1, r) => (s1, .error (queueFault r))) (s, .ok [])

/-- The next command of a queue, or why it cannot be read. -/
def State.nextCommand (s : State) (f q : Nat) : State × Except Nat Command :=
  let x := s.queue f q
  let slot := x.head.toNat % 2 ^ x.half.ringlog
  match s.queueRead f q (x.half.ringbase + BitVec.ofNat 64 (slot * 64)) 64 with
  | (s1, .ok b) => (s1, .ok (Command.ofBytes b))
  | (s1, .error c) => (s1, .error c)

/-- HEAD past the command taken (R66). -/
def State.advanceHead (s : State) (f q : Nat) : State :=
  let s1 := s.onQueue f q fun x => { x with head := x.head + 1 }
  s1.qcbPut f q 0x80 4 (s1.queue f q).head.toNat

/-- A command taken, if it is of a kind that `mine` names and nothing holds it back: the 17th launch waits, and a
command with ORDER waits for all before it (R68, R69). A malformed one completes with FORMAT, a LAUNCH only after what it
names has been read (R73). A command that cannot be read has no TAG and no KIND: its record holds 0 (log 89). -/
def State.takeCommand (s : State) (f q : Nat) (mine : Nat → Bool) (unreadable : Bool) (act : State → Command → State) : State :=
  if !s.takes f q then s
  else
    match s.nextCommand f q with
    | (s1, .error code) => if unreadable then (s1.advanceHead f q).complete f q 0 0x05 0 code 0 else s
    | (s1, .ok c) =>
      if !mine c.kind then s
      else
        let ordered := c.order || c.kind == 2 || c.kind == 3
        let x := s.queue f q
        if (ordered && !x.taken.isEmpty) || (c.kind == 1 && decide (Config.maxInflight ≤ x.inflight)) then s
        else if !c.formed && c.kind != 1 then (s1.advanceHead f q).complete f q c.tag 0x04 c.kind 0 0
        else act (s1.advanceHead f q) c

/-- A command complete with DONE: its record is written if CMPL asks for it (R76). -/
def State.commandDone (s : State) (f q : Nat) (c : Command) : State :=
  if c.cmpl then s.complete f q c.tag 0 c.kind 0 0 else s.noteIdle f q

/-- CMD_NOP: also commands of a reserved kind, which complete with FORMAT (R69). -/
def execCmdNop (f q : Nat) (s : State) : Host.Outcome State Fault Refusal :=
  .next (s.takeCommand f q (fun k => decide (k = 0 ∨ 3 < k)) false fun s c => s.commandDone f q c)

/-- CMD_WAIT. -/
def execCmdWait (f q : Nat) (s : State) : Host.Outcome State Fault Refusal :=
  .next (s.takeCommand f q (· == 2) false fun s c => s.commandDone f q c)

/-- CMD_SIGNAL (R69, R220): the write, or status WRITE; a violation freezes the queue after its record. -/
def execCmdSignal (f q : Nat) (s : State) : Host.Outcome State Fault Refusal :=
  .next <| s.takeCommand f q (· == 3) false fun s c =>
    match s.queueXlate f q c.addr .store 8 with
    | (s1, .ok pa _) =>
      if s1.badData pa 8 then s1.complete f q c.tag 0x08 3 (faultCode 0 0x08 0x20) 0
      else
        let s2 := if s.reaches f q then s1.writeAt pa (bytesOf 8 c.value.toNat) else s1
        s2.commandDone f q c
    | (s1, .violation _ pa) =>
      let s2 := s1.isolate (s1.queue f q).half.part 0x08 0 none (BitVec.ofNat 64 pa) 0
      (s2.complete f q c.tag 0x08 3 (faultCode 2 0x08 0x21) 0).onQueue f q fun x => { x with frozen := true }
    | (s1, r) => s1.complete f q c.tag 0x08 3 (queueFault r) 0

/-! ### The checks of a launch (R70 to R76) -/

/-- A launch descriptor as its 128 bytes give it (R70, R71). -/
def Desc.ofBytes (b : List Byte) (h : QcbHalf) : Desc where
  kernel := BitVec.ofNat 64 (fld b 0 8)
  gridx := fld b 8 4
  gridy := fld b 0x0C 2
  gridz := fld b 0x0E 2
  teamw := fld b 0x10 2
  groupw := fld b 0x12 1
  teams := fld b 0x13 1
  regs := fld b 0x14 1
  cls := fld b 0x15 1
  prio := fld b 0x16 1
  idem := (BitVec.ofNat 8 (fld b 0x17 1)).getLsbD 0
  dmode := (BitVec.ofNat 8 (fld b 0x17 1)).getLsbD 1
  csb := (BitVec.ofNat 8 (fld b 0x17 1)).getLsbD 2
  scratch := fld b 0x18 4
  quant := fld b 0x1C 4
  setout := BitVec.ofNat 64 (fld b 0x20 8)
  setoutn := fld b 0x28 2
  argn := fld b 0x2A 1
  tenant := fld b 0x2C 2
  fpctl0 := BitVec.ofNat 32 (fld b 0x30 4)
  sbthr0 := BitVec.ofNat 32 (fld b 0x34 4)
  traph := BitVec.ofNat 64 (fld b 0x38 8)
  asid := h.asid
  part := h.part
  messages := (BitVec.ofNat 8 h.rights).getLsbD 1

def Desc.blocks (d : Desc) : Nat := d.gridx * d.gridy * d.gridz

/-- The fields of a descriptor that must be zero or aligned, and the ranges that FORMAT covers (R70, R76). -/
def descFormat (b : List Byte) (d : Desc) : Bool :=
  fld b 0x17 1 / 8 == 0 && zeroBytes b 0x2B 1 && zeroBytes b 0x2E 2 && zeroBytes b 0x40 0x40
    && d.kernel.extractLsb' 0 2 == 0 && d.traph.extractLsb' 0 2 == 0 && d.setout.extractLsb' 0 5 == 0
    && decide (d.argn ≤ 64)
    && (if d.setout = 0 then d.setoutn == 0 else decide (1 ≤ d.setoutn ∧ d.setoutn ≤ 4096))
    && (if d.dmode then decide (16 ≤ d.quant ∧ d.quant ≤ 65536) else d.quant == 0)

/-- The limits of R13, R17 and R70 that SHAPE covers. -/
def descShape (d : Desc) : Bool :=
  decide (1 ≤ d.gridx ∧ 1 ≤ d.gridy ∧ 1 ≤ d.gridz)
    && (d.groupw == 16 || d.groupw == 32 || d.groupw == 64)
    && decide (16 ≤ d.teamw ∧ d.teamw ≤ 1024 ∧ d.teamw % d.groupw = 0 ∧ 1 ≤ d.teams ∧ d.teams ≤ 32
      ∧ 8 ≤ d.regs ∧ d.regs ≤ 128 ∧ d.regs % 8 = 0 ∧ d.scratch ≤ 786432 ∧ d.scratch % 8 = 0
      ∧ d.teams * d.teamw ≤ 16384 ∧ d.cls ≤ 7 ∧ d.prio ≤ 3)

/-- What RIGHTS covers (R76). -/
def descRights (d : Desc) (h : QcbHalf) : Bool :=
  decide (h.priomin ≤ d.prio) && d.tenant == h.tenant && (!d.dmode || (BitVec.ofNat 8 h.rights).getLsbD 0)

/-- A setting-out entry from its 32 bytes, and the conditions of R313 and R314 for a grid of `n` blocks. -/
def SetEntry.ofBytes (b : List Byte) : SetEntry where
  issue := fld b 0 2
  due := fld b 2 2
  kind := fld b 4 1
  slice := fld b 5 1
  gaddr := BitVec.ofNat 64 (fld b 8 8)
  soff := fld b 0x10 4
  len := fld b 0x14 4
  gstride := fld b 0x18 4
  sstride := fld b 0x1C 4
def SetEntry.ok (e : SetEntry) (reserved : Bool) (slices n : Nat) : Bool :=
  let bare := e.kind == 3 || e.kind == 4
  reserved && decide (e.issue ≤ e.due ∧ e.kind ≤ 4 ∧ e.slice < Config.numSlices) && slices.testBit e.slice
    && decide (e.gaddr.toNat % 256 = 0 ∧ e.soff % 256 = 0 ∧ 256 ≤ e.len ∧ e.len ≤ 0x800000 ∧ e.len % 256 = 0
      ∧ e.gstride % 256 = 0 ∧ e.sstride % 256 = 0 ∧ e.soff + (n - 1) * e.sstride + e.len ≤ 0x800000)
    && (!bare || (e.gaddr == 0 && e.gstride == 0))

/-- Entries of a table's bytes. -/
def tableOf (b : List Byte) (n : Nat) : List (SetEntry × Bool) :=
  (List.range n).map fun k =>
    let e := (b.drop (32 * k)).take 32
    (SetEntry.ofBytes e, zeroBytes e 6 2)

/-! ### Room on a core (R23 to R26) -/

/-- Words and register-file bytes of a team (R23). -/
def Desc.words (d : Desc) : Nat := ceilDiv d.teamw 32
def Desc.file (d : Desc) : Nat := d.words * 32 * d.regs * 4
/-- Scratchpad of a block in whole KiB (R23). -/
def Desc.kib (d : Desc) : Nat := ceilDiv d.scratch 1024

/-- What is used of a quadrant: the ordinary slots taken, words and register-file bytes. -/
structure QuadUse where
  slots : List Nat
  words : Nat
  file : Nat
  deriving DecidableEq, Repr

def QuadUse.empty : QuadUse := ⟨[], 0, 0⟩

/-- What a team takes when it is bound (R23, R25): its slot, and what is used then; none where it does not fit. A
handler table holds back 2 words and 8 KiB. The slot is the lowest that is free (log 44). -/
def QuadUse.bind (u : QuadUse) (d : Desc) (table : Bool) : Option (Nat × QuadUse) :=
  let words := if table then 62 else 64
  let file := if table then 376 * 1024 else 384 * 1024
  match (List.range 31).find? fun k => !u.slots.contains k with
  | some k =>
    if u.words + d.words ≤ words ∧ u.file + d.file ≤ file then some (k, ⟨k :: u.slots, u.words + d.words, u.file + d.file⟩)
    else none
  | none => none

/-- A binding of teams (R25): for each its quadrant and slot, and the quadrant pointer after. -/
structure Binding where
  places : List (Nat × Nat)
  ptr : Nat
  uses : List QuadUse
  deriving DecidableEq, Repr

/-- One team bound to the first quadrant with room, from the pointer on. -/
def Binding.one (d : Desc) (table : Bool) (b : Binding) : Option Binding :=
  ((List.range 4).map fun k => (b.ptr + k) % 4).findSome? fun q =>
    ((b.uses.getD q .empty).bind d table).map fun x =>
      ⟨b.places ++ [(q, x.1)], (q + 1) % 4, b.uses.set q x.2⟩

def Binding.many (d : Desc) (table : Bool) : Nat → Binding → Option Binding
  | 0, b => some b
  | n + 1, b => (b.one d table).bind (Binding.many d table n)

/-- Whether `n` teams and a scratchpad allocation fit an empty core (R24). -/
def fitsEmpty (d : Desc) (table : Bool) (n kib : Nat) : Bool :=
  decide (kib ≤ 768) && (Binding.many d table n ⟨[], 0, List.replicate 4 .empty⟩).isSome

/-- How a block is placed by its shape alone (R24, R26): on one core, on a pair, or not at all. -/
inductive Spread where
  | core | pair | nowhere
  deriving DecidableEq, Repr

def Desc.spread (d : Desc) (table : Bool) : Spread :=
  if fitsEmpty d table d.teams d.kib then .core
  else if fitsEmpty d table ((d.teams + 1) / 2) d.kib && fitsEmpty d table (d.teams / 2) 0 then .pair
  else .nowhere

/-- The cores that a partition holds, and its piers (R78, R329). -/
def Partition.cores (p : Partition) : List Nat := (List.range Config.numCores).filter (ownsCore p)
def Partition.piers (p : Partition) : List Nat := (List.range Config.numPiers).filter fun n => ownsPair p (2 * n) || ownsPair p (2 * n + 1)

/-- How many blocks of a shape an empty core takes, block after block (R25). -/
def coreHolds (d : Desc) (table : Bool) : Nat → Nat → Binding → Nat
  | 0, _, _ => 0
  | n + 1, kib, b =>
    if 768 < kib + d.kib then 0
    else
      match Binding.many d table d.teams b with
      | none => 0
      | some b' => 1 + coreHolds d table n (kib + d.kib) b'

/-- Whether a grid can be resident at once on the empty cores of a partition (R74). -/
def gridFits (p : Partition) (d : Desc) : Bool :=
  let table := p.handlers.isSome
  match d.spread table with
  | .core => decide (d.blocks ≤ p.cores.length * coreHolds d table 128 0 ⟨[], 0, List.replicate 4 .empty⟩)
  | .pair => decide (d.blocks ≤ (p.cores.length / 2))
  | .nowhere => false

/-- The status of a launch that its checks refuse (R73, R76): the first that applies. -/
def launchStatus (p : Partition) (formed : Bool) (b : List Byte) (d : Desc) (h : QcbHalf) (table : List (SetEntry × Bool)) : Nat :=
  if !formed || !descFormat b d || !(table.all fun e => e.1.ok e.2 p.slices d.blocks) then 0x04
  else if !descShape d then 0x01
  else if !descRights d h then 0x03
  else if d.spread p.handlers.isSome == .nowhere || p.cores.isEmpty || (d.dmode && !gridFits p d) then 0x02
  else 0x00

/-- Predictors and instruction caches of a partition's cores invalidated when it accepts a launch (R114, R142). -/
def State.acceptClears (s : State) (p : Partition) : State :=
  { s with cores := s.cores.mapIdx fun c k =>
      if ownsCore p c then { k with icache := [], quads := k.quads.map Quad.forget } else k }

/-- CMD_LAUNCH (R73, R75): the descriptor, its arguments and its table are read once and checked; a launch is
accepted, or refused with the first status that applies. With no tenant at work, the launch's takes the slice (R334). -/
def execCmdLaunch (f q : Nat) (s : State) : Host.Outcome State Fault Refusal :=
  .next <| s.takeCommand f q (· == 1) true fun s c =>
    let h := (s.queue f q).half
    let refuse := fun (s : State) (status code : Nat) => s.complete f q c.tag status 1 code 0
    match s.queueRead f q c.addr 128 with
    | (s1, .error code) => refuse s1 0x05 code
    | (s1, .ok b) =>
      let d := Desc.ofBytes b h
      match s1.queueRead f q (c.addr + 0x80) (4 * d.argn) with
      | (s2, .error code) => refuse s2 0x05 code
      | (s2, .ok ab) =>
        let tabled := d.setout != 0
        match s2.queueRead f q d.setout (if tabled then 32 * d.setoutn else 0) with
        | (s3, .error code) => refuse s3 0x05 code
        | (s3, .ok tb) =>
          let table := tableOf tb (if tabled then d.setoutn else 0)
          let p := s3.part h.part
          match launchStatus p c.formed b d h table with
          | 0 =>
            let lid := s3.nextId
            let l : Launch :=
              { lid := lid, f := f, q := q, tag := c.tag, cmpl := c.cmpl, d := d
                args := (List.range d.argn).map fun k => BitVec.ofNat 32 (fld ab (4 * k) 4)
                table := table.map (·.1), blocks := d.blocks
                chunk := max 1 (min 64 (d.blocks / (2 * p.piers.length))), dealt := 0, ended := 0, killed := 0
                fault := none, cancelled := false, ents := [], takenAt := s3.clock.toNat, num := 0, begun := false, commitAt := 0 }
            let s4 := ({ s3 with nextId := lid + 1, launches := s3.launches ++ [l] }.acceptClears p).onPart h.part fun p =>
              if p.holder.isNone then { p with holder := some d.tenant, sliceStart := s3.clock.toNat, energy := [] } else p
            ((s4.onQueue f q fun x => { x with taken := x.taken ++ [⟨lid, c, some lid⟩] }).putInflight f q).noteIdle f q
          | st => refuse s3 st 0

/-! ### Completion of a launch (R80) -/

/-- Whether every entry started for a launch is complete, faulted or cancelled (R321). -/
def Launch.settled (l : Launch) : Bool :=
  l.ents.all fun e =>
    match e.st with
    | .complete | .faulted | .cancelled => true
    | .running | .held .. => false

/-- LAUNCH_COMPLETE (R76, R80): DONE, or FAULTED with the code of its first fault record. -/
def execLaunchComplete (lid : Nat) (s : State) : Host.Outcome State Fault Refusal :=
  .next <|
    match s.launch lid with
    | none => s
    | some l =>
      if l.cancelled || l.blocks ≠ l.ended + l.killed || !l.settled then s
      else
        let bad := decide (l.killed ≠ 0) || l.ents.any fun e => e.st == .faulted
        let code := l.fault.getD (Config.other 0x80 lid)
        let s1 := { s with launches := s.launches.filter fun x => x.lid ≠ lid }
        let s2 := (s1.onQueue l.f l.q fun x => { x with taken := x.taken.filter fun t => t.lid ≠ some lid }).putInflight l.f l.q
        let s3 := if bad then s2.setLastFault l.f l.q code else s2
        if bad || l.cmpl then
          s3.complete l.f l.q l.tag (if bad then 0x06 else 0x00) 1 (if bad then code else 0) (BitVec.ofNat 32 l.ended)
        else s3.noteIdle l.f l.q

/-! ### The reset of a queue (R84) -/

/-- The entries of a launch that still run, abandoned. -/
def State.abandonEntries (s : State) (l : Launch) : State :=
  l.ents.foldl (fun s r =>
    match r.st, l.table[r.idx]? with
    | .running, some e | .held .., some e => s.cancelEntry l r.bid r.index (r.idx, e)
    | _, _ => s) s

/-- A queue taken to RESETTING (R84): its launches are cancelled, what was not dealt is dropped, and so is every message of its
launches, complete ones too, that no core has accepted. -/
def State.resetQueue (s : State) (f q : Nat) : State :=
  if (s.queue f q).st == .resetting then s
  else
    let mine := s.launches.filter fun l => decide (l.f = f ∧ l.q = q)
    let s1 := mine.foldl (fun s l => s.abandonEntries l) (s.setQState f q .resetting)
    { s1 with
      launches := s1.launches.map fun l => if l.f = f ∧ l.q = q then { l with cancelled := true } else l
      channel := s1.channel.filter fun m => m.queue != some (f, q) }

/-- QCTL_RESET. -/
def execQctlReset (f q : Nat) (s : State) : Host.Outcome State Fault Refusal := .next (s.resetQueue f q)

/-- Whether anything of a launch is still in the device: ranges, blocks, saved blocks, messages not accepted. -/
def State.launchLives (s : State) (lid : Nat) : Bool :=
  (s.allBlocks.any fun b => b.live && b.lid == lid) || (s.saved.any fun b => b.blk.lid == lid)
    || (s.channel.any fun m => m.lid == lid)
    || s.piers.any fun p => (p.queue.any fun r => r.lid == lid) || p.link.any fun r => r.lid == lid

/-- CANCELLED records of launches, in order, while the ring has room; else LASTFAULT is set (R84). One is written for each launch,
whatever CMPL says (log 111). -/
def State.cancelRecords (s : State) (f q : Nat) : List Launch → State
  | [] => s
  | l :: r =>
    if (s.queue f q).ringFull then s.setLastFault f q (faultCode 0 0x08 0x03)
    else State.cancelRecords (s.writeRecord f q l.tag 0x07 1 0 (BitVec.ofNat 32 l.ended)) f q r

/-- QUEUE_RESET_COMPLETE (R84): once nothing of the queue's launches is left, their records are written, HEAD is set to
TAILSEEN, and an interrupt is raised. Records that commands complete before the reset are still owed are written where the ring has
room, and else dropped (log 111). -/
def execQueueResetComplete (f q : Nat) (s : State) : Host.Outcome State Fault Refusal :=
  .next <|
    let mine := s.launches.filter fun l => decide (l.f = f ∧ l.q = q)
    if (s.queue f q).st != .resetting || mine.any fun l => s.launchLives l.lid then s
    else
      let s1 := (s.payOwed f q (s.queue f q).owed).cancelRecords f q mine
      let s2 := { s1 with launches := s1.launches.filter fun l => !decide (l.f = f ∧ l.q = q) }
      let s3 := s2.onQueue f q fun x => { x with taken := [], owed := [], head := x.tail, stopped := false }
      let s4 := (s3.qcbPut f q 0x80 4 (s3.queue f q).head.toNat).putInflight f q
      ((s4.setQState f q .reset).completionIrq f q).noteIdle f q

end Sys2Proof.Machine
end

