-- ==== Sys2Proof/Machine/Sched.lean ====
section
/-! DEFINITION. The scheduler tree (R14, R21 to R26, R57, R77 to R81, R86): dealing, placing, the start of teams and
blocks, handler teams, the end of blocks, reports and stealing. -/

namespace Sys2Proof.Machine

/-! ### Teams and blocks at their start (R21) -/

/-- A team as it starts (R16, R21, R71). -/
def Team.start (d : Desc) (args : List Word) (uid bid lid tno index : Nat) : Team :=
  { Team.vacant with
    st := .resident, uid := uid, bid := bid, lid := lid, d := d, tno := tno
    bx := index % d.gridx, byy := index / d.gridx % d.gridy, bz := index / d.gridx / d.gridy
    at_ := ⟨d.kernel, 0⟩
    mask := fullMask d.teamw
    v := List.replicate d.regs (List.replicate (32 * d.words) ⟨0, 63⟩)
    s := (args ++ List.replicate 64 0).take 64
    origin := (List.range d.teamw).map fun l => tno * 1024 + l
    tiles := List.replicate 16 (List.replicate d.words none)
    fpctl := fpctlOf d.fpctl0 ||| (if d.csb then 0x100 else 0)
    sbthr := sbthrOf d.sbthr0 }

/-- A block as it starts (R11, R21, R237). -/
def Block.start (d : Desc) (bid lid index home : Nat) (pair : Bool) : Block :=
  { Block.vacant with live := true, bid := bid, lid := lid, d := d, index := index, home := home, pair := pair }

/-! ### What is free (R23, R25) -/

/-- Whether the core's partition holds back room for handler teams (R23). -/
def State.tableOn (s : State) (c : Nat) : Bool := (s.part (s.partOfCore c)).handlers.isSome

/-- The teams that hold room on a core: resident or frozen, handler teams apart (R22, R23). -/
def State.quadUse (s : State) (c q : Nat) : QuadUse :=
  let ts := (s.ordinary c).filter fun t => t.quad = q
  ⟨ts.map (·.slot), (ts.map (·.d.words)).foldl (· + ·) 0, (ts.map (·.d.file)).foldl (· + ·) 0⟩

/-- KiB of scratchpad allocated on a core (R23, R26). -/
def State.kibUsed (s : State) (c : Nat) : Nat :=
  (((s.allBlocks.filter fun b => b.live && b.home == c).map (·.d.kib)).foldl (· + ·) 0)

/-- `n` teams of a shape bound on a core, with `kib` of scratchpad, if there is room now. -/
def State.bindOn (s : State) (c : Nat) (d : Desc) (n kib : Nat) : Option Binding :=
  if 768 < s.kibUsed c + kib then none
  else Binding.many d (s.tableOn c) n ⟨[], (s.core c).qptr, (List.range 4).map (s.quadUse c)⟩

/-- Context area of a team, and of a block with its teams (R226). -/
def Desc.teamArea (d : Desc) : Nat := d.words * (160 * d.regs + 32 + 49152) + 49152
def Desc.area (d : Desc) : Nat := d.teams * d.teamArea + d.kib * 1024 + 4096

/-- Whether a partition's context pool has room for one more block (R226). -/
def State.areaFree (s : State) (d : Desc) : Bool :=
  let used := (((s.allBlocks.filter fun b => b.live && b.d.part == d.part).map (·.d.area)).foldl (· + ·) 0)
    + (((s.saved.filter fun b => b.blk.d.part == d.part).map (·.blk.d.area)).foldl (· + ·) 0)
  decide (used + d.area ≤ (s.part d.part).ctxn)

/-- The class rule (R57): classes of the core and its mate within 1, or the mate empty. No bound breaks it
(log 98). -/
def State.classOk (s : State) (c cls : Nat) : Bool :=
  let mate := mateOf c
  (s.coreBlocks mate).isEmpty
    || (let a := max (s.coreClass c) cls
        decide (a ≤ s.coreClass mate + 1 ∧ s.coreClass mate ≤ a + 1))

/-! ### Where a block goes (R24, R26, R79) -/

/-- A place found for a block: its home core, whether it spans the pair, and the bindings of its teams there. -/
structure Placing where
  home : Nat
  pair : Bool
  lower : Binding
  upper : Option Binding
  deriving DecidableEq, Repr

def State.blocksOn (s : State) (c : Nat) : Nat := (s.coreBlocks c).length

/-- A single core of a pair with room: the one with fewer blocks, on a tie the lower (R79). -/
def State.coreOf (s : State) (d : Desc) (pair : Nat) : Option Placing :=
  let cs := sortBy (s.blocksOn ·) [2 * pair, 2 * pair + 1]
  cs.findSome? fun c =>
    if s.classOk c d.cls then (s.bindOn c d d.teams d.kib).map fun b => ⟨c, false, b, none⟩ else none

/-- The class rule for a block on both cores of a pair: the classes they then have differ by at most 1 (R57). -/
def State.pairClassOk (s : State) (pair cls : Nat) : Bool :=
  let a := max (s.coreClass (2 * pair)) cls
  let b := max (s.coreClass (2 * pair + 1)) cls
  decide (a ≤ b + 1 ∧ b ≤ a + 1)

/-- Both cores of a pair with room for the halves of a block (R26), within the class rule (R57). -/
def State.pairOf (s : State) (d : Desc) (pair : Nat) : Option Placing :=
  if !s.pairClassOk pair d.cls then none
  else match s.bindOn (2 * pair) d ((d.teams + 1) / 2) d.kib, s.bindOn (2 * pair + 1) d (d.teams / 2) 0 with
  | some a, some b => some ⟨2 * pair, true, a, some b⟩
  | _, _ => none

/-- The place of a block on a pier's cores that the partition holds (R79). -/
def State.findPlace (s : State) (pier : Nat) (d : Desc) : Option Placing :=
  let p := s.part d.part
  let mine := fun (k : Nat) => ownsPair p k
  if !s.areaFree d then none
  else
    match d.spread p.handlers.isSome with
    | .core =>
      let load := fun (k : Nat) => s.blocksOn (2 * k) + s.blocksOn (2 * k + 1)
      (sortBy load ([2 * pier + 1, 2 * pier].filter mine)).findSome? (s.coreOf d)
    | .pair => ([2 * pier, 2 * pier + 1].filter mine).findSome? (s.pairOf d)
    | .nowhere => none

/-- Where team `t` of a placed block goes: core, quadrant and slot. -/
def Placing.spot (x : Placing) (t : Nat) : Nat × Nat × Nat :=
  match x.upper with
  | some u =>
    let b := if t % 2 = 0 then x.lower else u
    let y := b.places.getD (t / 2) (0, 0)
    (x.home + t % 2, y.1, y.2)
  | none =>
    let y := x.lower.places.getD t (0, 0)
    (x.home, y.1, y.2)

/-- A team set on its spot, stamped youngest (R30). -/
def Team.seat (t : Team) (x : Placing) (age : Nat) : Team :=
  let y := x.spot t.tno
  { t with core := y.1, quad := y.2.1, slot := y.2.2, age := age, starve := 0, readyAt := 0 }

/-- Quadrant pointers after a block of a tenant has been bound (R25), which is resident in this window (R335). -/
def State.movePtrs (s : State) (tenant : Nat) (x : Placing) : State :=
  let s1 := s.onCore x.home fun k => { k with qptr := x.lower.ptr, passes := addPasses k.passes tenant 0 }
  match x.upper with
  | some u => s1.onCore (x.home + 1) fun k => { k with qptr := u.ptr, passes := addPasses k.passes tenant 0 }
  | none => s1

/-- A new block started on a place (R21, R24 to R26). -/
def State.startBlock (s : State) (d : Desc) (args : List Word) (lid index : Nat) (x : Placing) : State :=
  let bid := s.nextId
  let ts := (List.range d.teams).map fun k => (Team.start d args (bid + 1 + k) bid lid k index).seat x (s.ages + k)
  let ready := ts.map fun t => { t with readyAt := (s.core t.core).opens }
  (State.movePtrs { s with
    nextId := bid + 1 + d.teams
    ages := s.ages + d.teams
    teams := s.teams ++ ready
    blocks := s.blocks ++ [{ Block.start d bid lid index x.home x.pair with lastIssue := s.clock.toNat }] } d.tenant x).pushStarts bid

/-! ### Dealing (R77, R78) -/

/-- Launches of a partition with blocks to deal, the earliest of each queue; only the slice's holder has any (R334). -/
def State.dealable (s : State) (part : Nat) : List Launch :=
  let ls := s.launches.filter fun l =>
    l.d.part == part && !l.cancelled && decide (l.dealt < l.blocks) && (s.part part).holder == some l.d.tenant
  ls.filter fun l => !(ls.takeWhile fun m => m.lid != l.lid).any fun m => m.f == l.f && m.q == l.q

/-- A queue's place in the order of visits, from where the round goes on (R78). -/
def visitKey (start : Nat × Nat) (l : Launch) : Nat :=
  let k := l.f * 64 + l.q
  let k0 := start.1 * 64 + start.2
  if k0 ≤ k then k - k0 else k + 64 * Config.numFunctions - k0

/-- The launch that deals next: the most urgent class, then the round of queues. -/
def State.nextDeal (s : State) (part : Nat) : Option Launch :=
  let ls := s.dealable part
  match minBy (·.d.prio) ls with
  | none => none
  | some b => minBy (visitKey (s.part part).nextQueue) (ls.filter fun l => l.d.prio = b.d.prio)

/-- The pier after one among a partition's piers, in a round. -/
def nextPier (ps : List Nat) (p : Nat) : Nat := (ps.find? fun x => decide (p < x)).getD (ps.headD 0)

/-- The places of every block of a D-mode launch at once, if they can all be placed (R74): each block in turn
on the first pier with room (log 103). -/
def State.placeGrid (s : State) (l : Launch) : List Nat → Option State
  | [] => some s
  | b :: r =>
    match (s.part l.d.part).piers.findSome? fun n => s.findPlace n l.d with
    | some x => State.placeGrid (s.startBlock l.d l.args l.lid b x) l r
    | none => none

/-- DISPATCH (R78): the core deals the next range of a partition's launches to the pier its pointer names, for a
permit; a D-mode grid is placed whole (R74). The round of queues moves on after every range (log 101), and a D-mode launch
without room holds the round (log 102). -/
def execDispatch (part : Nat) (s : State) : Host.Outcome State Fault Refusal :=
  .next <|
    let p := s.part part
    match s.nextDeal part with
    | none => s
    | some l =>
      let after := fun (s : State) (n : Nat) =>
        (s.onLaunch l.lid fun l => { l with dealt := l.dealt + n }).onPart part fun p => { p with nextQueue := (l.f, l.q + 1) }
      if p.st != .active && p.st != .draining then s
      else if l.d.dmode then
        match s.placeGrid l (List.range l.blocks) with
        | some s1 => after s1 l.blocks
        | none => s
      else
        let pier := p.pierPtr
        if (s.pier pier).cmdPermits = 0 then s
        else
          let n := min l.chunk (l.blocks - l.dealt)
          let s1 := s.onPier pier fun x =>
            { x with cmdPermits := x.cmdPermits - 1, link := x.link ++ [⟨l.lid, l.dealt, n, part, l.d.prio, false⟩] }
          (after s1 n).onPart part fun p => { p with pierPtr := nextPier p.piers pier }

/-- A leaf takes what its link holds: ranges join their class queues, permits go back (R77, R79). -/
def State.leafTake (s : State) (pier : Nat) : State :=
  s.onPier pier fun x => { x with queue := x.queue ++ x.link, cmdPermits := x.cmdPermits + x.link.length, link := [] }

/-! ### Placing (R79) -/

/-- The saved blocks that wait on a leaf for their restore, in a partition and class. -/
def State.restoring (s : State) (pier part : Nat) : List SavedBlock :=
  s.saved.filter fun b => b.restorePier == some pier && b.blk.d.part == part && (s.part part).holder == some b.blk.d.tenant

/-- The range at the head of the most urgent class of a partition's queue on a leaf, its tenant's slice given. -/
def State.headRange (s : State) (pier part : Nat) : Option BlockRange :=
  minBy (·.prio) ((s.pier pier).queue.filter fun r =>
    r.part == part && match s.launch r.lid with
      | some l => (s.part part).holder == some l.d.tenant
      | none => false)

/-- A begun block, resident or saved (R83). -/
structure Begun where
  blk : Block
  saved : Bool
  deriving DecidableEq, Repr

/-- The oldest begun block of the least urgent class of the slice's holder, once it has waited 2^23 cycles (R83). -/
def State.lowest (s : State) (part : Nat) : Option Begun :=
  let mine := fun (b : Block) => b.live && !b.handler && b.d.part == part && (s.part part).holder == some b.d.tenant
  let bs := (((s.allBlocks.filter mine).map fun b => (⟨b, false⟩ : Begun))
    ++ ((s.saved.filter fun x => mine x.blk).map fun x => ⟨x.blk, true⟩))
  let worst := greatest (bs.map (·.blk.d.prio))
  (minBy (·.blk.bid) (bs.filter fun x => x.blk.d.prio = worst)).filter fun x =>
    decide (x.blk.lastIssue + 2 ^ 23 ≤ s.clock.toNat)

/-- That block, where it waits on a leaf for its restore, while the bound holds: not in a partition that drains (R83). -/
def State.lowestOn (s : State) (pier part : Nat) : Option SavedBlock :=
  if (s.part part).st == .active then
    (s.lowest part).bind fun x => (s.restoring pier part).find? fun b => b.blk.bid == x.blk.bid
  else none

/-- A class-0 launch of the slice's holder that waits for a place for its first block (R82). -/
def State.urgentLaunch (s : State) (part : Nat) : Option Launch :=
  s.launches.find? fun l =>
    !l.begun && l.d.part == part && l.d.prio == 0 && !l.cancelled && (s.part part).holder == some l.d.tenant && l.ended + l.killed == 0
      && !(s.allBlocks.any fun b => b.live && b.lid == l.lid) && !(s.saved.any fun b => b.blk.lid == l.lid)
      && (decide (l.dealt < l.blocks) || s.piers.any fun p => (p.queue ++ p.link).any fun r => r.lid == l.lid)

/-- Whether the cores of a partition are kept for such a launch: it has a context area (R82, R226). -/
def State.keptFor (s : State) (part : Nat) : Option Launch := (s.urgentLaunch part).filter fun l => s.areaFree l.d

/-- Whether a block of a class gives way to such a launch in D-mode, whose grid stands in no leaf's queue (R74, R82). -/
def State.givesWay (s : State) (part prio : Nat) : Bool := (s.keptFor part).any fun l => l.d.dmode && prio != 0

/-- The first block of a range taken off a queue. -/
def takeFirst (q : List BlockRange) (r : BlockRange) : List BlockRange :=
  match q with
  | [] => []
  | x :: t => if x = r then (if r.count ≤ 1 then t else { r with first := r.first + 1, count := r.count - 1 } :: t) else x :: takeFirst t r

/-- BLOCK_PLACE (R79): the leaf's next block goes on a core or a pair with room, or waits at the head of its class;
a saved block sent to the leaf goes first in its class, one of the same launch before all unbegun blocks (R32), and the one that
R83 is due for before all. -/
def execBlockPlace (pier part : Nat) (s : State) : Host.Outcome State Fault Refusal :=
  .next <|
    let s := s.leafTake pier
    let p := s.part part
    match s.headRange pier part with
    | none => s
    | some r =>
      if (p.st != .active && p.st != .draining) || (s.pier pier).leafFrozen
          || ((s.restoring pier part).any fun b => decide (b.blk.d.prio ≤ r.prio)) || (s.lowestOn pier part).isSome
          || s.givesWay part r.prio || s.saved.any fun b => b.blk.lid == r.lid then s
      else
        match s.launch r.lid with
        | none => s
        | some l =>
          match s.findPlace pier l.d with
          | none => s
          | some x => (s.onPier pier fun y => { y with queue := takeFirst y.queue r }).startBlock l.d l.args l.lid r.first x

/-! ### Handler teams (R86) -/

/-- The launch constants of a handler team (R85, R86). -/
def HandlerTable.desc (t : HandlerTable) (e : HandlerEntry) (part : Nat) : Desc :=
  { Desc.none with
    kernel := e.entry, gridx := 1, gridy := 1, gridz := 1, teamw := e.groupw, groupw := e.groupw, teams := 1, regs := e.regs
    fpctl0 := e.fpctl, traph := e.trap, asid := t.asid, tenant := t.tenant, part := part, messages := true }

/-- HANDLER_SPAWN (R86): a team for the oldest message of a core's inbox on the lowest quadrant whose handler slot is
free, with a context area (R226); a partition that is neither ACTIVE nor DRAINING places no block (R331). -/
def execHandlerSpawn (core : Nat) (s : State) : Host.Outcome State Fault Refusal :=
  .next <|
    let part := s.partOfCore core
    match (s.core core).inbox, (s.part part).handlers with
    | m :: rest, some t =>
      match t.entry? m.handler, (List.range 4).find? fun q => !(s.coreTeams core).any fun u => u.handler && u.quad == q with
      | some e, some q =>
        let d := t.desc e part
        if !s.areaFree d || ((s.part part).st != .active && (s.part part).st != .draining) then s
        else
        let bid := s.nextId
        let words := (m.words ++ List.replicate 8 0).take 8 ++ [m.src, BitVec.ofNat 32 m.words.length]
        let u := { Team.start d words (bid + 1) bid 0 0 0 with
          core := core, quad := q, slot := 31, handler := true, age := s.ages, readyAt := (s.core core).opens }
        let b := { Block.start d bid 0 0 core false with handler := true, lastIssue := s.clock.toNat }
        { s.onCore core fun k => { k with inbox := rest, passes := addPasses k.passes d.tenant 0 } with
          nextId := bid + 2, ages := s.ages + 1, teams := s.teams ++ [u], blocks := s.blocks ++ [b] }
      | _, _ => s
    | _, _ => s

/-! ### The end of a block (R22, R219, R223) -/

/-- A team whose stores and atomics are all acknowledged: unsent stores only where they are discarded. -/
def Team.quiet (t : Team) : Bool :=
  t.stores.isEmpty && t.waiting.isEmpty && t.flight.isEmpty && t.dheld.isEmpty && t.accesses.all fun a => !a.isAtomic

/-- A team that a kill or flush has stopped: nothing sent is outstanding. -/
def Team.stopped (t : Team) : Bool :=
  (t.stores.all fun e => e.st == .unsent) && t.flight.isEmpty && t.accesses.all fun a => a.st == .unsent

/-- Everything of a block dropped from its cores; a frozen team stays for inspection (R220). -/
def State.dropBlock (s : State) (bid : Nat) : State :=
  let keep := fun (t : Team) => !(t.bid == bid) || t.st == .frozen
  let mine := (s.blockTeams bid).map (·.uid)
  let clean := fun (q : Quad) =>
    { q with mtxq := q.mtxq.filter (fun e => !mine.contains e.uid), phys := q.phys.filter fun p => !mine.contains p.uid }
  { s with
    sel := if s.cur.bid = bid then false else s.sel
    cur := if keep s.cur then s.cur else .vacant
    teams := s.teams.filter keep
    blk := if s.blk.live && s.blk.bid == bid then .vacant else s.blk
    blocks := s.blocks.filter fun b => !(b.live && b.bid == bid)
    cores := s.cores.map fun k => { k with quads := k.quads.map clean }
    holders := s.holders.filter fun h =>
      match h.2 with
      | .team uid | .retried uid => !mine.contains uid
      | .copy b => b != bid
      | .entry _ _ _ => true }

/-- A report queued at the leaf of a core (R77). -/
def State.report (s : State) (core : Nat) (r : Report) : State := s.onPier (core / 4) fun x => { x with reports := x.reports ++ [r] }

/-- A block back in its class queue as a range of one: before the unbegun blocks of its launch, or at the head of
its class (R221, R223). Its launch keeps that a block of it has issued (R82). -/
def State.requeue (s : State) (b : Block) (head : Bool) : State :=
  let r : BlockRange := ⟨b.lid, b.index, 1, b.d.part, b.d.prio, b.d.dmode⟩
  (s.onLaunch b.lid fun l => { l with begun := l.begun || b.issued }).onPier (b.home / 4) fun x =>
    { x with queue :=
        if head then r :: x.queue
        else
          let before := x.queue.takeWhile fun y => y.lid != b.lid
          before ++ r :: x.queue.drop before.length }

/-- The entries of a block that started cancelled, as a flush does (R321). -/
def State.cancelEntries (s : State) (b : Block) : State :=
  match s.launch b.lid with
  | none => s
  | some l =>
    l.ents.foldl (fun s r =>
      if r.bid ≠ b.bid then s
      else
        match r.st, l.table[r.idx]? with
        | .running, some e | .held .., some e => s.cancelEntry l b.bid b.index (r.idx, e)
        | _, _ => s) s

/-- The cycles a drained block has spent past the end of its slice, owed by its tenant (R222). -/
def State.charge (s : State) (b : Block) : State :=
  if b.leaving == .drain || b.leaving == .nopre then
    s.onPart b.d.part fun p =>
      if p.holder == some b.d.tenant then p else { p with debts := (b.d.tenant, s.clock.toNat - b.leftAt) :: p.debts }
  else s

/-- Whether a D-mode block's end waits (R268, R274): a killed one for the blocks of its launch killed before it, or at the same commit
with a lower index, so that the launch's fault does not depend on timing (log 121); one whose teams have ended for the commit of the
quantum in which they acted. -/
def State.endWaits (s : State) (b : Block) : Bool :=
  let key := fun (k : KillInfo) (x : Block) => if k.report then some (x.killAt.toNat, x.index) else none
  b.d.dmode && !b.handler &&
    match b.kill with
    | none => (s.blockTeams b.bid).any (·.qacted)
    | some k => (key k b).any fun y => s.allBlocks.any fun x =>
        x.live && x.lid == b.lid && !x.handler && ((x.kill.bind (key · x)).any fun z => decide (z.1 < y.1 ∨ (z.1 = y.1 ∧ z.2 < y.2)))

/-- BLOCK_END (R22, R219, R223): a block whose teams have ended and whose stores, atomics and copies are done is
recorded as complete; a killed one, once nothing it sent is outstanding, is reported with its record; a flushed one
goes back to its queue. -/
def execBlockEnd (bid : Nat) (s : State) : Host.Outcome State Fault Refusal :=
  .next <|
    match s.block bid with
    | none => s
    | some b =>
      let ts := s.blockTeams bid
      match b.kill with
      | some k =>
        if !(ts.all Team.stopped) || s.endWaits b then s
        else
          let s1 := if k.report then s.postBlockFault b k else s
          if b.handler then s1.dropBlock bid else ((s1.charge b).dropBlock bid).report b.home (.killed b.lid bid)
      | none =>
        if b.leaving == .flush then
          if ts.all Team.stopped then ((s.cancelEntries b).dropBlock bid).requeue b false else s
        else if (ts.all fun t => t.st == .ended && t.quiet && !s.mtxBusy t) && b.copies.isEmpty && !s.endWaits b then
          if b.handler then s.dropBlock bid else ((s.charge b).dropBlock bid).report b.home (.done b.lid)
        else s

/-- Reports of one kind taken off a leaf's list. -/
def State.takeReports (s : State) (pier : Nat) (p : Report → Bool) : State :=
  s.onPier pier fun x => { x with reports := x.reports.filter fun r => !p r }

/-- DONE (R77, R80): the leaf reports how many blocks of a launch have ended, for a permit that comes back at once. -/
def execDone (pier lid : Nat) (s : State) : Host.Outcome State Fault Refusal :=
  .next <|
    let n := ((s.pier pier).reports.filter fun r => r == .done lid).length
    if (s.pier pier).repPermits = 0 then s
    else (s.takeReports pier fun r => r == .done lid).onLaunch lid fun l => { l with ended := l.ended + n }

/-- KILLED (R77, R80, R219). -/
def execKilled (bid : Nat) (s : State) : Host.Outcome State Fault Refusal :=
  .next <|
    let at_ := (List.range Config.numPiers).findSome? fun n =>
      (s.pier n).reports.findSome? fun r =>
        match r with
        | .killed lid b => if b = bid then some (n, lid) else none
        | .done _ | .saved _ => none
    match at_ with
    | none => s
    | some (n, lid) =>
      if (s.pier n).repPermits = 0 then s
      else (s.takeReports n fun r => r == .killed lid bid).onLaunch lid fun l => { l with killed := l.killed + 1 }

/-! ### Stealing (R81) -/

/-- Whether a leaf has a core of the partition with room for an ordinary team. -/
def State.hasRoom (s : State) (pier part : Nat) : Bool :=
  ((List.range 4).map (4 * pier + ·)).any fun c =>
    ownsCore (s.part part) c && (List.range 4).any fun q =>
      let u := s.quadUse c q
      let t := s.tableOn c
      decide (u.slots.length < 31 ∧ u.words < (if t then 62 else 64) ∧ u.file < (if t then 376 else 384) * 1024)

/-- The other piers of a partition, ascending. -/
def State.otherPiers (s : State) (pier part : Nat) : List Nat := (s.part part).piers.filter (· != pier)

/-- NONE answered to a thief: it waits 2 µs (R81). -/
def Pier.refused (x : Pier) (part until_ : Nat) : Pier :=
  { x with stealing := x.stealing.filter (· != part), backoff := (part, until_) :: x.backoff.filter fun y => y.1 ≠ part }

/-- Whether a leaf steals (R81): nothing is queued on it, a core has room, it has a victim, and awaits no answer. A saved block sent to
it by RESTORE stands in none of its block queues (log 122). -/
def State.mayAsk (s : State) (pier part : Nat) : Bool :=
  let x := s.pier pier
  (s.part part).piers.contains pier && !(s.otherPiers pier part).isEmpty && !(x.queue.any fun r => r.part == part)
    && !x.stealing.contains part && !(x.backoff.any fun b => b.1 == part) && !x.leafFrozen && (s.part part).st != .quarantined
    && s.hasRoom pier part

/-- STEAL_REQUEST (R81): a leaf with nothing queued and room asks a victim drawn by its shift register; a victim that
holds two requests answers NONE at once. -/
def execStealRequest (pier part : Nat) (s : State) : Host.Outcome State Fault Refusal :=
  .next <|
    let s := s.leafTake pier
    let others := s.otherPiers pier part
    if !s.mayAsk pier part then s
    else
      let reg := Config.stealNext (s.pier pier).shift
      let victim := others.getD (reg.toNat % others.length) 0
      let s1 := s.onPier pier fun x => { x with shift := reg, stealing := part :: x.stealing }
      if 2 ≤ (s1.pier victim).asked.length then s1.onPier pier fun x => x.refused part (s.clock.toNat + 2500)
      else s1.onPier victim fun v => { v with asked := v.asked ++ [(pier, part)] }

/-- What a victim gives: the last half of its most urgent class's tail range (R81). -/
def stolen (q : List BlockRange) (part : Nat) : Option (BlockRange × List BlockRange) :=
  let mine := q.filter fun r => r.part == part && !r.noSteal
  match minBy (·.prio) mine with
  | none => none
  | some b =>
    match (mine.filter fun r => r.prio = b.prio).getLast? with
    | none => none
    | some r =>
      let give := ceilDiv r.count 2
      let left := r.count - give
      some ({ r with first := r.first + left, count := give },
        q.filterMap fun x => if x = r then (if left = 0 then none else some { r with count := left }) else some x)

/-- STEAL_ANSWER (R81): a victim's queue logic answers its oldest request of the partition. -/
def execStealAnswer (pier part : Nat) (s : State) : Host.Outcome State Fault Refusal :=
  .next <|
    let s := s.leafTake pier
    match (s.pier pier).asked.find? fun a => a.2 = part with
    | none => s
    | some (thief, _) =>
      let s1 := s.onPier pier fun v => { v with asked := v.asked.erase (thief, part) }
      match stolen (s1.pier pier).queue part with
      | none => s1.onPier thief fun x => x.refused part (s.clock.toNat + 2500)
      | some (r, q) =>
        (s1.onPier pier fun v => { v with queue := q }).onPier thief fun x =>
          { x with queue := x.queue ++ [r], stealing := x.stealing.filter (· != part) }

/-- STEAL_BACKOFF_END (R81). -/
def execStealBackoffEnd (pier part : Nat) (s : State) : Host.Outcome State Fault Refusal :=
  .next <| s.onPier pier fun x => { x with backoff := x.backoff.filter fun b => b.1 ≠ part || decide (s.clock.toNat < b.2) }

/-! ### A launch cancelled (R84) -/

/-- CANCEL (R84): a leaf discards the launch's queued and saved blocks and kills its resident ones without records;
the launch's messages not yet accepted are dropped. -/
def execCancel (pier lid : Nat) (s : State) : Host.Outcome State Fault Refusal :=
  .next <|
    let s := s.leafTake pier
    match s.launch lid with
    | none => s
    | some l =>
      if !l.cancelled || (s.pier pier).cmdPermits = 0 then s
      else
        let bs := s.allBlocks.filter fun b => b.live && b.lid == lid && b.home / 4 == pier
        let s1 := bs.foldl (fun s b => s.killWith b.bid ⟨0, 0, 0, 0, 0, 0, false⟩) s
        { s1.onPier pier fun x => { x with queue := x.queue.filter fun r => r.lid != lid } with
          saved := s1.saved.filter fun b => b.blk.lid != lid
          channel := s1.channel.filter fun m => m.lid != lid }

end Sys2Proof.Machine
end

