-- ==== Sys2Proof/Machine/Preempt.lean ====
section
/-! DEFINITION. Slices, pre-emption, save and restore (R82, R83, R221 to R230, R264 to R266 of *moves*, R334), the
watchdog, and the commit of a D-mode quantum (R267 to R274 of *D-mode*). -/

namespace Sys2Proof.Machine

/-! ### The decision of R221 -/

/-- The largest DUE of a launch's table. -/
def Launch.lastDue (l : Launch) : Nat := greatest (l.table.map (·.due))

/-- A block's mark and its launch's last due mark, where they say how far it is (R221): none if the remainder is
unknown. A block whose teams have all ended has nothing left to do. -/
def State.progress (s : State) (b : Block) : Option (Nat × Nat) :=
  match s.blockMark b.bid, s.launch b.lid with
  | none, _ => some (1, 1)
  | some m, some l => if b.d.setout = 0 ∨ m = 0 then none else some (m, l.lastDue)
  | some _, none => none

/-- What R221 decides for a block, with a drain budget in µs, or without its drain row (R229). -/
def State.judge (s : State) (b : Block) (budget : Option Nat) : Leaving :=
  let known := s.progress b
  let drains := match known, budget with
    | some (m, last), some us => decide (last ≤ m ∨ b.cycles * (last - m) ≤ us * 1250 * m)
    | _, _ => false
  let flushes := b.d.idem && !b.d.dmode && match known with
    | none => true
    | some (m, last) => decide (2 * m < last)
  if drains then .drain else if flushes then .flush else .save

/-- A block ordered off its cores; a flushed one stops at once (R223). -/
def State.leave (s : State) (bid : Nat) (how : Leaving) : State :=
  let s1 := s.onBlock bid fun b => { b with leaving := how, leftAt := s.clock.toNat, ctx := if how == .save then none else b.ctx }
  if how == .flush then s1.stopBlock bid else s1

/-- The resident blocks of a launch. -/
def State.launchBlocks (s : State) (lid : Nat) : List Block :=
  s.allBlocks.filter fun b => b.live && !b.handler && b.lid == lid && b.kill.isNone

/-- The shared decision for the blocks of a D-mode launch (R230): drained if every block would drain, else saved; drained whatever
the tests say while a team has NOPRE set (R229). -/
def State.decideGrid (s : State) (bs : List Block) (budget : Option Nat) : Leaving :=
  if budget.isSome && bs.any s.nopreHeld then .nopre
  else if bs.all fun b => s.judge b budget == .drain then .drain else .save

/-- One block given up (R221, R229, R230): a block that has not issued goes back to the head of its class queue, a
D-mode grid that has not issued to its launch; else the decision is taken once. -/
def State.evict (s : State) (bid budget : Nat) : State :=
  match s.block bid with
  | none => s
  | some b =>
    if b.handler || b.kill.isSome || b.leaving != .no then s
    else if b.d.dmode then
      let bs := s.launchBlocks b.lid
      if bs.any (·.issued) then
        let how := s.decideGrid bs (some budget)
        bs.foldl (fun s x => s.leave x.bid how) s
      else
        (bs.foldl (fun (s : State) x => (s.cancelEntries x).dropBlock x.bid) s).onLaunch b.lid fun l =>
          { l with dealt := l.dealt - bs.length }
    else if !b.issued then ((s.cancelEntries b).dropBlock bid).requeue b true
    else s.leave bid (if s.nopreHeld b then .nopre else s.judge b (some budget))

/-- Blocks given up in turn; of several that have not issued, each is put at the head of its class queue, so that the last stands first
(R221; log 124). -/
def State.evictAll (s : State) (bs : List Block) (budget : Nat) : State := bs.foldl (fun s b => s.evict b.bid budget) s

/-! ### Slices (R334, R335) -/

/-- Whether a queue's next command is a launch of the tenant that can be taken. -/
def State.launchWaits (s : State) (part tenant : Nat) : Bool :=
  (List.range Config.numFunctions).any fun f =>
    (s.func f).fpart == part && (List.range Config.numQueues).any fun q =>
      let h := (s.queue f q).half
      h.part == part && h.tenant == tenant && s.takes f q &&
        match s.nextCommand f q with
        | (_, .ok c) => c.kind == 1
        | (_, .error _) => false

/-- Whether a tenant has anything left to place or run (R334). -/
def State.hasWork (s : State) (part tenant : Nat) : Bool :=
  (s.launches.any fun l => l.d.part == part && l.d.tenant == tenant && !l.cancelled && decide (l.ended + l.killed < l.blocks))
    || s.launchWaits part tenant

/-- Tenants in table order, from after the holder round to it. -/
def Partition.round (p : Partition) (holder : Option Nat) : List Nat :=
  let ts := (p.tenants.filter (·.valid)).map (·.id)
  match holder with
  | none => ts
  | some h => (ts.dropWhile (· != h)).drop 1 ++ ts.takeWhile (· != h) ++ ts.filter (· == h)

def Partition.tenant? (p : Partition) (id : Nat) : Option Tenant := p.tenants.find? fun t => t.valid && t.id == id

/-- Whether the energy of the slice has been spent (R335): 10^9 units of the sum are 1 mJ, 0 is no limit. -/
def Partition.spent (p : Partition) (t : Tenant) : Bool :=
  let e := (p.energy.lookup t.id).getD (0, 1)
  t.energy != 0 && decide (t.energy * 10 ^ 9 * e.2 ≤ e.1)

/-- What a tenant owes at the start of its slice (R222): the cycles of its drained blocks, ended or not. -/
def State.owes (s : State) (part tenant : Nat) : Nat :=
  let owing := s.allBlocks.filter fun b =>
    b.live && b.d.part == part && b.d.tenant == tenant && (b.leaving == .drain || b.leaving == .nopre)
  ((((s.part part).debts.filter fun d => d.1 = tenant).map (·.2)) ++ owing.map fun b => s.clock.toNat - b.leftAt).foldl (· + ·) 0

/-- Whether a launch has issued an instruction (R82). -/
def State.launchIssued (s : State) (l : Launch) : Bool :=
  l.begun || l.ended + l.killed != 0 || (s.allBlocks.any fun b => b.live && b.lid == l.lid && b.issued) || s.saved.any fun b => b.blk.lid == l.lid

/-- A class-0 launch of a partition that has not issued and has a context area (R82, R226). -/
def State.unissued (s : State) (part : Nat) (l : Launch) : Bool :=
  l.d.part == part && l.d.prio == 0 && !l.cancelled && l.blocks != 0 && !s.launchIssued l && s.areaFree l.d

/-- The tenant of a class-0 launch that needs the partition from its holder (R82, R334): it has not issued, and its tenant has time and
energy left; a holder's own such launch issues first. -/
def State.urgentOther (s : State) (part holder : Nat) : Option Nat :=
  let p := s.part part
  let budget := fun (id : Nat) => (p.tenant? id).any fun t => !p.spent t && decide (s.owes part id < t.time * 1250)
  if s.launches.any fun l => l.d.tenant == holder && s.unissued part l then none
  else (s.launches.find? fun l => l.d.tenant != holder && s.unissued part l && budget l.d.tenant).map (·.d.tenant)

/-- The slice given to a tenant: fresh counts, its debts charged, its draining blocks no longer past a slice. -/
def State.giveSlice (s : State) (part tenant : Nat) : State :=
  let s1 := s.onPart part fun p =>
    { p with holder := some tenant, sliceStart := (s.clock.toNat : Int) - s.owes part tenant
             energy := p.energy.filter fun e => e.1 ≠ tenant
             debts := p.debts.filter fun d => d.1 ≠ tenant }
  s1.mapBlocks fun b =>
    if b.live && b.d.part == part && b.d.tenant == tenant && (b.leaving == .drain || b.leaving == .nopre) then
      { b with leaving := .no }
    else b

/-- The slice passed on (R221, R334): to the tenant of an urgent launch, else to the next with work; the same tenant
goes on with fresh counts, and the blocks of another are drained, flushed or saved. For an urgent launch none is drained for more than
20 µs (R82). -/
def State.passSlice (s : State) (part holder : Nat) (urgent : Option Nat) : State :=
  let p := s.part part
  let next := urgent.or ((p.round (some holder)).find? (s.hasWork part))
  if next == some holder then s.onPart part fun p => { p with sliceStart := s.clock.toNat, energy := p.energy.filter fun e => e.1 ≠ holder }
  else
    let mine := fun (b : Block) => b.live && !b.handler && b.d.part == part && b.d.tenant == holder
    let s1 := s.evictAll (s.allBlocks.filter mine) (if urgent.isSome then min p.drain 20 else p.drain)
    let s2 := s1.mapBlocks fun b =>
      if mine b && (b.leaving == .drain || b.leaving == .nopre) then { b with leftAt := s.clock.toNat } else b
    match next with
    | some t => s2.giveSlice part t
    | none => s2.onPart part fun p => { p with holder := none }

/-- Whether tenant slices go on in a partition (R331). -/
def Partition.running (p : Partition) : Bool := p.st == .active || p.st == .draining

/-- SLICE_END (R221, R334): a slice whose time or energy is up, whose tenant has nothing left, or that a class-0 launch
of another tenant needs, ends; with no holder, the first tenant with work takes it. -/
def execSliceEnd (part : Nat) (s : State) : Host.Outcome State Fault Refusal :=
  .next <|
    let p := s.part part
    if !p.running then s
    else
      match p.holder with
      | none =>
        match (p.round none).find? (s.hasWork part) with
        | some t => s.giveSlice part t
        | none => s
      | some h =>
        let urgent := s.urgentOther part h
        let up := match p.tenant? h with
          | some t => decide (p.sliceStart + (t.time * 1250 : Nat) ≤ (s.clock.toNat : Int)) || p.spent t
          | none => true
        if up || urgent.isSome || !s.hasWork part h then s.passSlice part h urgent else s

/-- ENERGY_LIMIT (R335): the slice ends when its energy count has reached ENERGY. -/
def execEnergyLimit (part : Nat) (s : State) : Host.Outcome State Fault Refusal :=
  .next <|
    let p := s.part part
    match p.holder with
    | none => s
    | some h =>
      match p.tenant? h with
      | none => s
      | some t => if p.running && p.spent t then s.passSlice part h none else s

/-! ### PREEMPT (R60, R82, R83) -/

/-- Whether a pier has, or will have, room for a saved block of the least urgent class (R83): a place now, a block that may be
pre-empted for it, or one that leaves. -/
def State.opensFor (s : State) (x : Block) (pier : Nat) : Bool :=
  (s.findPlace pier x.d).isSome || s.allBlocks.any fun b =>
    b.live && !b.handler && b.home / 4 == pier && b.kill.isNone &&
      match b.leaving with
      | .no => b.issued && b.d.prio != x.d.prio
      | .nopre => false
      | .drain | .flush | .save => true

/-- The pier of some for a saved block of the least urgent class (log 90): that which it is on or was on, where room opens there, else
the first where it does, else where it is on. -/
def State.restorePier (s : State) (x : SavedBlock) (piers : List Nat) : Option Nat :=
  let home := x.restorePier.getD (x.blk.home / 4)
  let order := (piers.filter (· == home)) ++ piers.filter (· != home)
  ((order.find? (s.opensFor x.blk)).or x.restorePier).or order.head?

/-- LOWEST_CLASS_RESTORE (R83): such a block, if it is saved, is sent to a leaf of its partition, and to another where no room for it
opens on that; not while the partition drains. -/
def execLowestClassRestore (part : Nat) (s : State) : Host.Outcome State Fault Refusal :=
  .next <|
    match s.lowest part with
    | some x =>
      if x.saved && (s.part part).st == .active then
        { s with saved := s.saved.map fun b => if b.blk.bid = x.blk.bid then { b with restorePier := s.restorePier b (s.part part).piers } else b }
      else s
    | none => s

/-- The blocks that go with those of a core (R60): what the mate holds beside them, unless its class and the replacement's
differ by at most 1. -/
def State.withMate (s : State) (core cls : Nat) (gone : List Block) : List Block :=
  let rest := (s.coreBlocks (mateOf core)).filter fun b => !gone.any fun x => x.bid == b.bid
  let m := greatest (rest.map (·.d.cls))
  if gone.isEmpty || rest.isEmpty || decide (cls ≤ m + 1 ∧ m ≤ cls + 1) then [] else rest.filter fun b => !b.handler && b.leaving == .no

/-- Whether a block that R83 is due for is about to issue: its context comes, or one of its teams is ready. It is let do so. -/
def State.issuesSoon (s : State) (b : Block) : Bool :=
  s.lowest b.d.part == some ⟨b, false⟩
    && (b.ctx.isSome || (s.blockTeams b.bid).any fun t => s.ready t || s.headerDue t || s.silentDue t)

/-- PREEMPT (R60, R82, R83, R221): a leaf releases a core. For a class-0 launch the less urgent blocks go, or issued
class-0 ones where there is no other; for the lowest class, issued blocks of other classes; for a slice, the blocks
of other tenants than its holder. -/
def execPreempt (core : Nat) (why : PreemptReason) (s : State) : Host.Outcome State Fault Refusal :=
  .next <|
    let part := s.partOfCore core
    let p := s.part part
    let on := s.allBlocks.filter fun b => !b.handler && b.leaving == .no && b.onCore core
    if (s.pier (core / 4)).cmdPermits = 0 || !p.running || !ownsCore p core then s
    else
      match why with
      | .class0 =>
        match s.urgentLaunch part with
        | none => s
        | some l =>
          let on := on.filter fun b => !s.issuesSoon b
          let less := on.filter fun b => b.d.prio != 0
          let gone := if less.isEmpty then on.filter (·.issued) else less
          let mates := (s.withMate core l.d.cls gone).filter fun b => b.d.prio != 0 || b.issued
          s.evictAll (gone ++ mates) (min p.drain 20)
      | .lowest =>
        match s.lowest part with
        | none => s
        | some x =>
          if !x.saved || p.st != .active then s
          else
            let gone := on.filter fun b => b.issued && b.d.prio != x.blk.d.prio
            s.evictAll (gone ++ (s.withMate core x.blk.d.cls gone).filter (·.issued)) p.drain
      | .slice => s.evictAll (on.filter fun b => p.holder != some b.d.tenant) p.drain

/-- The first core of some piers with a block that a test takes, on piers that no block was ordered to leave in the last 20 µs, those
that NOPRE holds apart: the cores that the scheduler empties one after another (R82, R83, R229; log 90). -/
def State.victimCore (s : State) (part : Nat) (piers : List Nat) (takes : Block → Bool) : Option Nat :=
  let goes := fun (b : Block) => b.live && b.leaving != .no && b.leaving != .nopre && decide (s.clock.toNat < b.leftAt + 25000)
  let still := piers.filter fun n => !(s.allBlocks.any fun b => goes b && b.home / 4 == n)
  (still.flatMap fun n => (List.range 4).map (4 * n + ·)).find? fun c =>
    ownsCore (s.part part) c && s.allBlocks.any fun b => !b.handler && b.leaving == .no && b.kill.isNone && b.onCore c && takes b

/-- The PREEMPT that the scheduler sends now (R82, R83): for a class-0 launch none of whose blocks has a place yet, else for the
block of the lowest class that waits on a leaf for its restore. -/
def State.preemptDue (s : State) (part : Nat) : List Instr :=
  let p := s.part part
  let urgent := (s.urgentLaunch part).bind fun l =>
    let piers := if l.d.dmode then p.piers else p.piers.filter fun n => (s.pier n).queue.any fun r => r.lid == l.lid
    s.victimCore part piers fun b => (b.d.prio != 0 || b.issued) && !s.issuesSoon b
  let low := p.piers.findSome? fun n =>
    (s.lowestOn n part).bind fun x => s.victimCore part (if x.blk.d.dmode then p.piers else [n]) fun b => b.issued && b.d.prio != x.blk.d.prio
  match urgent, low with
  | some c, _ => [.preempt c .class0]
  | none, some c => [.preempt c .lowest]
  | none, none => []

/-! ### Saving (R224 to R227) -/

/-- Whether a team's results have settled, and its counters are 0: nothing is pending but accesses held on recoverable faults (R224,
R225, R298). -/
def Team.settled (t : Team) : Bool :=
  (t.st == .ended && t.dheld.isEmpty) ||
    (t.st == .resident && t.window.isNone && t.fix.isEmpty && t.tagged.isEmpty && t.spad.isEmpty && t.accesses.isEmpty
      && t.waiting.isEmpty && t.mtx.isEmpty && t.msg.isEmpty && t.cpy.isEmpty && t.dheld.isEmpty)

/-- Whether a block may be saved: its teams have settled and its copies are done (R224); a D-mode launch's, between quanta, all copies
of its grid (R273). -/
def State.saveReady (s : State) (b : Block) : Bool :=
  ((s.blockTeams b.bid).all fun t => t.settled && !s.mtxBusy t) && b.copies.isEmpty
    && !(b.d.dmode && (s.quantumOpen b.lid || (s.launchBlocks b.lid).any fun x => !x.copies.isEmpty))

/-- A team as its context holds it (R225, R61, R264 of *moves*): sent stores go to the in-flight list, the burn and DLY
are lost. What a read of a low half has caught for the high half is kept (R106; log 126). -/
def Team.saved (t : Team) : Team :=
  { t with
    begun := t.begun.map fun b => (b.1, 0)
    stores := t.stores.filter fun e => e.st == .unsent
    flight := t.flight ++ t.stores.filter fun e => e.st != .unsent
    burn := (0, 0), burnFrom := 0, readyAt := 0, drainFirst := false, starve := 0 }

/-- The beats that move a block's context to or from its areas (R224, R226; log 62), on its home core and on the mate, whose engine
moves the areas of the `mates` teams there. -/
def Desc.ctxBeats (d : Desc) (mates : Nat) : Nat × Nat :=
  (ceilDiv (d.area - mates * d.teamArea) 64, ceilDiv (mates * d.teamArea) 64)

/-- How many of some teams of a block sit on the mate of its home core. -/
def matesOf (home : Nat) (ts : List Team) : Nat := (ts.filter fun t => t.core != home).length

/-- The context of a block of a partition written to its areas: where in the pool they lie and how they are laid out is open, so that
what the pool holds then is a free value (R224, R226; log 62). -/
def State.writeContext (s : State) (part : Nat) : State :=
  let p := s.part part
  let s1 := s.countRows p
  { s1 with
    free := s1.free + 1
    mem := memCells s1.mem p.ctx ((Config.savedContext s1.free).filter fun c => decide (c.1 < p.ctxn)) }

/-- A block saved: its context kept, its resources released, and the leaf has a report (R224). -/
def State.saveBlock (s : State) (b : Block) : State :=
  let s := s.writeContext b.d.part
  let ts := (s.blockTeams b.bid).map Team.saved
  let s1 := (s.charge b).dropBlock b.bid
  State.report { s1 with saved := s1.saved ++ [⟨{ b with leaving := .no, leftAt := 0, ctx := none }, ts, none⟩] } b.home (.saved b.bid)

/-- A save put off, for a team has set NOPRE: the block is drained until the last such bit has cleared (R229), and so are all of a
D-mode launch (R230). -/
def State.holdSave (s : State) (b : Block) : State :=
  let drop := fun (s : State) (x : Block) => s.onBlock x.bid fun y => { y with leaving := .nopre, ctx := none }
  if b.d.dmode then (s.launchBlocks b.lid).foldl drop s else drop s b

/-- BLOCK_SAVE (R224, R229): a block ordered saved is saved once it is quiet and its context has been written; one held by NOPRE
is decided again, without the drain row, when the last such bit has cleared, the cycles that it ran past its slice being owed (R222).
One that the drain row drains already, and whose team then sets and clears NOPRE, stays drained (log 125). -/
def execBlockSave (bid : Nat) (s : State) : Host.Outcome State Fault Refusal :=
  .next <|
    match s.block bid with
    | none => s
    | some b =>
      match b.kill, b.leaving with
      | none, .nopre =>
        if s.nopreHeld b then s
        else if b.d.dmode then (s.launchBlocks b.lid).foldl (fun s x => (s.charge x).leave x.bid .save) s
        else (s.charge b).leave bid (s.judge b none)
      | none, .save =>
        if s.nopreHeld b then s.holdSave b
        else if !s.saveReady b then s
        else
          match b.ctx with
          | none => s.onBlock bid fun b => { b with ctx := some (b.d.ctxBeats (matesOf b.home (s.blockTeams bid))) }
          | some n => if n == (0, 0) then s.saveBlock b else s
      | _, _ => s

/-- SAVED (R77): the leaf reports a saved block, for a permit that comes back at once. -/
def execSaved (bid : Nat) (s : State) : Host.Outcome State Fault Refusal :=
  .next <|
    match (List.range Config.numPiers).find? fun n => (s.pier n).reports.contains (.saved bid) with
    | none => s
    | some n => if (s.pier n).repPermits = 0 then s else s.takeReports n fun r => r == .saved bid

/-! ### Restoring (R79, R226 to R228) -/

/-- RESTORE (R77, R79): a saved block sent to a leaf of its partition, for a permit, once its report has come. -/
def execRestore (bid pier : Nat) (s : State) : Host.Outcome State Fault Refusal :=
  .next <|
    match s.saved.find? fun b => b.blk.bid = bid with
    | none => s
    | some b =>
      let p := s.part b.blk.d.part
      if (s.pier pier).cmdPermits = 0 || !p.piers.contains pier || p.holder != some b.blk.d.tenant
          || s.piers.any fun x => x.reports.contains (.saved bid) then s
      else { s with saved := s.saved.map fun x => if x.blk.bid = bid then { x with restorePier := some pier } else x }

/-- A spot translated again: what it was, what it is, and where it lies now. -/
structure Moving where
  old : Spot
  new : Spot
  pa : Nat
  dev : Bool
  deriving DecidableEq, Repr

/-- Spots translated again, in order, as far as none fails (R247). -/
def State.moveSpots (s : State) : List Spot → State × Except (XRes × DWord) (List Moving)
  | [] => (s, .ok [])
  | x :: r =>
    match s.xlate x.va .store x.n with
    | (s1, .ok pa dev) =>
      match State.moveSpots s1 r with
      | (s2, .ok ms) => (s2, .ok (⟨x, s1.spot x.va x.n pa, pa, dev⟩ :: ms))
      | (s2, .error e) => (s2, .error e)
    | (s1, f) => (s1, .error (f, x.va))

/-- An entry's bytes where its spots lie now, each byte as the last store put it: an entry for each unit, numbered from `n` on. -/
def StoreEntry.moved (e : StoreEntry) (ms : List Moving) (n : Nat) : List StoreEntry :=
  let of := fun (a : Nat) => ms.reverse.find? fun m => decide (m.old.home ≤ a ∧ a < m.old.home + m.old.n)
  (distinct (ms.map (·.pa / 256))).zipIdx.map fun u =>
    let mine := ms.filter fun m => m.pa / 256 == u.1
    { e with
      seq := n + u.2, unit := u.1, dev := mine.any (·.dev), spots := mine.map (·.new)
      bytes := e.bytes.filterMap fun c =>
        match of c.1 with
        | some m => if m.pa / 256 = u.1 then some (m.new.home + (c.1 - m.old.home), c.2) else none
        | none => none }

/-- A store-buffer entry marked stale translated again (R247). -/
def State.freshen (s : State) (e : StoreEntry) : State × Except (XRes × DWord) (List StoreEntry) :=
  if e.seq ≠ 0 then (s, .ok [e])
  else
    match s.moveSpots e.spots with
    | (s1, .ok ms) => ({ s1 with nextId := s1.nextId + ms.length }, .ok (e.moved ms s1.nextId))
    | (s1, .error r) => (s1, .error r)

/-- The current team's entries freshened, in order; a failure kills the block with cause 0x08 and grade C. -/
def State.refill (s : State) : List StoreEntry → List StoreEntry → State
  | [], done => { s with cur := { s.cur with stores := done } }
  | e :: r, done =>
    match s.freshen e with
    | (s1, .ok es) => State.refill s1 r (done ++ es)
    | (s1, .error (.violation true pa, _)) => s1.isolateWalker s1.cur.d.part (s1.cur.core / 4) pa
    | (s1, .error (.violation false _, _)) => s1.isolateTeam
    | (s1, .error (.dead k, va)) => s1.killDead k va
    | (s1, .error (_, va)) => s1.killWith s1.cur.bid ⟨0x08, 0x00, 1, s1.cur.at_.pc, lo32 va, s1.srcid s1.cur, true⟩

/-- The current team resumed (R228): its stores are back in the buffer, its parked accesses are replayed. -/
def State.resume (s : State) : State :=
  let s1 := s.refill s.cur.stores []
  if s1.blk.kill.isSome then s1
  else
    let mine := s1.cur.held.filter (·.failed.isNone)
    let s2 := State.replayAll { s1 with cur := { s1.cur with held := s1.cur.held.filter (·.failed.isSome) } } mine
    { s2 with cur := (distinct (mine.map (·.tag))).foldl Team.settleTag s2.cur }

/-- A saved block set on a place and resumed (R24 to R26, R61, R142, R228): limits apply from the next window, the
floor and automatic ballast at once; its quadrants' predictors are invalidated, and its context is read. Its teams are stamped in
their order (R30), its ended ones seated with the others (log 95). -/
def State.seatSaved (s : State) (b : SavedBlock) (x : Placing) : State :=
  let s := s.countRows (s.part b.blk.d.part)
  let seated := (sortBy (·.tno) b.teams).zipIdx.map fun t => t.1.seat x (s.ages + t.2)
  let ts := seated.map fun t => { t with readyAt := (s.core t.core).opens }
  let k : Block := { b.blk with
    home := x.home, pair := x.pair, t1win := 10, t2win := 16, ctx := some (b.blk.d.ctxBeats (matesOf x.home ts)) }
  let s1 := State.movePtrs { s with
    ages := s.ages + ts.length
    teams := s.teams ++ ts
    blocks := s.blocks ++ [k] }
      b.blk.d.tenant x
  let cores := if x.pair then [x.home, x.home + 1] else [x.home]
  let s2 := cores.foldl (fun s c => s.onCore c fun k => { k with floorLvl := max k.floorLvl b.blk.hold }) s1
  let s3 := ts.foldl (fun (s : State) t => s.onQuad t.core t.quad Quad.forget) s2
  let s4 := (ts.filter fun t => t.st == .resident || t.st == .ended).foldl (fun s t => (s.focus t.uid).resume) s3
  cores.foldl (fun s c => s.onCore c fun k => { k with ballast := s.allWait c }) s4

/-- Saved blocks placed, all or none. -/
def State.placeSaved (s : State) (piers : List Nat) : List SavedBlock → Option State
  | [] => some s
  | b :: r =>
    let s0 := { s with saved := s.saved.filter fun x => x.blk.bid != b.blk.bid }
    match piers.findSome? fun n => s0.findPlace n b.blk.d with
    | some x => State.placeSaved (s0.seatSaved b x) piers r
    | none => none

/-- The saved block that a leaf places next (R79): the one that R83 is due for, else the most urgent, which gives way to a more
urgent unbegun one at the head of the leaf's queue. -/
def State.nextRestore (s : State) (pier part : Nat) : Option SavedBlock :=
  match s.lowestOn pier part with
  | some b => some b
  | none => (minBy (·.blk.d.prio) (s.restoring pier part)).filter fun b =>
      !(s.headRange pier part).any (fun r => decide (r.prio < b.blk.d.prio)) && !s.givesWay part b.blk.d.prio

/-- BLOCK_RESTORE (R79, R83, R228, R230): the next saved block of a leaf is placed and resumes; a D-mode grid is restored together,
once all of it is saved. None resumes before a frozen table walker (R220; log 109). -/
def execBlockRestore (pier part : Nat) (s : State) : Host.Outcome State Fault Refusal :=
  .next <|
    let s := s.leafTake pier
    let p := s.part part
    let walks := fun (n : Nat) => !(s.pier n).walkerFrozen
    match s.nextRestore pier part with
    | none => s
    | some b =>
      if !p.running || (s.pier pier).leafFrozen then s
      else if b.blk.d.dmode then
        let grid := sortBy (·.blk.index) (s.saved.filter fun x => x.blk.lid == b.blk.lid)
        if (s.launchBlocks b.blk.lid).isEmpty then (s.placeSaved (p.piers.filter walks) grid).getD s else s
      else (s.placeSaved ([pier].filter walks) [b]).getD s

/-! ### The watchdog (R229) -/

/-- Whether a block has overstayed: past the end of its slice, or the partition's block time limit. -/
def State.overlong (s : State) (b : Block) : Bool :=
  let p := s.part b.d.part
  let slice := match p.tenant? b.d.tenant with
    | some t => min (4 * t.time * 1250) 12500000
    | none => 12500000
  ((b.leaving == .drain || b.leaving == .nopre) && p.holder != some b.d.tenant && decide (b.leftAt + slice ≤ s.clock.toNat))
    || (p.blklim != 0 && decide (p.blklim * 1250000 < b.cycles))

/-- WATCHDOG (R229): an overlong block is killed with cause 0x17 and grade C. -/
def execWatchdog (bid : Nat) (s : State) : Host.Outcome State Fault Refusal :=
  .next <|
    match s.block bid with
    | none => s
    | some b => if s.overlong b then s.killWith bid ⟨0x17, 0x00, 1, 0, 0, 0, true⟩ else s

/-! ### D-mode commits (R268 to R274 of *D-mode*) -/

/-- A team's global identifier (R14, R267). -/
def State.gid (s : State) (t : Team) : Nat := ((s.block t.bid).map (·.index)).getD 0 * t.d.teams + t.tno

/-- The teams of a D-mode grid that a commit takes, in ascending G. -/
def State.grid (s : State) (lid : Nat) : List Team :=
  sortBy s.gid (s.allTeams.filter fun t =>
    (t.st == .resident || t.st == .ended) && t.lid == lid && t.d.dmode && (s.block t.bid).any fun b => b.kill.isNone)

/-- Whether a team is not ready for a reason that its quantum does not last through (R268): a fault held, a counter, a wait, or
what its next instruction waits for; with a fault held nothing ends by the passing of cycles. -/
def State.stuck (s : State) (t : Team) : Bool :=
  let lasts := fun (w : Wait) => w.byTime && t.held.isEmpty
  let next := fun (_ : Unit) => s.holdWait t != .none && !lasts (s.holdWait t)
  (!t.held.isEmpty && !t.hmode && t.recs.isEmpty && t.held.all (·.failed.isNone)) ||
    match t.wait with
    | .clause _ _ cls n _ _ => (cls.any fun c => !t.counterAt c n) || (s.waitOver t && next ())
    | w => if s.waitOver t then next () else !lasts w

/-- Whether a team has ended its quantum, with every result written. -/
def State.quantumEnded (s : State) (t : Team) : Bool :=
  t.window.isNone && t.fix.isEmpty && t.tagged.isEmpty && t.spad.isEmpty && t.accesses.isEmpty && !s.mtxBusy t
    && (t.st == .ended || t.qdone || s.stuck t)

/-- One held access performed, its old value written (R269, R270). -/
def State.performHeld (s : State) (d : DHeld) : State :=
  match d with
  | .store w => s.writeAt w.pa w.bytes
  | .sts _ _ o bs => s.spadPut o bs
  | .atom _ _ l op d _ pa b c =>
    let (w64, new) := match op with
      | .atom op w64 => (w64, fun m => some (atomNew op w64 m b))
      | .cas w64 => (w64, fun m => if m = c then some b else none)
      | .load _ | .tile _ _ => (false, fun _ => none)
    let n := w64bytes w64
    let (s1, m) := s.readAt pa n
    if s.badData pa n then s.killData pa
    else
    let s2 := { s1 with cur := s1.cur.putAll (laneRegs d l (oldRegs w64 m)) }
    match new m with
    | some x => s2.writeAt pa (bytesOf n x)
    | none => s2
  | .atoms _ _ l op w64 d o b c =>
    let n := w64bytes w64
    let m := memNat s.blk.spad o n
    if s.blk.badSpad o n then s.killWord
    else State.spadPut { s with cur := s.cur.putAll (laneRegs d l (oldRegs w64 m)) } o (bytesOf n (atomsNew op w64 m b c))

/-- The tags of a team's held accesses. -/
def heldTags (ds : List DHeld) : List Nat :=
  distinct (ds.filterMap fun d =>
    match d with
    | .atom _ n _ _ _ _ _ _ _ | .atoms _ n _ _ _ _ _ _ _ => some n
    | .store .. | .sts .. => none)

/-- The current team's held accesses performed in program order, until one kills the block, whose unsent stores are discarded
(R240, R266). -/
def State.performAll (s : State) : State :=
  let ds := s.cur.dheld
  let s1 := ds.foldl (fun (s : State) d => if s.blk.kill.isSome then s else s.performHeld d) s
  { s1 with cur := (heldTags ds).foldl Team.settleTag { s1.cur with dheld := [] } }

/-- The body of an instruction that D-mode leaves to the commit, by its step of R270. -/
inductive CommitStep where
  | meet (body : Instr)
  | supply (body : Instr)
  | test (body : Instr)
  deriving DecidableEq, Repr

def commitStep (i : Instr) : Option CommitStep :=
  match i with
  | .barArr .. | .barWait .. | .barSync .. | .reorder .. => some (.meet i)
  | .copy .. => some (.supply i)
  | .waitc .. | .yieldC .. | .mark .. | .markW .. => some (.test i)
  | _ => none

/-- The instruction carried out, on the current team. -/
def commitBody (i : Instr) (s : State) : State :=
  match i with
  | .barArr _ b want => barArrBody i b.toNat want s
  | .barWait _ b => barWaitBody i b.toNat s
  | .barSync _ b want => barSyncBody i b.toNat want s
  | .reorder _ a b => reorderBody i a b s
  | .copy _ a b c s2g rc =>
    match s.cur.kept with
    | some (.copy x) => copyBody i x s
    | some (.send _) | none => copyBody i (copySlice s.cur a b c s2g rc) s
  | .waitc _ cls n => waitcBody i cls n.toNat s
  | .yieldC _ cls n off => yieldBody i cls n.toNat off s
  | .mark _ n | .markW _ n => markWBody i n.toNat s
  | _ => s

/-- Whether a wait is one that a later commit tests again. -/
def Wait.retests : Wait → Bool
  | .barrier _ | .counter _ _ | .markw _ | .release _ => true
  | _ => false

/-- A team's instruction of one step of a commit carried out; one whose condition fails waits for the next (R270). -/
def State.commitTeam (s : State) (uid : Nat) (p : CommitStep → Bool) : State :=
  let s := s.focus uid
  match s.cur.wait with
  | .commit i =>
    match commitStep i with
    | some st =>
      if p st && s.cur.uid == uid && s.cur.st == .resident && s.blk.kill.isNone then
        let s1 := commitBody i { s with cur := { s.cur with wait := .none } }
        if s1.cur.uid == uid && Wait.retests s1.cur.wait then { s1 with cur := { s1.cur with wait := .commit i } } else s1
      else s
    | none => s
  | _ => s

def CommitStep.meets : CommitStep → Bool
  | .meet _ => true
  | .supply _ | .test _ => false
def CommitStep.supplies : CommitStep → Bool
  | .supply _ => true
  | .meet _ | .test _ => false
def CommitStep.tests : CommitStep → Bool
  | .test _ => true
  | .meet _ | .supply _ => false

/-- A started copy of the current block run to its end. -/
def State.runCopy (s : State) (k : Nat) : State :=
  match s.blk.copies.find? fun c => c.k = k with
  | none => s
  | some c =>
    let bs := if c.differs.isSome then [] else c.beats.drop c.beat
    let home := s.blk.home
    let s1 := s.onCore home fun x => { x with acts := chargeRun x.acts bs.length 1 40 }
    let s2 := bs.foldl (fun (s : State) x =>
      if s.blk.kill.isSome || (s.core home).bteFrozen then s else s.beat c x.1 x.2) s1
    let s3 := s2.onCopy k fun c => { c with beat := c.beats.length }
    match s3.blk.copies.find? fun c => c.k = k with
    | some c' => if c'.finished && s3.blk.kill.isNone && !(s3.core home).bteFrozen then s3.finishCopy c' else s3
    | none => s3

/-- The copies of a D-mode block that its teams have supplied started, and every started one run (R270). -/
def State.runCopies (s : State) (bid : Nat) : State :=
  let live := (s.liveTeams bid).map (·.tno)
  let s := (s.onBlock bid fun b => b.startCopies live).focusBlock bid
  if s.blk.bid = bid then ((s.blk.copies.filter (·.started)).map (·.k)).foldl State.runCopy s else s

/-- Every entry of a block that may start, started (R270 step 4). -/
def State.startEntries (s : State) (b : Block) : State :=
  match s.launch b.lid with
  | none => s
  | some l => (List.range l.table.length).foldl (fun s k => s.startEntry b.bid k) s

/-- The running entries of a launch run to their end: every value of a D-mode launch is the same on every run (R274). -/
def State.runEntries (s : State) (lid : Nat) : State :=
  match s.launch lid with
  | none => s
  | some l =>
    (l.ents.filter fun r => r.st == .running).foldl (fun (s : State) r =>
      match l.table[r.idx]? with
      | some e => if (s.slices.getD e.slice .reset).tierFrozen then s else s.runEntry l r e
      | none => s) s

/-- A team that waited for its last matrix instructions ended at the commit (R274, R289). -/
def State.endFinished (s : State) (uid : Nat) : State :=
  let s := s.focus uid
  if s.cur.uid == uid && s.cur.st == .resident && s.cur.wait == .finish && !s.mtxBusy s.cur then s.endTeam else s

/-- The blocks of a D-mode grid with a team whose trap kills, killed, by the team of lowest G (R206, R211, R274; log 121). -/
def State.killTrapped (s : State) (lid : Nat) : State :=
  (s.grid lid).foldl (fun (s : State) t =>
    match t.dkill with
    | some k => s.killWith t.bid k
    | none => s) s

/-- The commit of a quantum in the order of R270; with the arrivals, a REORDER is done that waits for none any more. -/
def State.commitGrid (s : State) (lid : Nat) : State :=
  let sk := s.killTrapped lid
  let uids := (sk.grid lid).map (·.uid)
  let s0 := uids.foldl State.endFinished sk
  let s1 := uids.foldl (fun (s : State) u =>
    let s := s.focus u
    if s.cur.uid = u then s.performAll else s) s0
  let s2 := uids.foldl (fun s u => s.commitTeam u CommitStep.meets) s1
  let s3 := uids.foldl (fun s u => s.commitTeam u fun st =>
    match st with
    | .meet (.barWait ..) | .meet (.barSync ..) => true
    | _ => false) s2
  let bs := sortBy (·.index) (s3.launchBlocks lid)
  let met := bs.foldl (fun (s : State) b => (s.tryReorder b.bid b.home).tryReorder b.bid (b.home + 1)) s3
  let s4 := uids.foldl (fun s u => s.commitTeam u CommitStep.supplies) met
  let s5 := bs.foldl (fun s b => s.runCopies b.bid) s4
  let s6 := bs.foldl State.startEntries s5
  let s7 := s6.runEntries lid
  let s8 := s7.mapTeams fun t => if t.st == .resident && t.lid == lid then s7.completeBatches t else t
  let s9 := uids.foldl (fun s u => s.commitTeam u CommitStep.tests) s8
  let next := s9.mapTeams fun t =>
    if t.st == .vacant || t.lid != lid then t
    else { t with quant := if t.st == .resident then t.quant + 1 else t.quant, retired := 0, qdone := false, qacted := false }
  next.onLaunch lid fun l => { l with commitAt := s.clock.toNat + 1 }

/-- Whether a D-mode launch has something for a commit to do: a team that runs, or that acted in the quantum, held accesses, or a copy
or an entry that goes on when its teams have ended (R305, R321). -/
def State.commitDue (s : State) (l : Launch) : Bool :=
  ((s.grid l.lid).any fun t => t.st == .resident || t.qacted || !t.dheld.isEmpty)
    || ((s.launchBlocks l.lid).any fun b => !b.copies.isEmpty) || l.ents.any fun r => r.st == .running

/-- DMODE_COMMIT (R268, R270): once the whole grid is resident and every team has ended its quantum; at most once a cycle. -/
def execDmodeCommit (lid : Nat) (s : State) : Host.Outcome State Fault Refusal :=
  .next <|
    let ts := s.grid lid
    match s.launch lid with
    | none => s
    | some l =>
      if !l.d.dmode || s.clock.toNat < l.commitAt || l.dealt ≠ l.blocks || (s.saved.any fun b => b.blk.lid == lid) || !ts.all s.quantumEnded
          || !s.commitDue l then s
      else s.commitGrid lid

end Sys2Proof.Machine
end

