-- ==== Sys2Proof/Machine/Partition.lean ====
section
/-! DEFINITION. Partitions (R329 to R333, R85): ENABLE with its checks and tables, DRAIN, RESET, RELEASE, the end of a
drain, trusted interfaces in ERROR (R339, R340), and checkpoints (R336). -/

namespace Sys2Proof.Machine

/-! ### The checks of ENABLE (R330, R331) -/

/-- The 48 GiB units of package addresses that a partition's regions cover. -/
def Partition.units (p : Partition) : List Nat :=
  (p.regions.filter (·.valid)).flatMap fun r => (List.range (regionSets r).length).map (r.base + ·)

/-- Whether a list has no repeats, and whether two have nothing in common. -/
def noRepeats (l : List Nat) : Bool := (distinct l).length == l.length
def disjoint (a b : List Nat) : Bool := !(a.any b.contains)

/-- A region against R235: no set, past the 16 units, or over another region of the partition. -/
def Partition.badRegions (p : Partition) : Bool :=
  ((p.regions.filter (·.valid)).any fun r => (regionSets r).isEmpty || decide (16 < r.base + (regionSets r).length))
    || !noRepeats p.units || !noRepeats p.sets

/-- Whether two partitions share a resource (R329). -/
def Partition.shares (a b : Partition) : Bool :=
  a.pairs &&& b.pairs != 0 || a.slices &&& b.slices != 0 || a.ports &&& b.ports != 0
    || !disjoint a.sets b.sets || !disjoint a.units b.units
    || decide (a.asidCount ≠ 0 ∧ b.asidCount ≠ 0 ∧ a.asidBase < b.asidBase + b.asidCount ∧ b.asidBase < a.asidBase + a.asidCount)

/-- Whether a context pool lies in the partition's regions (R329). -/
def Partition.poolOk (p : Partition) : Bool :=
  p.ctx % 4096 == 0 &&
    (p.ctxn == 0 || (decide (p.ctx + p.ctxn ≤ 0xC000000000)
      && (List.range ((p.ctx + p.ctxn - 1) / 0xC00000000 - p.ctx / 0xC00000000 + 1)).all fun k =>
          p.units.contains (p.ctx / 0xC00000000 + k)))

/-- A unit of the partition that failed at bring-up (R345): a core, a pier, a slice or a channel. -/
def State.unitFailed (s : State) (p : Partition) : Bool :=
  ((List.range Config.numCores).any fun c => ownsCore p c && (s.core c).failed) || (p.piers.any fun k => (s.pier k).failed)
    || ((List.range Config.numSlices).any fun k => p.slices.testBit k && (s.slices.getD k .reset).failed)
    || p.sets.any fun j => (List.range 16).any fun i => (s.channels.getD (16 * j + i) .reset).failed

/-- The ASIDs of a partition's functions lie in its range (R330). -/
def State.asidsOk (s : State) (n : Nat) : Bool :=
  let p := s.part n
  decide (p.asidBase + p.asidCount ≤ Config.numAsids) && s.funcs.all fun f =>
    f.fpart != n || f.fasidCount == 0
      || decide (p.asidBase ≤ f.fasidBase ∧ f.fasidBase + f.fasidCount ≤ p.asidBase + p.asidCount)

/-! ### The tables read at ENABLE (R85, R333) -/

/-- A tenant table entry from its 16 bytes, and whether it is well formed. -/
def Tenant.ofBytes (b : List Byte) : Tenant := ⟨fld b 0 2, fld b 2 2 % 2 == 1, fld b 4 4, fld b 8 4⟩
def tenantOk (b : List Byte) : Bool :=
  let t := Tenant.ofBytes b
  decide (fld b 2 2 < 2) && zeroBytes b 12 4 && (!t.valid || decide (50 ≤ t.time ∧ t.time ≤ 1000000))

/-- The tenant table, or none if it is malformed. -/
def State.readTenants (s : State) (p : Partition) : Option (List Tenant) :=
  let rows := (List.range p.ptenn).map fun k => s.bytesAt (p.pten + 16 * k) 16
  let ts := rows.map Tenant.ofBytes
  if 1 ≤ p.ptenn ∧ p.ptenn ≤ 64 then
    if (rows.all tenantOk) && noRepeats ((ts.filter (·.valid)).map (·.id)) then some ts else none
  else none

/-- A handler entry from its 32 bytes, and whether it is well formed: its reserved fields are zero, and one that is not empty has
an address and a shape (R7, R85). -/
def HandlerEntry.ofBytes (b : List Byte) : HandlerEntry :=
  ⟨BitVec.ofNat 64 (fld b 0 8), fld b 8 1, fld b 9 1, BitVec.ofNat 32 (fld b 12 4), BitVec.ofNat 64 (fld b 16 8)⟩
def handlerOk (b : List Byte) : Bool :=
  let e := HandlerEntry.ofBytes b
  zeroBytes b 10 2 && zeroBytes b 24 8 && (e.entry == 0 || (e.entry.extractLsb' 0 2 == 0
    && decide ((e.groupw = 16 ∨ e.groupw = 32 ∨ e.groupw = 64) ∧ 8 ≤ e.regs ∧ e.regs ≤ 32 ∧ e.regs % 8 = 0)))

/-- The handler table, absent where PHT is 0; none if it is malformed. -/
def State.readHandlers (s : State) (p : Partition) : Option (Option HandlerTable) :=
  if p.pht = 0 then some none
  else
    let h := s.bytesAt p.pht 32
    let n := fld h 4 2
    if p.pht % 32 = 0 ∧ 1 ≤ n ∧ n ≤ 256 then
      let rows := (List.range n).map fun k => s.bytesAt (p.pht + 32 + 32 * k) 32
      if zeroBytes h 6 26 && rows.all handlerOk then some (some ⟨fld h 0 2, fld h 2 2, rows.map HandlerEntry.ofBytes⟩) else none
    else none

/-- The reads of the two tables, as far as they are in their ranges: they may activate rows (R344). -/
def State.readTables (s : State) (p : Partition) : State :=
  let s1 := s.touch p.pten (16 * (if p.ptenn ≤ 64 then p.ptenn else 0))
  let n := fld (s.bytesAt p.pht 32) 4 2
  if p.pht = 0 then s1 else s1.touch p.pht (32 + 32 * (if n ≤ 256 then n else 0))

/-! ### Commands -/

def State.setPerr (s : State) (p reason : Nat) : State := s.onPart p fun x => { x with perr := reason }

/-- Whether the checkpoint that runs is of a partition (R336). -/
def State.checkpointing (s : State) (p : Nat) : Bool := s.ckrun.any fun r => r.1 == p

/-- The idle times of a partition's queues, noted again after a change of its state (R88). -/
def State.noteQueues (s : State) (p : Nat) : State :=
  (List.range Config.numFunctions).foldl (fun (s : State) f =>
    if (s.func f).fpart == p then
      (List.range Config.numQueues).foldl (fun (s : State) q => if (s.queue f q).st == .active then s.noteIdle f q else s) s
    else s) s

/-- PERR of an ENABLE that fails (R330), 0 if it does not. -/
def State.enablePerr (s : State) (n : Nat) : Nat :=
  let p := s.part n
  let others := (List.range Config.numPartitions).filter fun m => m != n && (s.part m).st != .unused
  if (others.any fun m => p.shares (s.part m)) || !s.asidsOk n || decide (10000 < p.drain)
      || (s.readTenants p).isNone || (s.readHandlers p).isNone then 1
  else if p.badRegions then 2
  else if !p.poolOk then 3
  else if s.unitFailed p then 7
  else 0

/-- PCMD_ENABLE (R85, R331, R333). -/
def execPcmdEnable (n : Nat) (s : State) : Host.Outcome State Fault Refusal :=
  .next <|
    let p := s.part n
    if s.checkpointing n then s.setPerr n 6
    else if p.st != .unused && p.st != .drained then s.setPerr n 4
    else
      let s := s.readTables p
      match s.enablePerr n, s.readTenants p, s.readHandlers p with
      | 0, some ts, some hs =>
        State.noteQueues (s.onPart n fun x =>
          { x with st := .active, tenants := ts, handlers := hs, holder := none, sliceStart := s.clock.toNat, energy := []
                   debts := [], pierPtr := x.piers.headD 0, nextQueue := (0, 0) }) n
      | e, _, _ => s.setPerr n e

/-- PCMD_DRAIN (R331). -/
def execPcmdDrain (n : Nat) (s : State) : Host.Outcome State Fault Refusal :=
  .next (if (s.part n).st == .active then (s.onPart n fun x => { x with st := .draining }).noteQueues n else s.setPerr n 4)

/-- Whether a draining partition has nothing left (R331). -/
def State.drained (s : State) (n : Nat) : Bool :=
  !(s.allBlocks.any fun b => b.live && b.d.part == n) && !(s.saved.any fun b => b.blk.d.part == n)
    && !(s.piers.any fun x => (x.queue ++ x.link).any fun r => r.part == n)
    && !(s.launches.any fun l => l.d.part == n)
    && s.funcs.all fun f => f.queues.all fun q => q.half.part != n || q.inflight == 0

/-- PARTITION_DRAINED (R331): every launch of the partition is complete, so that no copy or entry runs. -/
def execPartitionDrained (n : Nat) (s : State) : Host.Outcome State Fault Refusal :=
  .next (if (s.part n).st == .draining && s.drained n then s.onPart n fun x => { x with st := .drained } else s)

/-! ### Interfaces in ERROR (R339, R340) -/

/-- An interface entering ERROR (R340): its traffic stops, its blocks with it, its keys go, its queues are reset in silence, and a
record is posted (log 128). -/
def State.enterError (s : State) (f : Nat) : State :=
  let s1 := s.onFunc f fun x =>
    { x with tdi := .error, keys := none, stopped := true, queues := x.queues.map fun q => { q with silent := true } }
  let mine := fun (b : Block) => b.live && !b.handler && (s.launch b.lid).any fun l => l.f == f
  let s2 := (s1.allBlocks.filter mine).foldl (fun (s : State) b => s.killWith b.bid ⟨0, 0, 0, 0, 0, 0, false⟩) s1
  let s3 := (List.range Config.numQueues).foldl (fun (s : State) q => s.resetQueue f q) s2
  s3.postFault [0] ⟨faultCode 1 0x09 0x23, (s.func f).fpart, 0xFF, 0, 0, 0, 0⟩

/-- Whether a function's interface is locked or in RUN. -/
def Func.trusted (x : Func) : Bool := x.tdi == .locked || x.tdi == .run

/-- The keys of a function's Quickset traffic (R325): a trusted interface's own, else those of function 0's session. -/
def State.keysOf (s : State) (f : Nat) : Option (Nat × Nat) := if (s.func f).trusted then (s.func f).keys else (s.func 0).keys

/-- The trusted interfaces of a partition, and all of them in ERROR. -/
def State.trustedOf (s : State) (n : Nat) : List Nat :=
  (List.range Config.numFunctions).filter fun f => (s.func f).fpart == n && (s.func f).trusted
def State.errorAll (s : State) (n : Nat) : State := (s.trustedOf n).foldl State.enterError s

/-! ### RESET and RELEASE -/

/-- Addresses of a region's package memory. -/
def Region.span (r : Region) : Nat × Nat := (r.base * 0xC00000000, (regionSets r).length * 0xC00000000)

/-- Slices of a partition written with zeros; their bad data is gone. -/
def State.zeroSlices (s : State) (p : Partition) : State :=
  { s with
    mem := ((List.range Config.numSlices).filter (p.slices.testBit ·)).foldl
      (fun m k => memZero m (slicePa k 0) Config.sliceBytes) s.mem
    slices := s.slices.mapIdx fun k x => if p.slices.testBit k then { x with bad := [] } else x }

/-- What waited for the walkers of some piers goes on (R220; log 109): a team's RETRY is taken up, and so are the copies' beats. -/
def State.walkAgain (s : State) (piers : List Nat) : State :=
  let s1 := (s.holders.filterMap fun h =>
      match h.2 with
      | .retried u => (s.team u).bind fun t => if piers.contains (t.core / 4) then some (h.1, u) else none
      | .team _ | .copy _ | .entry .. => none).foldl (fun (s : State) (x : Nat × Nat) =>
        let s := s.focus x.2
        { s with holders := s.holders.filter fun h => h.1 != x.1 }.answerTeam x.1 false) s
  (s1.allBlocks.filter fun b => b.live && piers.contains (b.home / 4)).foldl (fun (s : State) b =>
    let s := s.focusBlock b.bid
    (s.blk.copies.flatMap fun c => (c.holds.filter fun h => h.2.2.2.1 == 3).map (·.1)).foldl
      (fun (s : State) (k : Nat) => s.answerCopy k false) s) s1

/-- The partition's frozen units released (R220, R331). -/
def State.release (s : State) (n : Nat) : State :=
  let p := s.part n
  let walks := p.piers.filter fun k => (s.pier k).walkerFrozen
  State.walkAgain (piers := walks) { s with
    piers := s.piers.mapIdx fun k x => if p.piers.contains k then { x with leafFrozen := false, walkerFrozen := false } else x
    cores := s.cores.mapIdx fun c k => if ownsCore p c then { k with bteFrozen := false } else k
    slices := s.slices.mapIdx fun k x => if p.slices.testBit k then { x with tierFrozen := false } else x
    frozen := s.frozen.filter fun x => x.1 != n }

/-- Everything of a partition's work dropped: blocks, saved and queued ones, reports, messages and inboxes. -/
def State.dropWork (s : State) (n : Nat) : State :=
  let p := s.part n
  let lids := (s.launches.filter fun l => l.d.part == n).map (·.lid)
  let mine := (s.allBlocks.filter fun b => b.live && b.d.part == n).map (·.bid)
  let uids := (s.allTeams.filter fun t => t.st != .vacant && t.d.part == n).map (·.uid)
  let s1 := mine.foldl (fun (s : State) b => s.dropBlock b) s
  let out := fun (t : Team) => if t.st != .vacant && t.d.part == n then Team.vacant else t
  { s1 with
    cur := out s1.cur
    teams := (s1.teams.map out).filter fun t => t.st != .vacant
    saved := s1.saved.filter fun b => b.blk.d.part != n
    piers := s1.piers.map fun x =>
      { x with queue := x.queue.filter fun r => r.part != n
               cmdPermits := x.cmdPermits + (x.link.filter fun r => r.part == n).length
               link := x.link.filter fun r => r.part != n
               asked := x.asked.filter fun a => a.2 != n
               backoff := x.backoff.filter fun b => b.1 != n
               stealing := x.stealing.filter (· != n)
               reports := x.reports.filter fun r =>
                 match r with
                 | .done l | .killed l _ => !lids.contains l
                 | .saved b => !(s1.saved.any fun x => x.blk.bid == b && x.blk.d.part == n) }
    channel := s1.channel.filter fun m => !uids.contains m.uid && !ownsCore p m.dst
    cores := s1.cores.mapIdx fun c k => if ownsCore p c then { k with inbox := [] } else k
    sel := if uids.contains s1.cur.uid then false else s1.sel }

/-- PCMD_RESET (R84, R331, R339): every queue of the partition is reset, its blocks are killed without records, frozen
units are released, slices and the context pool are written with zeros, which opens the pool's rows (R344). -/
def execPcmdReset (n : Nat) (s : State) : Host.Outcome State Fault Refusal :=
  .next <|
    let p := s.part n
    if s.checkpointing n then s.setPerr n 6
    else if p.st == .unused then s.setPerr n 4
    else
      let s1 := s.errorAll n
      let s2 := (List.range Config.numFunctions).foldl (fun (s : State) f =>
        if (s.func f).fpart == n then (List.range Config.numQueues).foldl (fun (s : State) q => s.resetQueue f q) s else s) s1
      let s3 := ((s2.dropWork n).release n).zeroSlices p
      let s3a := if p.ctxn = 0 then s3 else s3.countRows p
      let s4 : State := { s3a with mem := memZero s3a.mem p.ctx p.ctxn }
      let s5 : State := { s4 with funcs := s4.funcs.map fun (f : Func) =>
        if f.fpart == n then { f with queues := f.queues.map fun q => { q with frozen := false } } else f }
      s5.onPart n fun x => { x with st := .drained, holder := none, energy := [], debts := [] }

/-- PCMD_RELEASE (R331, R339): the partition's slices and regions are written with zeros, which opens the regions' rows (R344). -/
def execPcmdRelease (n : Nat) (s : State) : Host.Outcome State Fault Refusal :=
  .next <|
    let p := s.part n
    if s.checkpointing n then s.setPerr n 6
    else if p.st != .drained then s.setPerr n 4
    else
      let s1 := ((s.errorAll n).zeroSlices p).countRows p
      let mem := (p.regions.filter (·.valid)).foldl (fun m r => memZero m r.span.1 r.span.2) s1.mem
      { s1 with mem := mem }.onPart n fun x => { x with st := .unused }

/-- PERR_READ (R6, R330): the reason is returned, and cleared. -/
def execPerrRead (n : Nat) (s : State) : Host.Outcome State Fault Refusal :=
  .next (({ s with hostData := (s.part n).perr } : State).setPerr n 0)

/-- FLTLOST_READ (R6, R327): the count of records dropped is returned, and cleared; of FLTLOST, or of PRQLOST. -/
def execFltlostRead (r : LostReg) (s : State) : Host.Outcome State Fault Refusal :=
  .next <|
    let x := s.func r.f
    if r.prq then
      ({ s with hostData := x.prq.lost.toNat } : State).onFunc r.f fun x => { x with prq := { x.prq with lost := 0 } }
    else ({ s with hostData := x.flt.lost.toNat } : State).onFunc r.f fun x => { x with flt := { x.flt with lost := 0 } }

/-! ### Checkpoints (R336) -/

/-- CKCTL_GO: a checkpoint of a DRAINED partition starts, unless one runs. -/
def execCkctlGo (n : Nat) (toDev : Bool) (s : State) : Host.Outcome State Fault Refusal :=
  .next <|
    let s1 := { s with ckpart := n, ckdir := toDev }
    if (s.part n).st != .drained || s.ckrun.isSome then { s1 with ckstat := 3 }
    else { s1 with ckstat := 1, ckrun := some (n, toDev, s.ckhost.toNat) }

/-- `n` bytes of memory copied to another place. -/
def memMove (m : Mem) (src dst n : Nat) : Mem :=
  (m.filter fun c => decide (src ≤ c.1 ∧ c.1 < src + n)).foldl (fun m c => memWrite m (dst + (c.1 - src)) c.2) (memZero m dst n)

/-- The ranges that a checkpoint moves, in order: regions by ascending BASE, then slices. -/
def Partition.spans (p : Partition) : List (Nat × Nat) :=
  (sortBy (·.base) (p.regions.filter (·.valid))).map Region.span
    ++ ((List.range Config.numSlices).filter (p.slices.testBit ·)).map fun k => (slicePa k 0, Config.sliceBytes)

/-- Ranges moved between the device and consecutive host addresses. -/
def moveSpans (toDev : Bool) : List (Nat × Nat) → Nat → Mem → Mem
  | [], _, m => m
  | (a, n) :: r, h, m => moveSpans toDev r (h + n) (if toDev then memMove m (hostPa h) a n else memMove m a (hostPa h) n)

/-- CHECKPOINT_DONE. -/
def execCheckpointDone (s : State) : Host.Outcome State Fault Refusal :=
  .next <|
    match s.ckrun with
    | none => s
    | some (n, toDev, host) =>
      { s.countRows (s.part n) with mem := moveSpans toDev (s.part n).spans host s.mem, ckrun := none, ckstat := 2 }

end Sys2Proof.Machine
end

