-- ==== Sys2Proof/Machine/Mgmt.lean ====
section
/-! DEFINITION. The host's side and the management path (R324 to R327, R330, R332, R337 to R345): register writes,
the memory aperture, the census, links, trusted interfaces, attestation, firmware, row activations, scrubbing and
the device reset. -/

namespace Sys2Proof.Machine

/-! ### Register writes (R67, R327, R330) -/

/-- `n` bits from bit `lo` of `x` replaced by `v`. -/
def putBits (x lo n v : Nat) : Nat := x - bitsOf x (lo + n - 1) lo * 2 ^ lo + v % 2 ^ n * 2 ^ lo

/-- A half of a 64-bit number replaced. -/
def putHalf (x h v : Nat) : Nat := putBits x (32 * h) 32 v
def putHalfD (x : DWord) (h v : Nat) : DWord := BitVec.ofNat 64 (putHalf x.toNat h v)

/-- A word written to a ring's registers. -/
def Ring.write (r : Ring) (k v : Nat) : Ring :=
  match k with
  | 0 | 1 => { r with base := putHalfD r.base k v }
  | 2 => { r with vec := bitsOf v 26 16, log := bitsOf v 4 0 }
  | 4 => { r with head := BitVec.ofNat 32 v }
  | _ => r

/-- Whether the selected ASID is the function's (R327). -/
def Func.ownsAsid (x : Func) : Bool := decide (x.fasidBase ≤ x.asidsel ∧ x.asidsel < x.fasidBase + x.fasidCount)

/-- An event that a register write brings: the next to happen. -/
def State.next (s : State) (i : Instr) : State := { s with agenda := i :: s.agenda }

/-- A 32-bit write to BAR0 of a function (R67, R327); a function that NUMVF does not enable has none (R326). -/
def State.writeFunc (s : State) (f off v : Nat) : State :=
  if s.numvf < f then s
  else if off < 0x400 then
    let q := off / 16
    match off % 16 with
    | 0 => s.next (.qtailWrite f q (BitVec.ofNat 32 v))
    | 4 => s.next (.qcheadWrite f q (BitVec.ofNat 32 v))
    | 8 =>
      if v.testBit 0 then s.next (.qctlReset f q)
      else if v.testBit 1 then s.next (.qctlStop f q)
      else if v.testBit 2 then s.next (.qctlEnable f q)
      else s
    | _ => s
  else if 0x1000 ≤ off ∧ off < 0x1018 then s.onFunc f fun x => { x with flt := x.flt.write ((off - 0x1000) / 4) v }
  else if 0x1018 ≤ off ∧ off < 0x1030 then s.onFunc f fun x => { x with prq := x.prq.write ((off - 0x1018) / 4) v }
  else if off = 0x1038 then s.onFunc f fun x => { x with asidsel := v % 1024 }
  else if off = 0x1040 ∨ off = 0x1044 then
    let x := s.func f
    if x.ownsAsid then
      { (s.onFunc f fun x => { x with asidErr := false }) with asids := upd s.asids x.asidsel fun a =>
          { a with root := if off = 0x1040 then putBits a.root 0 12 (bitsOf v 31 20) else putBits a.root 12 20 v } }
    else s.onFunc f fun x => { x with asidErr := true }
  else if off = 0x1048 then s.next (.asidctlWrite f (BitVec.ofNat 32 v))
  else s

/-- A 64-bit write to PRESP or INVAL, which act on a single such write (R327). -/
def State.writeFunc64 (s : State) (f off v : Nat) : Option State :=
  if s.numvf < f then none
  else if off = 0x1030 then some (s.next (if v.testBit 32 then .prespFail f (v % 2 ^ 32) else .prespRetry f (v % 2 ^ 32)))
  else if off = 0x1050 then
    some (s.next (.inval f (BitVec.ofNat 64 (bitsOf v 63 12 * 4096)) (BitVec.ofNat 2 (bitsOf v 11 10)) (bitsOf v 9 0)))
  else none

/-- A word written to the resource fields of a partition's block (R330). -/
def Partition.write (p : Partition) (off v : Nat) : Partition :=
  if off = 0x010 ∨ off = 0x014 ∨ off = 0x018 then { p with pairs := putBits p.pairs (8 * (off - 0x010)) 32 v }
  else if off = 0x020 then { p with slices := putBits p.slices 0 32 v }
  else if off = 0x024 then { p with slices := putBits p.slices 32 16 v }
  else if 0x028 ≤ off ∧ off < 0x038 then
    { p with regions := upd p.regions ((off - 0x028) / 4) fun _ => ⟨v.testBit 31, bitsOf v 27 24, bitsOf v 15 0⟩ }
  else if off = 0x038 then { p with ports := v % 2 ^ 16 }
  else if off = 0x03C then { p with asidCount := bitsOf v 20 10, asidBase := bitsOf v 9 0 }
  else if off = 0x040 ∨ off = 0x044 then { p with ctx := putHalf p.ctx ((off - 0x040) / 4) v }
  else if off = 0x048 ∨ off = 0x04C then { p with ctxn := putHalf p.ctxn ((off - 0x048) / 4) v }
  else if off = 0x050 then { p with drain := v % 2 ^ 14 }
  else if off = 0x054 then { p with blklim := v % 2 ^ 16 }
  else if off = 0x058 ∨ off = 0x05C then { p with pht := putHalf p.pht ((off - 0x058) / 4) v }
  else if off = 0x060 ∨ off = 0x064 then { p with pten := putHalf p.pten ((off - 0x060) / 4) v }
  else if off = 0x068 then { p with ptenn := v % 2 ^ 7 }
  else if 0x400 ≤ off ∧ off < 0x800 then { p with routes := p.routes.set ((off - 0x400) / 4) (v.testBit 31, v % 2 ^ 16) }
  else p

/-- Whether an offset of the partition block names a resource field. -/
def resourceField (off : Nat) : Bool := decide ((0x010 ≤ off ∧ off < 0x06C) ∨ (0x400 ≤ off ∧ off < 0x800))

def Partition.idle (p : Partition) : Bool := p.st == .unused || p.st == .drained

/-- A write to a partition's block (R330, R331): commands act, resource fields take writes only in UNUSED and DRAINED. -/
def State.writePart (s : State) (n off v : Nat) : State :=
  if off = 0x004 then
    match v % 8 with
    | 1 => s.next (.pcmdEnable n)
    | 2 => s.next (.pcmdDrain n)
    | 3 => s.next (.pcmdReset n)
    | 4 => s.next (.pcmdRelease n)
    | _ => s.setPerr n 4
  else if resourceField off then
    if (s.part n).idle then s.onPart n fun p => p.write off v
    else s.setPerr n 4
  else s

/-- A word written to a function block's field. -/
def Func.writeBlock (x : Func) (o v : Nat) : Func :=
  match o with
  | 0x00 => { x with fpart := v % 256 }
  | 0x08 => { x with fqcb := putHalfD x.fqcb 0 v }
  | 0x0C => { x with fqcb := putHalfD x.fqcb 1 v }
  | 0x10 => { x with fasidCount := bitsOf v 20 10, fasidBase := bitsOf v 9 0 }
  | _ => x

/-- A write to a function's block: as its partition, and the one FPART names, allow. -/
def State.writeFuncBlock (s : State) (f o v : Nat) : State :=
  let x := s.func f
  let shut := fun (n : Nat) => decide (n < Config.numPartitions) && !(s.part n).idle
  if 0x18 ≤ o then s
  else if shut x.fpart then s.setPerr x.fpart 4
  else if o = 0 && shut (v % 256) then s.setPerr (v % 256) 4
  else s.onFunc f fun x => x.writeBlock o v

/-- The boot ROM's verdict on the image that the host left in BAR4 (R343): free values, since the model carries no
signature arithmetic. -/
def State.judged (s : State) : FwImage := ⟨Config.other 0x43 s.free, Config.unitNew s.free, Config.unitNew (s.free + 1)⟩

/-- A 32-bit write to BAR2 (R330, R343). -/
def State.writeMgmt (s : State) (off v : Nat) : State :=
  if off = 0x00 then s.next (.devnoWrite (v % 256))
  else if off = 0x04 then { s with raathr := v % 2 ^ 13 }
  else if off = 0x08 ∨ off = 0x0C then { s with ckhost := putHalfD s.ckhost ((off - 8) / 4) v }
  else if off = 0x10 then
    if v.testBit 5 then s.next (.ckctlGo (v % 16) (v.testBit 4)) else { s with ckpart := v % 16, ckdir := v.testBit 4 }
  else if off = 0x18 then if v.testBit 0 then { s.next (.firmwareLoad s.judged) with free := s.free + 2 } else s
  else if 0x10000 ≤ off ∧ off < 0x20000 then s.writePart ((off - 0x10000) / 0x1000) (off % 0x1000) v
  else if 0x20000 ≤ off ∧ off < 0x20000 + 0x100 * Config.numFunctions then
    s.writeFuncBlock ((off - 0x20000) / 0x100) (off % 0x100) v
  else s

/-- Configuration space: an address range of the model's own above the 52-bit map, 4 KiB to a function. -/
def configBase : Nat := 2 ^ 52

/-- Whether a word of a function's configuration space is half of a base-address register (R326): BAR0, BAR2 of function 0 alone,
BAR4. -/
def barWord (f off : Nat) : Bool := decide (0x10 ≤ off ∧ off < 0x28) && (f == 0 || !decide (0x18 ≤ off ∧ off < 0x20))

/-- A write to configuration space (R326): a base-address register by half, or NUMVF of function 0. -/
def State.writeConfig (s : State) (f off v : Nat) : State :=
  if s.numvf < f then s
  else if barWord f off then
    s.onFunc f fun x => { x with bars := upd x.bars ((off - 0x10) / 8) fun b => putHalfD b ((off - 0x10) / 4 % 2) v }
  else if f = 0 && off == 0x100 then { s with numvf := min (v % 128) 64 }
  else s

/-- A word of configuration space (R326): DEVICE over the vendor's number, the base-address registers, the capability pointer,
the MSI-X capability with its 2,048 vectors, NUMVF of function 0; every other word is a free value (log 9, log 71). -/
def State.configWord (s : State) (f off : Nat) : Nat :=
  if off = 0x00 then 0x0712 * 2 ^ 16 + Config.other 0 0 % 2 ^ 16
  else if 0x10 ≤ off ∧ off < 0x28 then if !barWord f off then 0 else half ((off - 0x10) / 4 % 2) ((s.func f).bars.getD ((off - 0x10) / 8) 0).toNat
  else if off = 0x34 then 0x40
  else if off = 0x40 then 2047 * 2 ^ 16 + 0x11
  else if f = 0 ∧ off = 0x100 then s.numvf
  else Config.other off f % 2 ^ 32

/-- What a host's read of a word of configuration space returns (R326, R345): none is the retry status that such reads have
until the census is valid; a function that NUMVF does not enable reads all ones. -/
def State.configRead (s : State) (f off : Nat) : Option Nat :=
  if s.gen = 0 then none
  else if s.numvf < f ∨ (s.fw.recovery ∧ f ≠ 0) then some (2 ^ 32 - 1)
  else some (s.configWord f (off / 4 * 4))

/-- A write to a word that an interface has frozen (R339, R340): the write is ignored, the interfaces enter ERROR, and a
resource field sets PERR = 5. -/
def State.frozenWord (s : State) (pa : Nat) : Option State :=
  if configBase ≤ pa then
    let f := (pa - configBase) / 4096
    let off := (pa - configBase) % 4096
    if barWord f off ∧ (s.func f).trusted ∧ !s.fw.recovery then some (s.enterError f) else none
  else
    match placeOf pa with
    | .regs x =>
      let o := x - 0x1010000
      let p := o / 0x1000
      let f := (x - 0x1020000) / 0x100
      if 0x1010000 ≤ x ∧ x < 0x1020000 ∧ resourceField (o % 0x1000) ∧ !(s.trustedOf p).isEmpty then some ((s.errorAll p).setPerr p 5)
      else if 0x1020000 ≤ x ∧ x < 0x1020000 + 0x100 * Config.numFunctions ∧ x % 0x100 < 0x18 ∧ (s.func f).trusted then
        some ((s.enterError f).setPerr (s.func f).fpart 5)
      else none
    | _ => none

/-- One 32-bit register write. In recovery only function 0's configuration space and BAR2 answer (R343). -/
def State.writeReg (s : State) (pa v : Nat) : State :=
  if configBase ≤ pa then
    let x := pa - configBase
    if s.fw.recovery && x / 4096 != 0 then s else s.writeConfig (x / 4096) (x % 4096) v
  else
    match placeOf pa with
    | .regs x =>
      if x < 0x1000000 then if s.fw.recovery then s else s.writeFunc (x / 0x10000) (x % 0x10000) v
      else s.writeMgmt (x - 0x1000000) v
    | _ => s

/-- REGISTER_WRITE (R6, R327, R330): a 64-bit write is its low and its high word, unless the register acts on it
whole; one that meets a frozen word changes nothing else (R340). -/
def execRegisterWrite (pa bytes v : Nat) (s : State) : Host.Outcome State Fault Refusal :=
  .next <|
    let whole := match placeOf pa with
      | .regs x => if bytes = 8 ∧ x < 0x1000000 ∧ !s.fw.recovery then s.writeFunc64 (x / 0x10000) (x % 0x10000) v else none
      | _ => none
    let frozen := if bytes = 8 then (s.frozenWord pa).or (s.frozenWord (pa + 4)) else if bytes = 4 then s.frozenWord pa else none
    match frozen, whole with
    | some s1, _ | none, some s1 => s1
    | none, none =>
      if bytes = 8 then (s.writeReg (pa + 4) (v / 2 ^ 32)).writeReg pa (v % 2 ^ 32)
      else if bytes = 4 then s.writeReg pa (v % 2 ^ 32)
      else s

/-- DEVNO_WRITE (R330, R345): taken while every partition is UNUSED; the Ashlar ports then train. -/
def execDevnoWrite (v : Nat) (s : State) : Host.Outcome State Fault Refusal :=
  .next <|
    if s.parts.all fun p => p.st == .unused then
      { s with devno := v % 256
               aports := s.aports.map fun p => { p with up := false, training := true, since := s.clock.toNat } }
    else s

/-! ### The memory aperture (R326, R343) -/

/-- The physical address behind an aperture offset. -/
def aperture (off : Nat) : Option Nat :=
  if off < 0xC000000000 then some off
  else
    let o := off - 0xC000000000
    if o < Config.numSlices * Config.sliceBytes then some (slicePa (o / Config.sliceBytes) (o % Config.sliceBytes)) else none

/-- Whether a function's aperture reaches an offset now. -/
def State.opens (s : State) (f off pa : Nat) : Bool :=
  if s.fw.recovery then f == 0 && decide (off < 0x4000000)
  else if f = 0 then true
  else decide (f ≤ s.numvf) && !(s.func f).stopped && decide ((s.func f).fpart < Config.numPartitions)
    && reach s (s.func f).fpart pa == some true

/-- The offset of a bus address in a window of `size` bytes that a base-address register places (R326; log 117). -/
def windowOff (bar : DWord) (size a : Nat) : Option Nat :=
  let base := bar.toNat / size * size
  if base ≤ a ∧ a < base + size then some (a - base) else none

/-- The register, by physical address, that a bus address names in BAR0 or BAR2 of a function (R326), and the offset that it names in
the aperture; a function that NUMVF does not enable claims none, and in recovery BAR0 does not answer (R343). -/
def State.regWindow (s : State) (f a : Nat) : Option Nat :=
  let bar := fun (k : Nat) => (s.func f).bars.getD k 0
  if s.numvf < f then none
  else
    ((if s.fw.recovery then none else windowOff (bar 0) 0x10000 a).map (0xF000000000000 + 0x10000 * f + ·)).or
      ((if f = 0 then windowOff (bar 1) 0x100000 a else none).map (0xF000001000000 + ·))
def State.memWindow (s : State) (f a : Nat) : Option Nat :=
  if s.numvf < f then none else windowOff ((s.func f).bars.getD 2 0) (2 ^ 40) a

/-- What a host's access to a function reaches: a register, or memory that its aperture opens. -/
def State.hostReach (s : State) (f : Nat) (x : HostAddr) : Option Nat :=
  let open_ := fun (off : Nat) => (aperture off).filter (s.opens f off)
  match x with
  | .aperture off => open_ off
  | .bus a => (s.regWindow f a).or ((s.memWindow f a).bind open_)

/-- HOST_APERTURE_ACCESS: the access reaches memory or a register, or a read gives all ones and a write is dropped. -/
def execHostApertureAccess (f : Nat) (off : HostAddr) (bytes : Nat) (wr : Option Nat) (s : State) : Host.Outcome State Fault Refusal :=
  .next <|
    match s.hostReach f off, wr with
    | some a, some v => s.writeAt a (bytesOf bytes v)
    | some a, none =>
      let (s1, x) := s.readAt a bytes
      { s1 with hostData := x }
    | none, some _ => s
    | none, none => { s with hostData := 2 ^ (8 * bytes) - 1 }

/-! ### The census (R63, R337, R338) -/

/-- Bytes of a count that saturates. -/
def satBytes (n x : Nat) : List Byte := bytesOf n (min x (2 ^ (8 * n) - 1))

/-- Rows of equal size laid one after another. -/
def rowsAt (off size : Nat) (rows : List (List Byte)) : List (Nat × List Byte) :=
  rows.zipIdx.map fun r => (off + size * r.2, r.1)

/-- The partition that owns something, for a byte of the census: 0xFF for none. -/
def State.ownerOf (s : State) (f : Partition → Bool) : Nat :=
  ((List.range Config.numPartitions).find? fun p => f (s.part p) && (s.part p).st != .unused).getD 0xFF

/-- Health of a unit by what befell it (R337). -/
def health (frozen failed : Bool) (fixes : Nat) : Nat := if frozen then 3 else if failed then 2 else if 16 < fixes then 1 else 0

/-- Corrected errors in the last second, of those noted by time. -/
def lately (fixes : List (Nat × Nat)) (now : Nat) : Nat :=
  ((fixes.filter fun e => decide (now < e.1 + 1250000000)).map (·.2)).foldl (· + ·) 0

/-- The view of a function: all, or its own partition's entries (R337). -/
def State.sees (s : State) (f : Nat) (owns : Partition → Bool) : Bool :=
  f == 0 || (decide ((s.func f).fpart < Config.numPartitions) && owns (s.part (s.func f).fpart))

/-- Microseconds left in a slice, and energy units used. -/
def Partition.left (p : Partition) (now : Nat) : Nat :=
  match p.holder.bind p.tenant? with
  | some t => ((p.sliceStart + (t.time * 1250 : Nat) - (now : Int)) / 1250).toNat
  | none => 0
def Partition.used (p : Partition) : Nat :=
  match p.holder.bind fun h => p.energy.lookup h with
  | some e => e.1 / (e.2 * 10 ^ 9)
  | none => 0

def State.censusPart (s : State) (n : Nat) : List Byte :=
  let p := s.part n
  let tdi := ((s.funcs.filter fun f => f.fpart == n && f.trusted).map (·.tdi.code)).headD 0
  bytesOf 1 p.st.code ++ bytesOf 1 tdi ++ bytesOf 2 (p.holder.getD 0) ++ satBytes 4 (p.left s.clock.toNat)
    ++ satBytes 4 p.used ++ satBytes 4 ((s.allBlocks.filter fun b => b.live && b.d.part == n).length)

def Port.code (p : Port) : Nat := if p.up then 2 else if p.training then 1 else 0

def State.censusJoint (j : Joint) : List Byte :=
  let st := if j.boost ≠ 0 || j.boostOver then 1 else if j.cool ≠ 0 || j.coolOver then 2 else 0
  let left := if j.boost ≠ 0 then min j.boost Config.boostWindows else j.cool
  bytesOf 1 st ++ bytesOf 1 0 ++ satBytes 2 left ++ satBytes 2 j.halves ++ satBytes 1 j.t2traps ++ satBytes 1 j.t3trips

def State.censusPier (s : State) (n : Nat) : List Byte :=
  let x := s.pier n
  let own := s.ownerOf fun p => p.piers.contains n
  satBytes 4 (Config.measured (16 + 8 * n) s.gen)
    ++ (List.range 4).flatMap (fun c => satBytes 2 (Config.measured (16 + 8 * n + 1 + c) s.gen))
    ++ bytesOf 1 (health (x.leafFrozen || x.walkerFrozen) x.failed (lately x.fixes s.clock.toNat)) ++ bytesOf 1 own ++ bytesOf 2 0
    ++ x.joints.flatMap State.censusJoint

def State.censusCore (s : State) (c : Nat) : List Byte :=
  let k := s.core c
  let bs := s.coreBlocks c
  let ts := s.coreTeams c
  satBytes 4 (k.acc * 5 / 1250000) ++ bytesOf 1 (health (k.bteFrozen || ts.any fun t => t.st == .frozen) k.failed (lately k.fixes s.clock.toNat))
    ++ satBytes 1 bs.length ++ satBytes 1 ts.length ++ bytesOf 1 (if bs.isEmpty then 0xFF else s.coreClass c)

def State.censusSlice (s : State) (k : Nat) : List Byte :=
  let x := s.slices.getD k .reset
  bytesOf 1 (health x.tierFrozen x.failed (lately x.fixes s.clock.toNat)) ++ bytesOf 1 (s.ownerOf fun p => p.slices.testBit k) ++ bytesOf 2 0
    ++ satBytes 4 x.corrected ++ satBytes 4 x.uncorrectable ++ satBytes 4 ((s.clock.toNat - x.scannedAt) / 1250000)

def State.censusChannel (s : State) (c : Nat) : List Byte :=
  let x := s.channels.getD c .reset
  bytesOf 1 (health false x.failed (lately x.fixes s.clock.toNat)) ++ bytesOf 1 (s.ownerOf fun p => p.sets.contains (c / 16)) ++ satBytes 2 x.alerts
    ++ satBytes 4 x.corrected

/-- What a function sees of a unit it does not own: zero, with HEALTH 7 at its place. -/
def hidden (n at_ : Nat) : List Byte := (List.range n).map fun k => if k = at_ then 7 else 0

/-- The page as function `f` reads it, by offset. -/
def State.censusView (s : State) (f : Nat) : List (Nat × List Byte) :=
  let all := f == 0
  let part := (s.func f).fpart
  let mine := fun (n : Nat) => all || (part == n && decide (part < Config.numPartitions))
  let unit := fun (owns : Partition → Bool) (n at_ : Nat) (b : List Byte) => if s.sees f owns then b else hidden n at_
  [(0x00, bytesOf 8 s.gen ++ bytesOf 8 s.gen ++ bytesOf 8 s.clock.toNat ++ bytesOf 1 s.devno ++ bytesOf 1 f)]
  ++ (if all then rowsAt 0x0040 16 ((List.range 4).map fun k =>
        satBytes 4 (Config.measured (2 * k) s.gen) ++ satBytes 2 (Config.measured (2 * k + 1) s.gen)) else [])
  ++ rowsAt 0x0080 16 ((List.range 16).map fun n => if mine n then s.censusPart n else [])
  ++ rowsAt 0x0180 16 (s.recent.map fun r =>
        if mine r.part then bytesOf 2 r.code ++ bytesOf 1 r.part ++ bytesOf 1 0 ++ bytesOf 4 r.srcid.toNat ++ bytesOf 8 r.clock
        else [])
  ++ (if all then rowsAt 0x0380 16 (s.qports.map fun p =>
        bytesOf 1 p.code ++ bytesOf 1 p.lanes ++ bytesOf 2 0 ++ satBytes 4 p.replays) else [])
  ++ rowsAt 0x03A0 16 (s.aports.zipIdx.map fun p =>
        if s.sees f (·.ports.testBit p.2) then
          bytesOf 1 p.1.code ++ bytesOf 1 p.1.lanes ++ bytesOf 1 (s.ownerOf (·.ports.testBit p.2)) ++ bytesOf 1 p.1.peer
            ++ satBytes 4 p.1.replays
        else [])
  ++ rowsAt 0x04A0 16 (s.frozen.map fun x =>
        if mine x.1 then bytesOf 4 x.2.1.toNat ++ bytesOf 4 0 ++ bytesOf 8 x.2.2 else [])
  ++ rowsAt 0x0600 48 ((List.range Config.numPiers).map fun n => unit (·.piers.contains n) 48 0x0C (s.censusPier n))
  ++ rowsAt 0x0F00 8 ((List.range Config.numCores).map fun c => unit (ownsCore · c) 8 4 (s.censusCore c))
  ++ rowsAt 0x1500 16 ((List.range Config.numSlices).map fun k => unit (·.slices.testBit k) 16 0 (s.censusSlice k))
  ++ rowsAt 0x1800 8 ((List.range 256).map fun c => unit (·.sets.contains (c / 16)) 8 0 (s.censusChannel c))

/-- The page of function `f`, as canonical memory: the rows of its view rise. -/
def State.censusPage (s : State) (f : Nat) : Mem :=
  (s.censusView f).flatMap fun r => r.2.zipIdx.filterMap fun b => if b.1 = 0 then none else some (f * 0x2000 + r.1 + b.2, b.1)

/-- CENSUS_REFRESH (R337): every 1 ms GEN rises, the shadow is copied for every function, and GENEND follows; counts of the last
1 ms start again. -/
def execCensusRefresh (s : State) : Host.Outcome State Fault Refusal :=
  .next <|
    if s.clock.toNat / 1250000 < s.gen then s
    else
      let s1 := { s with gen := s.gen + 1 }
      { s1 with
        census := (List.range Config.numFunctions).flatMap s1.censusPage
        genEnd := s1.gen
        piers := s.piers.map fun x => { x with joints := x.joints.map fun j => { j with halves := 0, t2traps := 0, t3trips := 0 } }
        cores := s.cores.map fun k => { k with acc := 0 }
        qports := s.qports.map fun p => { p with replays := 0 }
        aports := s.aports.map fun p => { p with replays := 0 }
        channels := s.channels.map fun c => { c with alerts := 0 } }

/-! ### Links (R324, R332) -/

/-- A Quickset or Ashlar port, and one changed. -/
def State.port (s : State) (ash : Bool) (n : Nat) : Option Port := if ash then s.aports[n]? else s.qports[n]?
def State.onPort (s : State) (ash : Bool) (n : Nat) (f : Port → Port) : State :=
  if ash then { s with aports := upd s.aports n f } else { s with qports := upd s.qports n f }

/-- FLIT_REPLAY: a replay is counted, and has no other effect if the flit then passes its check; after 16 that failed in
sequence the port retrains (log 93). -/
def execFlitReplay (ash : Bool) (r : PortReplay) (s : State) : Host.Outcome State Fault Refusal :=
  .next <|
    match s.port ash r.port with
    | some p =>
      if p.up then
        let s1 := s.onPort ash r.port fun p => { p with replays := p.replays + 1, failed := if r.failed then p.failed + 1 else 0 }
        if r.failed && decide (16 ≤ p.failed + 1) then s1.next (.portRetrain ash r.port) else s1
      else s
    | none => s

/-- PORT_RETRAIN. -/
def execPortRetrain (ash : Bool) (n : Nat) (s : State) : Host.Outcome State Fault Refusal :=
  .next <| s.onPort ash n fun p =>
    if p.up && decide (16 ≤ p.failed) then { p with up := false, training := true, since := s.clock.toNat, failed := 0 } else p

/-- A partition QUARANTINED from any state (R324). -/
def State.quarantineAny (s : State) (n : Nat) : State := (s.quarantine n).onPart n fun x => { x with st := .quarantined }

/-- PORT_DOWN: training has failed for 10 ms. An Ashlar port leaves every route; with both Quickset ports down, every
partition is QUARANTINED, and the record waits for a port. -/
def execPortDown (ash : Bool) (n : Nat) (s : State) : Host.Outcome State Fault Refusal :=
  .next <|
    match s.port ash n with
    | none => s
    | some p =>
      if !p.training || decide (s.clock.toNat < p.since + 12500000) then s
      else
        let s1 := s.onPort ash n fun p => { p with training := false, lanes := 0 }
        if ash then
          { s1 with parts := s1.parts.map fun x => { x with routes := x.routes.map fun r => (r.1, r.2 - (r.2 &&& 2 ^ n)) } }
        else if s1.qports.any fun p => p.up || p.training then s1
        else
          { (List.range Config.numPartitions).foldl State.quarantineAny s1 with owedLink := some s.clock.toNat }

/-- PORT_UP: a port comes up, and the link record that waits is delivered. -/
def execPortUp (ash : Bool) (n lanes : Nat) (s : State) : Host.Outcome State Fault Refusal :=
  .next <|
    match s.port ash n with
    | none => s
    | some p =>
      if p.up then s
      else
        let s1 := s.onPort ash n fun p =>
          { p with up := true, training := false, failed := 0, lanes := lanes
                   peer := if ash then Config.other (0x3A0 + n) s.clock.toNat % 256 else p.peer }
        match s1.owedLink with
        | some t =>
          if ash then s1
          else
            let r : FaultRec := ⟨faultCode 2 0x09 0x23, 0xFF, 0xFF, 0, 0, 0, 0⟩
            let s2 := s1.faultPut 0 (r.bytes (BitVec.ofNat 64 t))
            { s2 with owedLink := none, recent := (⟨r.code, 0xFF, 0, t⟩ :: s2.recent).take 32 }
        | none => s1

/-- AUTHENTICATION_FAILURE (R325): a transaction of a function arrives under `key`. Under the key of the function's session to
the device it is no failure; else it is dropped: a trusted interface enters ERROR, any other function has a record. -/
def execAuthenticationFailure (r : KeyUse) (s : State) : Host.Outcome State Fault Refusal :=
  .next <|
    if (s.keysOf r.f).map (·.1) = some r.key then s
    else if r.f ≠ 0 && (s.func r.f).trusted then s.enterError r.f
    else s.postFault [0] ⟨faultCode 1 0x09 0x23, (s.func r.f).fpart, 0xFF, 0, 0, 0, 0⟩

/-- A peer's request performed at its point of coherence (R255, R332): an atomic reads and writes in one. -/
def State.serve (s : State) (r : AshReq) : State :=
  let (s1, m) := s.readAt r.pa r.bytes
  match r.op with
  | .read => s1
  | .write v => s.writeAt r.pa (bytesOf r.bytes v)
  | .atom op b => s1.writeAt r.pa (bytesOf r.bytes (atomNew op (r.bytes == 8) m b))
  | .cas b c => if m = c then s1.writeAt r.pa (bytesOf r.bytes b) else s1

/-- ASHLAR_REQUEST_ARRIVAL (R332): a request is carried out in its partition's memory, or dropped with a quarantine; a
read's value goes back to the peer. -/
def execAshlarRequestArrival (port : Nat) (r : AshReq) (s : State) : Host.Outcome State Fault Refusal :=
  .next <|
    let p := s.part r.dstPart
    let rt := p.routes.getD r.srcDev (false, 0)
    let mem := match placeOf r.pa with
      | .package _ | .slice _ _ => reach s r.dstPart r.pa == some true
      | _ => false
    if p.ports.testBit port && rt.1 && rt.2 &&& p.ports != 0 && mem then s.serve r
    else
      (s.quarantine r.dstPart).postFault (0 :: s.lowestFunc r.dstPart)
        ⟨faultCode 2 0x0A 0x21, r.dstPart, 0xFF, 0, BitVec.ofNat 64 r.pa, BitVec.ofNat 32 (r.srcDev * 2 ^ 16),
          BitVec.ofNat 32 r.srcPart⟩

/-! ### Trusted interfaces and attestation (R339 to R342) -/

/-- A reply sent on function 0's SPDM session. -/
def State.reply (s : State) (bytes : List Nat) : State := { s with fw := { s.fw with replies := s.fw.replies ++ [bytes] } }

/-- An error response, and a plain acknowledgement. -/
def State.replyError (s : State) (f : Nat) : State := s.reply [0x7F, f]
def State.replyOk (s : State) (f : Nat) : State := s.reply [0, f]

def natBytes (n x : Nat) : List Nat := (bytesOf n x).map BitVec.toNat

/-- The partition configuration as the report and measurement 4 give it (R341, R342). -/
def State.configBytes (s : State) (n : Nat) : List Nat :=
  let p := s.part n
  natBytes 1 n ++ natBytes 1 s.devno ++ natBytes 12 p.pairs ++ natBytes 6 p.slices
    ++ (List.range 4).flatMap (fun k => natBytes 4 (p.reg (0x028 + 4 * k))) ++ natBytes 2 p.ports ++ natBytes 2 0

/-- A measurement (R342): the boot ROM, the image, its configuration, the partition configuration of the last lock. -/
def State.measurement (s : State) (k : Nat) : Nat :=
  match k with
  | 2 => Config.digest 2 s.fw.version
  | 4 => s.fw.measured.headD (Config.digest 4 0)
  | _ => Config.digest k 0
def State.digests (s : State) : List Nat := (List.range 4).flatMap fun k => natBytes 48 (s.measurement (k + 1))

/-- LOCK_INTERFACE_REQUEST (R339, R340, R342): the interface is locked, the halves of its QCBs are kept, and the
configuration is measured. -/
def execLockInterfaceRequest (f : Nat) (s : State) : Host.Outcome State Fault Refusal :=
  .next <|
    let x := s.func f
    let quiet := x.queues.all fun q => q.st == .idle || q.st == .reset
    if f ≠ 0 && x.fpart < Config.numPartitions && x.tdi == .unlocked && quiet && (s.part x.fpart).st != .quarantined then
      let halves := (List.range Config.numQueues).map fun q =>
        let b := s.bytesAt (hostPa (s.qcbAt f q)) 128
        (QcbHalf.ofBytes b, zeroBytes b 0x1E 0x62)
      let m := Config.digest 4 (numOf ((s.configBytes x.fpart).map (BitVec.ofNat 8)))
      ({ (s.onFunc f fun x => { x with tdi := .locked, snapshot := halves }) with fw := { s.fw with measured := [m] } } : State).replyOk f
    else s.replyError f

/-- START_INTERFACE_REQUEST. -/
def execStartInterfaceRequest (f : Nat) (s : State) : Host.Outcome State Fault Refusal :=
  .next (if (s.func f).tdi == .locked then (s.onFunc f fun x => { x with tdi := .run }).replyOk f else s.replyError f)

/-- STOP_INTERFACE_REQUEST: from any state. -/
def execStopInterfaceRequest (f : Nat) (s : State) : Host.Outcome State Fault Refusal :=
  .next <|
    if f ≠ 0 && (s.func f).fpart < Config.numPartitions then
      (s.onFunc f fun x => { x with tdi := .unlocked, snapshot := [], stopped := false }).replyOk f
    else s.replyError f

/-- GET_DEVICE_INTERFACE_REPORT (R341): BAR0 and BAR4 with their sizes, then the device-specific part. -/
def execGetDeviceInterfaceReport (f : Nat) (s : State) : Host.Outcome State Fault Refusal :=
  .next <|
    let x := s.func f
    if x.trusted then
      s.reply (natBytes 8 (x.bars.getD 0 0).toNat ++ natBytes 8 0x10000 ++ natBytes 8 (x.bars.getD 2 0).toNat ++ natBytes 8 (2 ^ 40)
        ++ s.configBytes x.fpart ++ s.digests)
    else s.replyError f

/-- The device certificate of slot 0 (R342): the ECDSA key that it certifies, and the LMS public key in its extension. -/
def certificate : List Nat := natBytes 96 Config.deviceKey ++ natBytes 60 Config.lmsKey

/-- SPDM_MEASUREMENT_REQUEST (R342): an SPDM 1.2 request on function 0's session. Version, capabilities and algorithms are what
the rule names (log 77); slot 0 alone holds a certificate; a challenge is signed with ECDSA; of the measurements, the LMS
signature of block 0xF0 is over the four of them and the nonce, beside the ECDSA signature. -/
def execSpdmMeasurementRequest (r : SpdmReq) (s : State) : Host.Outcome State Fault Refusal :=
  .next <|
    match r with
    | .version => s.reply [0x12]
    | .capabilities => s.reply [Config.other 0x42 0]
    | .algorithms => s.reply [384, 384, 384, 256]
    | .digests => s.reply (natBytes 48 (Config.digest 0 (numOf (certificate.map (BitVec.ofNat 8)))))
    | .certificate slot => if slot = 0 then s.reply certificate else s.replyError slot
    | .challenge slot nonce =>
      if slot = 0 then { s.reply [Config.signature 1 nonce s.free] with free := s.free + 1 } else s.replyError slot
    | .measurements nonce =>
      let msg := numOf (s.digests.map (BitVec.ofNat 8)) * 2 ^ 256 + nonce
      { s.reply (s.digests ++ [Config.signature 0xF0 msg s.free, Config.signature 1 msg s.free]) with free := s.free + 1 }

/-- KEY_EXCHANGE (R325, R342): the keys, to the device and from it, that a function's traffic then uses; none for an interface
in ERROR. -/
def execKeyExchange (f : Nat) (keys : Nat × Nat) (s : State) : Host.Outcome State Fault Refusal :=
  .next (if (s.func f).tdi == .error then s.replyError f else (s.onFunc f fun x => { x with keys := some keys }).replyOk f)

/-! ### Firmware and reset (R343, R345) -/

/-- Whether the boot ROM runs an image (R343). -/
def State.imageOk (s : State) (i : FwImage) : Bool := i.ecdsaOk && i.lmsOk && decide (s.fw.fused ≤ i.version)

/-- FIRMWARE_LOAD (R343): in recovery, or with every partition UNUSED, an image that passes is written, and the device
resets; a refused one changes nothing. -/
def execFirmwareLoad (i : FwImage) (s : State) : Host.Outcome State Fault Refusal :=
  .next <|
    if (s.fw.recovery || s.parts.all fun p => p.st == .unused) && s.imageOk i then
      State.next { s with fw := { s.fw with flash := i } } (.deviceReset [])
    else s

/-- A unit that failed in bring-up (R345). -/
def State.failUnit (s : State) (u : UnitName) : State :=
  match u with
  | .pier n => s.onPier n fun x => { x with failed := true }
  | .core c => s.onCore c fun x => { x with failed := true }
  | .slice k => { s with slices := upd s.slices k fun x => { x with failed := true } }
  | .channel c => { s with channels := upd s.channels c fun x => { x with failed := true } }

/-- DEVICE_RESET (R343, R345): bring-up with the image in flash, in which the units `bad` fail; an image that the boot ROM does
not run leaves the device in recovery. Memory outside the slices keeps what it holds. -/
def execDeviceReset (bad : List UnitName) (s : State) : Host.Outcome State Fault Refusal :=
  .next <| bad.foldl State.failUnit
    { State.reset with
      agenda := s.agenda
      free := s.free
      nextId := s.nextId
      mem := memZero s.mem (slicePa 0 0) (Config.numSlices * Config.sliceBytes)
      fw := ⟨s.fw.flash, !s.imageOk s.fw.flash, s.fw.flash.version, s.fw.fused, [], []⟩ }

/-! ### Rows and scrubbing (R240, R344) -/

/-- ROW_ACTIVATION_ALERT: a row whose count has reached RAATHR; its neighbours are refreshed, its count is 0, and the
bank is held for 225 cycles. -/
def execRowActivationAlert (ch bank row : Nat) (s : State) : Host.Outcome State Fault Refusal :=
  .next <|
    let mine := fun (r : RowCount) => r.ch == ch && r.bank == bank && r.row == row
    if s.rows.any fun r => mine r && decide (s.raathr ≤ r.count) then
      { s with
        rows := s.rows.filter fun r => !mine r
        channels := upd s.channels ch fun c => { c with alerts := c.alerts + 1 }
        bankHolds := (ch, bank, s.clock.toNat + 225) :: s.bankHolds.filter fun h => !(h.1 == ch && h.2.1 == bank) }
    else s

/-- BANK_HOLD_END. -/
def execBankHoldEnd (ch bank : Nat) (s : State) : Host.Outcome State Fault Refusal :=
  .next { s with bankHolds := s.bankHolds.filter fun h => !(h.1 == ch && h.2.1 == bank && decide (h.2.2 ≤ s.clock.toNat)) }

/-- ROW_REFRESH: a periodic refresh sets a row's count to 0. -/
def execRowRefresh (ch bank row : Nat) (s : State) : Host.Outcome State Fault Refusal :=
  .next { s with rows := s.rows.filter fun r => !(r.ch == ch && r.bank == bank && r.row == row) }

/-- Corrected errors noted by time, those of the last second kept. -/
def noteFixes (fixes : List (Nat × Nat)) (now n : Nat) : List (Nat × Nat) :=
  (now, n) :: fixes.filter fun e => decide (now < e.1 + 1250000000)

/-- Corrected errors of a unit, counted in the census (R240, R337, R338). -/
def State.noteCorrected (s : State) (u : UnitName) (n : Nat) : State :=
  let now := s.clock.toNat
  if n = 0 then s
  else match u with
  | .pier k => s.onPier k fun x => { x with fixes := noteFixes x.fixes now n }
  | .core c => s.onCore c fun x => { x with fixes := noteFixes x.fixes now n }
  | .slice k => { s with slices := upd s.slices k fun x => { x with corrected := x.corrected + n, fixes := noteFixes x.fixes now n } }
  | .channel c =>
    { s with channels := upd s.channels c fun x => { x with corrected := x.corrected + n, fixes := noteFixes x.fixes now n } }

/-- SCRUB (R240): `n` corrected and `m` uncorrectable errors that the error correction finds at a place. A slice scrubbed in full
counts its errors, and where its uncorrectable data lies is a free value; corrected errors of a core's storage count in the core,
and an uncorrectable one waits for a read (log 106). -/
def execScrub (place : EccPlace) (n m : Nat) (s : State) : Host.Outcome State Fault Refusal :=
  .next <|
    match place with
    | .unit (.slice k) =>
      { s.noteCorrected (.slice k) n with
        free := s.free + m
        slices := upd (s.noteCorrected (.slice k) n).slices k fun x =>
          { x with
            uncorrectable := x.uncorrectable + m
            scannedAt := s.clock.toNat
            bad := x.bad ++ (List.range m).map fun j => Config.other 0x20 (s.free + j) % Config.sliceBytes } }
    | .unit u => s.noteCorrected u n
    | .word uid w =>
      let s1 := ((s.team uid).map fun t => s.noteCorrected (.core t.core) n).getD s
      if m = 0 then s1 else s1.onTeam uid fun t => { t with bad := w :: t.bad }
    | .spad bid off =>
      let s1 := ((s.block bid).map fun b => s.noteCorrected (.core b.home) n).getD s
      if m = 0 then s1 else s1.onBlock bid fun b => { b with spadBad := off :: b.spadBad }

end Sys2Proof.Machine
end

