-- ==== Sys2Proof/Machine/Dispatch.lean ====
section
/-! DEFINITION. Which meaning each instruction has: one arm for each constructor. -/

namespace Sys2Proof.Machine

def exec (i : Instr) (s : State) : Host.Outcome State Fault Refusal :=
  match i with
  | .nopShort dly => Sys2Proof.Machine.execNopShort dly s
  | .nopLong dly g => Sys2Proof.Machine.execNopLong dly g s
  | .iaddShort dly o => Sys2Proof.Machine.execIaddShort dly o s
  | .iaddLong dly g o mode u => Sys2Proof.Machine.execIaddLong dly g o mode u s
  | .isubShort dly o => Sys2Proof.Machine.execIsubShort dly o s
  | .isubLong dly g o mode u => Sys2Proof.Machine.execIsubLong dly g o mode u s
  | .imulShort dly o => Sys2Proof.Machine.execImulShort dly o s
  | .imulLong dly g o u => Sys2Proof.Machine.execImulLong dly g o u s
  | .imad dly g o c u => Sys2Proof.Machine.execImad dly g o c u s
  | .imulh dly g o uns u => Sys2Proof.Machine.execImulh dly g o uns u s
  | .iminShort dly o => Sys2Proof.Machine.execIminShort dly o s
  | .iminLong dly g o uns u => Sys2Proof.Machine.execIminLong dly g o uns u s
  | .imaxShort dly o => Sys2Proof.Machine.execImaxShort dly o s
  | .imaxLong dly g o uns u => Sys2Proof.Machine.execImaxLong dly g o uns u s
  | .andShort dly o => Sys2Proof.Machine.execAndShort dly o s
  | .andLong dly g o u => Sys2Proof.Machine.execAndLong dly g o u s
  | .orShort dly o => Sys2Proof.Machine.execOrShort dly o s
  | .orLong dly g o u => Sys2Proof.Machine.execOrLong dly g o u s
  | .xorShort dly o => Sys2Proof.Machine.execXorShort dly o s
  | .xorLong dly g o u => Sys2Proof.Machine.execXorLong dly g o u s
  | .shlShort dly o => Sys2Proof.Machine.execShlShort dly o s
  | .shlLong dly g o u => Sys2Proof.Machine.execShlLong dly g o u s
  | .shrShort dly o => Sys2Proof.Machine.execShrShort dly o s
  | .shrLong dly g o u => Sys2Proof.Machine.execShrLong dly g o u s
  | .sarShort dly o => Sys2Proof.Machine.execSarShort dly o s
  | .sarLong dly g o u => Sys2Proof.Machine.execSarLong dly g o u s
  | .popc dly g o u => Sys2Proof.Machine.execPopc dly g o u s
  | .clz dly g o u => Sys2Proof.Machine.execClz dly g o u s
  | .brev dly g o u => Sys2Proof.Machine.execBrev dly g o u s
  | .bfx dly g o sgn u => Sys2Proof.Machine.execBfx dly g o sgn u s
  | .bfi dly g o c u => Sys2Proof.Machine.execBfi dly g o c u s
  | .rot dly g o u => Sys2Proof.Machine.execRot dly g o u s
  | .notB dly g o u => Sys2Proof.Machine.execNotB dly g o u s
  | .iabs dly g o u => Sys2Proof.Machine.execIabs dly g o u s
  | .ineg dly g o u => Sys2Proof.Machine.execIneg dly g o u s
  | .icmp dly g o cc => Sys2Proof.Machine.execIcmp dly g o cc s
  | .movShort dly d b bk => Sys2Proof.Machine.execMovShort dly d b bk s
  | .movLong dly g d b bk u => Sys2Proof.Machine.execMovLong dly g d b bk u s
  | .li dly g d u imm => Sys2Proof.Machine.execLi dly g d u imm s
  | .iaddi dly g o u imm => Sys2Proof.Machine.execIaddi dly g o u imm s
  | .sel dly g o cp cneg => Sys2Proof.Machine.execSel dly g o cp cneg s
  | .lea dly g o sh sx u => Sys2Proof.Machine.execLea dly g o sh sx u s
  | .iaddW dly g o u => Sys2Proof.Machine.execIaddW dly g o u s
  | .isubW dly g o u => Sys2Proof.Machine.execIsubW dly g o u s
  | .shlW dly g o u => Sys2Proof.Machine.execShlW dly g o u s
  | .shrW dly g o u => Sys2Proof.Machine.execShrW dly g o u s
  | .imulWl dly g o uns u => Sys2Proof.Machine.execImulWl dly g o uns u s
  | .pand dly g d a b na nb => Sys2Proof.Machine.execPand dly g d a b na nb s
  | .por dly g d a b na nb => Sys2Proof.Machine.execPor dly g d a b na nb s
  | .pxor dly g d a b na nb => Sys2Proof.Machine.execPxor dly g d a b na nb s
  | .pnot dly g d a na => Sys2Proof.Machine.execPnot dly g d a na s
  | .pget dly g d => Sys2Proof.Machine.execPget dly g d s
  | .pset dly g a => Sys2Proof.Machine.execPset dly g a s
  | .icvt dly g o src dst sat u => Sys2Proof.Machine.execIcvt dly g o src dst sat u s
  | .rnd dly g d key => Sys2Proof.Machine.execRnd dly g d key s
  | .faddShort dly o => Sys2Proof.Machine.execFaddShort dly o s
  | .faddLong dly g o rm ftz => Sys2Proof.Machine.execFaddLong dly g o rm ftz s
  | .fsubShort dly o => Sys2Proof.Machine.execFsubShort dly o s
  | .fsubLong dly g o rm ftz => Sys2Proof.Machine.execFsubLong dly g o rm ftz s
  | .fmulShort dly o => Sys2Proof.Machine.execFmulShort dly o s
  | .fmulLong dly g o rm ftz => Sys2Proof.Machine.execFmulLong dly g o rm ftz s
  | .ffma dly g o c rm ftz => Sys2Proof.Machine.execFfma dly g o c rm ftz s
  | .fmin dly g o ftz => Sys2Proof.Machine.execFmin dly g o ftz s
  | .fmax dly g o ftz => Sys2Proof.Machine.execFmax dly g o ftz s
  | .fcmp dly g o cc => Sys2Proof.Machine.execFcmp dly g o cc s
  | .fclass dly g o set => Sys2Proof.Machine.execFclass dly g o set s
  | .frnd dly g o rm ftz => Sys2Proof.Machine.execFrnd dly g o rm ftz s
  | .ffrac dly g o rm ftz => Sys2Proof.Machine.execFfrac dly g o rm ftz s
  | .frcp dly g tag o ftz => Sys2Proof.Machine.execFrcp dly g tag o ftz s
  | .frsq dly g tag o ftz => Sys2Proof.Machine.execFrsq dly g tag o ftz s
  | .fsqrt dly g tag o ftz => Sys2Proof.Machine.execFsqrt dly g tag o ftz s
  | .fexp2 dly g tag o ftz => Sys2Proof.Machine.execFexp2 dly g tag o ftz s
  | .flog2 dly g tag o ftz => Sys2Proof.Machine.execFlog2 dly g tag o ftz s
  | .fsin dly g tag o ftz => Sys2Proof.Machine.execFsin dly g tag o ftz s
  | .fcos dly g tag o ftz => Sys2Proof.Machine.execFcos dly g tag o ftz s
  | .dadd dly g o rm ftz => Sys2Proof.Machine.execDadd dly g o rm ftz s
  | .dmul dly g o rm ftz => Sys2Proof.Machine.execDmul dly g o rm ftz s
  | .dfma dly g o c rm ftz => Sys2Proof.Machine.execDfma dly g o c rm ftz s
  | .dmin dly g o ftz => Sys2Proof.Machine.execDmin dly g o ftz s
  | .dmax dly g o ftz => Sys2Proof.Machine.execDmax dly g o ftz s
  | .dcmp dly g o cc ftz => Sys2Proof.Machine.execDcmp dly g o cc ftz s
  | .hadd2 dly g o bf => Sys2Proof.Machine.execHadd2 dly g o bf s
  | .hmul2 dly g o bf => Sys2Proof.Machine.execHmul2 dly g o bf s
  | .hfma2 dly g o c bf => Sys2Proof.Machine.execHfma2 dly g o c bf s
  | .hmin2 dly g o bf => Sys2Proof.Machine.execHmin2 dly g o bf s
  | .hmax2 dly g o bf => Sys2Proof.Machine.execHmax2 dly g o bf s
  | .f2i dly g o rm src dst => Sys2Proof.Machine.execF2i dly g o rm src dst s
  | .i2f dly g o rm src dst => Sys2Proof.Machine.execI2f dly g o rm src dst s
  | .f2f dly g o rm src dst => Sys2Proof.Machine.execF2f dly g o rm src dst s
  | .pack dly g o c dst slot => Sys2Proof.Machine.execPack dly g o c dst slot s
  | .unpk dly g o src slot => Sys2Proof.Machine.execUnpk dly g o src slot s
  | .dp2 dly g o c bf => Sys2Proof.Machine.execDp2 dly g o c bf s
  | .dp4 dly g o c ty => Sys2Proof.Machine.execDp4 dly g o c ty s
  | .dp8 dly g o c f4 => Sys2Proof.Machine.execDp8 dly g o c f4 s
  | .getsb dly g o => Sys2Proof.Machine.execGetsb dly g o s
  | .setsb dly g d b bk => Sys2Proof.Machine.execSetsb dly g d b bk s
  | .sbcmp dly g o cc => Sys2Proof.Machine.execSbcmp dly g o cc s
  | .shfl dly g tag o m => Sys2Proof.Machine.execShfl dly g tag o m s
  | .voteAll dly g tag o => Sys2Proof.Machine.execVoteAll dly g tag o s
  | .voteAny dly g tag o => Sys2Proof.Machine.execVoteAny dly g tag o s
  | .voteBallot dly g tag o => Sys2Proof.Machine.execVoteBallot dly g tag o s
  | .voteEq dly g tag o => Sys2Proof.Machine.execVoteEq dly g tag o s
  | .gred dly g tag o op rm => Sys2Proof.Machine.execGred dly g tag o op rm s
  | .gscan dly g tag o op excl rm => Sys2Proof.Machine.execGscan dly g tag o op excl rm s
  | .reorder dly a b => Sys2Proof.Machine.execReorder dly a b s
  | .ld dly g tag o size ord scope off => Sys2Proof.Machine.execLd dly g tag o size ord scope off s
  | .st dly g tag a b size ord scope off => Sys2Proof.Machine.execSt dly g tag a b size ord scope off s
  | .lds dly g tag o size off => Sys2Proof.Machine.execLds dly g tag o size off s
  | .sts dly g tag a b size off => Sys2Proof.Machine.execSts dly g tag a b size off s
  | .atom dly g tag d a b op w64 ord scope off => Sys2Proof.Machine.execAtom dly g tag d a b op w64 ord scope off s
  | .cas dly g tag d a b c w64 fail ord scope off => Sys2Proof.Machine.execCas dly g tag d a b c w64 fail ord scope off s
  | .atoms dly g tag d a b op w64 ord off => Sys2Proof.Machine.execAtoms dly g tag d a b op w64 ord off s
  | .fence dly ord scope => Sys2Proof.Machine.execFence dly ord scope s
  | .mma dly d a b desc pm1 af bf new => Sys2Proof.Machine.execMma dly d a b desc pm1 af bf new s
  | .mmas dly d a b desc pm1 af bf new n mreg => Sys2Proof.Machine.execMmas dly d a b desc pm1 af bf new n mreg s
  | .azero dly d int => Sys2Proof.Machine.execAzero dly d int s
  | .ald dly tag d a b int => Sys2Proof.Machine.execAld dly tag d a b int s
  | .ast dly tag a b c ofmt act scale bias => Sys2Proof.Machine.execAst dly tag a b c ofmt act scale bias s
  | .amov dly tag d c => Sys2Proof.Machine.execAmov dly tag d c s
  | .qtile dly tag a b c fmt len => Sys2Proof.Machine.execQtile dly tag a b c fmt len s
  | .copy dly a b c s2g rec => Sys2Proof.Machine.execCopy dly a b c s2g rec s
  | .waitc dly cls n => Sys2Proof.Machine.execWaitc dly cls n s
  | .yieldC dly cls n off => Sys2Proof.Machine.execYieldC dly cls n off s
  | .batch dly => Sys2Proof.Machine.execBatch dly s
  | .mark dly n => Sys2Proof.Machine.execMark dly n s
  | .markW dly n => Sys2Proof.Machine.execMarkW dly n s
  | .send dly g a b h w => Sys2Proof.Machine.execSend dly g a b h w s
  | .bra dly g off => Sys2Proof.Machine.execBra dly g off s
  | .jmp dly a => Sys2Proof.Machine.execJmp dly a s
  | .call dly d off => Sys2Proof.Machine.execCall dly d off s
  | .ret dly a => Sys2Proof.Machine.execRet dly a s
  | .mjoin dly off => Sys2Proof.Machine.execMjoin dly off s
  | .join dly => Sys2Proof.Machine.execJoin dly s
  | .exit dly g => Sys2Proof.Machine.execExit dly g s
  | .barArr dly b want => Sys2Proof.Machine.execBarArr dly b want s
  | .barWait dly b => Sys2Proof.Machine.execBarWait dly b s
  | .barSync dly b want => Sys2Proof.Machine.execBarSync dly b want s
  | .balBurn dly lvl len => Sys2Proof.Machine.execBalBurn dly lvl len s
  | .balShunt dly => Sys2Proof.Machine.execBalShunt dly s
  | .balHold dly lvl => Sys2Proof.Machine.execBalHold dly lvl s
  | .trap dly g code => Sys2Proof.Machine.execTrap dly g code s
  | .rttRes dly => Sys2Proof.Machine.execRttRes dly s
  | .rttSkip dly => Sys2Proof.Machine.execRttSkip dly s
  | .rttKill dly => Sys2Proof.Machine.execRttKill dly s
  | .getsr dly g d k r => Sys2Proof.Machine.execGetsr dly g d k r s
  | .setsr dly b bk r => Sys2Proof.Machine.execSetsr dly b bk r s
  | .qend dly => Sys2Proof.Machine.execQend dly s
  | .clauseHeader w => Sys2Proof.Machine.execClauseHeader w s
  | .issueCycle core quad => Sys2Proof.Machine.execIssueCycle core quad s
  | .greedyLimit core quad => Sys2Proof.Machine.execGreedyLimit core quad s
  | .starvationOverride core quad => Sys2Proof.Machine.execStarvationOverride core quad s
  | .resultWriteback uid => Sys2Proof.Machine.execResultWriteback uid s
  | .taggedResultWrite uid tag => Sys2Proof.Machine.execTaggedResultWrite uid tag s
  | .scratchpadAccessComplete uid => Sys2Proof.Machine.execScratchpadAccessComplete uid s
  | .maskPredictionResolve uid => Sys2Proof.Machine.execMaskPredictionResolve uid s
  | .blockEnd bid => Sys2Proof.Machine.execBlockEnd bid s
  | .trapTake uid => Sys2Proof.Machine.execTrapTake uid s
  | .windowEnd => Sys2Proof.Machine.execWindowEnd s
  | .t3Trip pier joint mismatch voltageOnly => Sys2Proof.Machine.execT3Trip pier joint mismatch voltageOnly s
  | .clampEnd pier => Sys2Proof.Machine.execClampEnd pier s
  | .boostEnd pier joint => Sys2Proof.Machine.execBoostEnd pier joint s
  | .coolDownEnd pier joint => Sys2Proof.Machine.execCoolDownEnd pier joint s
  | .burnExpire uid => Sys2Proof.Machine.execBurnExpire uid s
  | .qtailWrite f q v => Sys2Proof.Machine.execQtailWrite f q v s
  | .qcheadWrite f q v => Sys2Proof.Machine.execQcheadWrite f q v s
  | .qctlEnable f q => Sys2Proof.Machine.execQctlEnable f q s
  | .qctlStop f q => Sys2Proof.Machine.execQctlStop f q s
  | .qctlReset f q => Sys2Proof.Machine.execQctlReset f q s
  | .queueResetComplete f q => Sys2Proof.Machine.execQueueResetComplete f q s
  | .cmdNop f q => Sys2Proof.Machine.execCmdNop f q s
  | .cmdLaunch f q => Sys2Proof.Machine.execCmdLaunch f q s
  | .cmdWait f q => Sys2Proof.Machine.execCmdWait f q s
  | .cmdSignal f q => Sys2Proof.Machine.execCmdSignal f q s
  | .launchComplete lid => Sys2Proof.Machine.execLaunchComplete lid s
  | .coalescingTimer f q => Sys2Proof.Machine.execCoalescingTimer f q s
  | .idleFlush f q => Sys2Proof.Machine.execIdleFlush f q s
  | .dispatch part => Sys2Proof.Machine.execDispatch part s
  | .restore bid pier => Sys2Proof.Machine.execRestore bid pier s
  | .preempt core why => Sys2Proof.Machine.execPreempt core why s
  | .cancel pier lid => Sys2Proof.Machine.execCancel pier lid s
  | .done pier lid => Sys2Proof.Machine.execDone pier lid s
  | .killed bid => Sys2Proof.Machine.execKilled bid s
  | .saved bid => Sys2Proof.Machine.execSaved bid s
  | .blockPlace pier part => Sys2Proof.Machine.execBlockPlace pier part s
  | .stealRequest pier part => Sys2Proof.Machine.execStealRequest pier part s
  | .stealAnswer pier part => Sys2Proof.Machine.execStealAnswer pier part s
  | .stealBackoffEnd pier part => Sys2Proof.Machine.execStealBackoffEnd pier part s
  | .lowestClassRestore part => Sys2Proof.Machine.execLowestClassRestore part s
  | .messageAccept idx => Sys2Proof.Machine.execMessageAccept idx s
  | .handlerSpawn core => Sys2Proof.Machine.execHandlerSpawn core s
  | .sliceEnd part => Sys2Proof.Machine.execSliceEnd part s
  | .blockSave bid => Sys2Proof.Machine.execBlockSave bid s
  | .blockRestore pier part => Sys2Proof.Machine.execBlockRestore pier part s
  | .watchdog bid => Sys2Proof.Machine.execWatchdog bid s
  | .energyLimit part => Sys2Proof.Machine.execEnergyLimit part s
  | .storeSend uid seq => Sys2Proof.Machine.execStoreSend uid seq s
  | .loadSend uid seq => Sys2Proof.Machine.execLoadSend uid seq s
  | .requestPerform uid seq => Sys2Proof.Machine.execRequestPerform uid seq s
  | .storeAck uid seq => Sys2Proof.Machine.execStoreAck uid seq s
  | .loadResponse uid seq => Sys2Proof.Machine.execLoadResponse uid seq s
  | .ackForward uid seq => Sys2Proof.Machine.execAckForward uid seq s
  | .tableWalk asid va kind => Sys2Proof.Machine.execTableWalk asid va kind s
  | .prespRetry f token => Sys2Proof.Machine.execPrespRetry f token s
  | .prespFail f token => Sys2Proof.Machine.execPrespFail f token s
  | .inval f va scope asid => Sys2Proof.Machine.execInval f va scope asid s
  | .invalComplete f => Sys2Proof.Machine.execInvalComplete f s
  | .asidctlWrite f v => Sys2Proof.Machine.execAsidctlWrite f v s
  | .copyBeat bid => Sys2Proof.Machine.execCopyBeat bid s
  | .copyComplete bid => Sys2Proof.Machine.execCopyComplete bid s
  | .batchComplete uid => Sys2Proof.Machine.execBatchComplete uid s
  | .setoutEntryStart bid idx => Sys2Proof.Machine.execSetoutEntryStart bid idx s
  | .setoutEntryComplete bid idx => Sys2Proof.Machine.execSetoutEntryComplete bid idx s
  | .dmodeCommit lid => Sys2Proof.Machine.execDmodeCommit lid s
  | .pcmdEnable p => Sys2Proof.Machine.execPcmdEnable p s
  | .pcmdDrain p => Sys2Proof.Machine.execPcmdDrain p s
  | .pcmdReset p => Sys2Proof.Machine.execPcmdReset p s
  | .pcmdRelease p => Sys2Proof.Machine.execPcmdRelease p s
  | .partitionDrained p => Sys2Proof.Machine.execPartitionDrained p s
  | .perrRead p => Sys2Proof.Machine.execPerrRead p s
  | .fltlostRead r => Sys2Proof.Machine.execFltlostRead r s
  | .registerWrite pa bytes v => Sys2Proof.Machine.execRegisterWrite pa bytes v s
  | .devnoWrite v => Sys2Proof.Machine.execDevnoWrite v s
  | .ckctlGo p toDev => Sys2Proof.Machine.execCkctlGo p toDev s
  | .checkpointDone => Sys2Proof.Machine.execCheckpointDone s
  | .hostApertureAccess f off bytes wr => Sys2Proof.Machine.execHostApertureAccess f off bytes wr s
  | .censusRefresh => Sys2Proof.Machine.execCensusRefresh s
  | .flitReplay ash r => Sys2Proof.Machine.execFlitReplay ash r s
  | .portRetrain ash port => Sys2Proof.Machine.execPortRetrain ash port s
  | .portDown ash port => Sys2Proof.Machine.execPortDown ash port s
  | .portUp ash port lanes => Sys2Proof.Machine.execPortUp ash port lanes s
  | .authenticationFailure r => Sys2Proof.Machine.execAuthenticationFailure r s
  | .ashlarRequestArrival port r => Sys2Proof.Machine.execAshlarRequestArrival port r s
  | .lockInterfaceRequest f => Sys2Proof.Machine.execLockInterfaceRequest f s
  | .startInterfaceRequest f => Sys2Proof.Machine.execStartInterfaceRequest f s
  | .stopInterfaceRequest f => Sys2Proof.Machine.execStopInterfaceRequest f s
  | .getDeviceInterfaceReport f => Sys2Proof.Machine.execGetDeviceInterfaceReport f s
  | .spdmMeasurementRequest r => Sys2Proof.Machine.execSpdmMeasurementRequest r s
  | .firmwareLoad img => Sys2Proof.Machine.execFirmwareLoad img s
  | .rowActivationAlert ch bank row => Sys2Proof.Machine.execRowActivationAlert ch bank row s
  | .bankHoldEnd ch bank => Sys2Proof.Machine.execBankHoldEnd ch bank s
  | .rowRefresh ch bank row => Sys2Proof.Machine.execRowRefresh ch bank row s
  | .scrub place corrected uncorrectable => Sys2Proof.Machine.execScrub place corrected uncorrectable s
  | .deviceReset bad => Sys2Proof.Machine.execDeviceReset bad s
  | .keyExchange f keys => Sys2Proof.Machine.execKeyExchange f keys s

end Sys2Proof.Machine
end

