-- ==== Sys2Proof/Machine/Agents.lean ====
section
/-! DEFINITION. What the device's other agents do by themselves (log 1): the events that their rules call for in a
state, and the first of them that changes it. -/

namespace Sys2Proof.Machine

/-- The events of a block: its copies, its entries, its save, its watchdog, its end. -/
def State.blockEvents (s : State) (b : Block) : List Instr :=
  let n := ((s.launch b.lid).map (·.table.length)).getD 0
  if !b.live then []
  else
    [.copyComplete b.bid] ++ (List.range n).map (.setoutEntryStart b.bid ·) ++ [.blockSave b.bid, .watchdog b.bid, .blockEnd b.bid]

/-- The entries that run for a launch, its reset, its commit and its completion. -/
def Launch.events (l : Launch) : List Instr :=
  ((l.ents.filter fun r => r.st == .running).map fun r => .setoutEntryComplete r.bid r.idx)
    ++ (if l.d.dmode then [.dmodeCommit l.lid] else [])
    ++ (if l.cancelled then (List.range Config.numPiers).map (.cancel · l.lid) else [.launchComplete l.lid])

/-- Stores of saved or moved teams on their way, and batches that are done. -/
def State.movedEvents (s : State) : List Instr :=
  let perform := fun (t : Team) => (t.flight.filter fun e => e.st == .sent).map fun e => Instr.requestPerform t.uid e.seq
  (s.saved.flatMap (·.teams)).flatMap (fun t =>
      perform t ++ (t.flight.filter fun e => e.st == .performed).map fun e => .storeAck t.uid e.seq)
    ++ s.allTeams.flatMap fun t =>
      perform t ++ ((t.flight.filter fun e => e.st == .performed).map fun e => .ackForward t.uid e.seq)
        ++ (if t.mtx.isEmpty && t.wait != .finish then [] else [.batchComplete t.uid])

/-- Messages, inboxes, invalidations, and the reports of the leaves. -/
def State.meshEvents (s : State) : List Instr :=
  ((List.range s.channel.length).map .messageAccept)
    ++ ((List.range Config.numCores).filter fun c => !(s.core c).inbox.isEmpty).map .handlerSpawn
    ++ (s.invals.map fun i => .invalComplete i.f)
    ++ (s.piers.zipIdx.flatMap fun p => p.1.reports.map fun r =>
        match r with
        | .done l => .done p.2 l
        | .killed _ b => .killed b
        | .saved b => .saved b)

/-- Saved blocks sent to a leaf, but while cores are kept for a launch of class 0 (R82), blocks placed and restored, ranges dealt,
slices passed, drains ended, blocks pre-empted, blocks stolen. -/
def State.partEvents (s : State) (n : Nat) : List Instr :=
  let p := s.part n
  if !p.running then []
  else
    ((s.saved.filter fun b => b.blk.d.part == n && b.restorePier.isNone && (s.keptFor n).isNone).map fun b =>
        .restore b.blk.bid (if p.piers.contains (b.blk.home / 4) then b.blk.home / 4 else p.piers.headD 0))
      ++ (if s.saved.isEmpty then [] else p.piers.map (.blockRestore · n))
      ++ ((p.piers.filter fun k => !(s.pier k).queue.isEmpty || !(s.pier k).link.isEmpty).map (.blockPlace · n))
      ++ ((p.piers.filter fun k => !(s.pier k).asked.isEmpty).map (.stealAnswer · n))
      ++ ((p.piers.filter fun k => (s.pier k).backoff.any fun b => decide (b.2 ≤ s.clock.toNat)).map (.stealBackoffEnd · n))
      ++ [.dispatch n, .sliceEnd n, .lowestClassRestore n, .partitionDrained n] ++ s.preemptDue n
      ++ (p.piers.filter fun k => s.mayAsk k n).map (.stealRequest · n)

/-- A queue's commands, its reset and its interrupts. -/
def State.queueEvents (s : State) (f q : Nat) : List Instr :=
  let x := s.queue f q
  (if s.takes f q then [.cmdNop f q, .cmdLaunch f q, .cmdWait f q, .cmdSignal f q] else [])
    ++ (if x.st == .resetting then [.queueResetComplete f q] else [])
    ++ (if x.pending = 0 then [] else [.coalescingTimer f q, .idleFlush f q])

/-- Clamps, bank holds, the census and the scrubs of the slices, when their time has come: each slice is scrubbed in full every 10 s
(R240; log 118). -/
def State.timedEvents (s : State) : List Instr :=
  ((List.range Config.numPiers).filter fun n => (s.pier n).clampTo != 0 && decide ((s.pier n).clampTo ≤ s.clock.toNat)).map .clampEnd
    ++ ((s.bankHolds.filter fun h => decide (h.2.2 ≤ s.clock.toNat)).map fun h => .bankHoldEnd h.1 h.2.1)
    ++ (if s.gen ≤ s.clock.toNat / 1250000 then [.censusRefresh] else [])
    ++ ((List.range Config.numSlices).filter fun k =>
        match s.slices[k]? with
        | some x => decide (x.scannedAt + 12500000000 ≤ s.clock.toNat)
        | none => false).map fun k => .scrub (.unit (.slice k)) 0 0

/-- Everything that the agents may have to do. -/
def State.deviceEvents (s : State) : List Instr :=
  s.timedEvents ++ s.allBlocks.flatMap s.blockEvents ++ s.launches.flatMap Launch.events ++ s.movedEvents ++ s.meshEvents
    ++ (List.range Config.numPartitions).flatMap s.partEvents
    ++ (List.range Config.numFunctions).flatMap fun f =>
        if (s.func f).queues.all fun q => q.st == .idle && q.pending == 0 then []
        else (List.range Config.numQueues).flatMap (s.queueEvents f)

/-- The state after the first of some events that changes it. -/
def State.firstChange (s : State) : List Instr → Option State
  | [] => none
  | e :: r =>
    match exec e s with
    | .next s' => if s' = s then State.firstChange s r else some s'
    | .fault _ | .refused _ => State.firstChange s r

/-- Words that cannot be fetched: in a window the fetch waits for the outcome (R144, R145). -/
def State.unfetched (s : State) (va : DWord) (r : XRes) : State :=
  match s.cur.window with
  | some w => s.closeWindow w
  | none => s.settle.fetchFault va r

/-- The next item of a selective replay (R146): issued again for the lanes left out, then committed. An instruction that may
not act yet is tried again. -/
def State.redoStep (s : State) (w : Window) (r : Redo) : Host.Outcome State Fault Refusal :=
  match r.todo with
  | [] => .next { s with cur := s.cur.rejoin r }
  | k :: rest =>
    match w.items[k]? with
    | none => .next { s with cur := s.cur.rejoin r }
    | some x =>
      let s0 : State := { s with cur := { s.cur with
        at_ := x.start
        window := some { w with redo := some { r with lanes := s.reaching w k } } } }
      match x.what with
      | .word c d _ =>
        let rs := (lanesOf s0.cur.mask).map fun l => (l, resTrap c d)
        let w1 := { w with passes := w.passes ++ [⟨k, 0, none, false, rs⟩] }
        .next (State.redone { s0 with cur := { s0.cur with mask := 0, window := some w1 }, sel := false } w1 r k rest)
      | .instr i =>
        match exec i s0 with
        | .next s1 =>
          match s1.cur.window with
          | some w1 => if s1.cur.at_ = x.start && !w1.closed then .next s1 else .next (s1.redone w1 r k rest)
          | none => .next s1
        | .fault f => .fault f
        | .refused q => .refused q

/-- What the current team does where it stands: a header is entered, an instruction is executed, words that are none trap,
and words that cannot be fetched fault (R95, R113, R114). -/
def State.runNext (s : State) : Host.Outcome State Fault Refusal :=
  match s.fetchNext with
  | (s1, .header w) => exec (.clauseHeader w) s1
  | (s1, .instr i) => exec i s1
  | (s1, .illegal w long) => .next (s1.illegal w long)
  | (s1, .fault va r) => .next (s1.unfetched va r)

/-- The issue of the current team: the next item of a replay, else what it fetches. -/
def State.issueStep (s : State) : Host.Outcome State Fault Refusal :=
  match s.cur.window with
  | some w =>
    match w.redo with
    | some r => s.redoStep w r
    | none => s.runNext
  | none => s.runNext

/-- A team at a header reads it, or goes on without an issue cycle with what it has begun (R36, R95). -/
def State.headerStep (s : State) (uid : Nat) : Host.Outcome State Fault Refusal :=
  State.runNext { s.focus uid with sel := false }

/-- Whether the current team has been chosen and may issue. -/
def State.issuing (s : State) : Bool := s.sel && s.ready s.cur && s.quadFree s.cur.core s.cur.quad

/-- The step of the machine with nothing on its agenda and no team chosen: an event of a team's own machinery, else of another
agent, else a header that a team has arrived at or an instruction that goes on, else the choice of a team, else a cycle passes. -/
def State.idleStep (s : State) : Host.Outcome State Fault Refusal :=
  match s.ownEvent with
  | some e => exec e s
  | none =>
    match s.firstChange s.deviceEvents with
    | some s' => .next s'
    | none =>
      match s.headerTeam, s.issueEvent with
      | some uid, _ => s.headerStep uid
      | none, some e => exec e s
      | none, none => .next s.tick

/-- A step in which the memory system and the other agents do nothing (log 1): what falls due by the clock, else a team
issues, else a cycle passes. -/
def State.timeStep (s : State) : Host.Outcome State Fault Refusal :=
  if s.wins < s.clock.toNat / Config.windowCycles then exec .windowEnd s
  else
    match s.landingEvent, s.firstChange s.timedEvents with
    | some e, _ => exec e s
    | none, some s' => .next s'
    | none, none =>
      match s.headerTeam with
      | some uid => s.headerStep uid
      | none =>
        if s.issuing then s.issueStep
        else
          match s.issueEvent with
          | some e => exec e s
          | none => .next s.tick

/-- The step of the machine: what the agenda names (an event; anything else lets time pass), then the issue of the
chosen team, then what runs by itself. -/
def State.stepOf (s : State) : Host.Outcome State Fault Refusal :=
  match s.agenda with
  | e :: r => if isEvent e then exec e { s with agenda := r } else State.timeStep { s with agenda := r }
  | [] => if s.issuing then s.issueStep else s.idleStep

/-! ### A word placed where the next step fetches -/

/-- The shape of the team that `placeWord` makes: one team of 32 lanes. -/
def placedDesc : Desc :=
  { Desc.none with gridx := 1, gridy := 1, gridz := 1, teamw := 32, groupw := 32, teams := 1, regs := 128, scratch := 4096 }

/-- A core and a partition that let the placed team issue. -/
def placedPart : Partition :=
  { Partition.reset with
    st := .active, pairs := 1, slices := 1, regions := ⟨true, 0, 1⟩ :: List.replicate 3 ⟨false, 0, 0⟩, asidCount := 1
    tenants := [⟨0, true, 1000000, 0⟩], holder := some 0 }

/-- Whether the current team is about to fetch an instruction, and where its bytes lie. -/
def State.fetchPlace (s : State) : Option Nat :=
  if s.agenda.isEmpty && s.issuing && s.cur.at_.left != 0 then
    match s.xlate s.cur.at_.pc .fetch 4, s.xlate (s.cur.at_.pc + 4) .fetch 4 with
    | (_, .ok a _), (_, .ok b _) => if b = a + 4 then some a else none
    | _, _ => none
  else none

/-- The machine with a team that issues next, its code on a page of slice 0 (log 12). -/
def State.withTeam (s : State) : State :=
  { s with
    agenda := []
    sel := true
    cur := { Team.start placedDesc [] 2 1 0 0 0 with at_ := ⟨0x1000, 1⟩ }
    blk := Block.start placedDesc 1 0 0 0 false
    teams := []
    blocks := []
    cores := s.cores.set 0 .reset
    piers := s.piers.set 0 .reset
    parts := s.parts.set 0 placedPart
    asids := s.asids.set 0 ⟨0, false, true⟩
    tlb := [⟨0, none, 0, 0, 30, slicePa 0 0, false, true, true, true, true, 0⟩] }

/-- An instruction's words stored where the next step fetches. -/
def State.placeWord (s : State) (w : Nat) : State :=
  match s.fetchPlace with
  | some a => (s.onCore s.cur.core fun k => { k with icache := [] }).store a (bytesOf 8 w)
  | none => s.withTeam.store (slicePa 0 0x1000) (bytesOf 8 w)

end Sys2Proof.Machine
end

