-- ==== Sys2Proof/Safety.lean ====
section
/-! DEFINITION. The terms in which claims are made: memory in canonical form, what an instruction needs in order to
pass the checks of its issue, results on their way to registers, what a team shows of its registers, and what one team's
instruction leaves alone. -/

namespace Sys2Proof.Machine

/-- The device's memory is in its canonical form. -/
abbrev State.Canonical (s : State) : Prop := Mem.wf s.mem = true

/-- An instruction under a guard, outside a predicted window, passes the checks of its issue (R93, R100, R113, R205, R211,
R240, R307), on the state in which the results due by now have landed (R103). -/
structure Issues (s : State) (i : Instr) (g : Guard) : Prop where
  noWindow : s.cur.window = none
  noReport : s.settle.cur.reportsFirst = false
  handler : (s.settle.cur.hmode && handlerForbids i) = false
  operands : badOperands s.settle.cur i = false
  legal : illegalUse s.settle.cur s.settle.now i = false
  scoreboard : scoreboardFault s.settle.cur i g s.settle.now = none
  intact : badRead s.settle.cur i g = false
  noRecord : (takingPoint i && !s.settle.cur.hmode && !s.settle.cur.recs.isEmpty) = false

/-- The same inside an open window that does not end before the instruction and replays nothing (R144, R146): what it holds
of results and destinations counts for the scoreboard (R93). -/
structure IssuesIn (s : State) (w : Window) (i : Instr) (g : Guard) : Prop where
  inWindow : s.cur.window = some w
  noReplay : w.redo = none
  goesOn : s.settle.cur.ends w i = false
  operands : badOperands s.settle.cur i = false
  legal : illegalUse s.settle.cur s.settle.now i = false
  scoreboard : scoreboardFault s.settle.cur.scored i g s.settle.now = none
  intact : badRead s.settle.cur i g = false

/-- No pass that the team makes reads an enabled FP trap or the significance check (R164, R177, R201). -/
def Untrapped (s : State) : Prop :=
  ∀ n, (s.settle.cur.view n).fpctl &&& 0x1F = 0 ∧ (s.settle.cur.view n).sbthr.getLsbD 31 = false

/-! ### Results on their way (R103) -/

/-- Cell `x` is due in lane `l` of v register `r`, at open cycle `n`; likewise a predicate, an s register, flags. -/
def PendsV (t : Team) (n r l : Nat) (x : VCell) : Prop := ∃ cs, (⟨n, .v r cs⟩ : FixWrite) ∈ t.fix ∧ (l, x) ∈ cs
def PendsP (t : Team) (n r l : Nat) (x : Bool) : Prop := ∃ cs, (⟨n, .p r cs⟩ : FixWrite) ∈ t.fix ∧ (l, x) ∈ cs
def PendsS (t : Team) (n r : Nat) (x : Word) : Prop := (⟨n, .s r x⟩ : FixWrite) ∈ t.fix
def PendsFlags (t : Team) (n : Nat) (f : Word) : Prop := ∃ f', (⟨n, .flags f'⟩ : FixWrite) ∈ t.fix ∧ f' &&& f = f

/-- A lane of an instruction's passes: word `w` runs in pass `k`, lane `l` is active in it and its guard selects it,
read as the pass reads it (R20, R103). -/
structure Runs (s : State) (i : Instr) (g : Guard) (w k l : Nat) : Prop where
  pass : (w, k) ∈ (passWords s.cur i g).zipIdx
  lane : l ∈ wordLanes s.cur.mask w
  guard : (s.cur.view (s.now + k * passCycles i)).guardOn g l = true

/-- The team as pass `k` of an instruction reads it. -/
def State.view (s : State) (i : Instr) (k : Nat) : Team := s.cur.view (s.now + k * passCycles i)

/-- Every running lane's results are due `lat` open cycles after its pass. -/
def LanesPend (s t : State) (i : Instr) (g : Guard) (lat : Nat) (f : Team → Nat → LaneRes) : Prop :=
  ∀ w k l, Runs s i g w k l →
    (∀ c ∈ (f (s.view i k) l).vs, PendsV t.cur (s.now + k * passCycles i + lat) c.1 l c.2)
      ∧ (∀ c ∈ (f (s.view i k) l).ps, PendsP t.cur (s.now + k * passCycles i + lat) c.1 l c.2)
      ∧ ((f (s.view i k) l).flags ≠ 0 → PendsFlags t.cur (s.now + k * passCycles i + lat) (f (s.view i k) l).flags)

/-- Every running lane's results stand among those that tag `tag` will write, with the flags it raises. -/
def LanesTagged (s t : State) (i : Instr) (g : Guard) (tag : Tag) (f : Team → Nat → LaneRes) : Prop :=
  ∃ ws, (⟨tagIndex tag, ws⟩ : TagWrite) ∈ t.cur.tagged ∧ ∀ w k l, Runs s i g w k l →
    (∀ c ∈ (f (s.view i k) l).vs, ∃ cs, RegWrite.v c.1 cs ∈ ws ∧ (l, c.2) ∈ cs)
      ∧ (∀ c ∈ (f (s.view i k) l).ps, ∃ cs, RegWrite.p c.1 cs ∈ ws ∧ (l, c.2) ∈ cs)
      ∧ ((f (s.view i k) l).flags ≠ 0 → ∃ x, RegWrite.flags x ∈ ws ∧ x &&& (f (s.view i k) l).flags = (f (s.view i k) l).flags)

/-! ### Frames -/

/-- Everything outside a team and its block, its core's counts and the choice to issue is as before. -/
structure OutsideKept (s t : State) : Prop where
  mem : t.mem = s.mem
  teams : t.teams = s.teams
  blocks : t.blocks = s.blocks
  saved : t.saved = s.saved
  launches : t.launches = s.launches
  piers : t.piers = s.piers
  funcs : t.funcs = s.funcs
  parts : t.parts = s.parts
  asids : t.asids = s.asids
  tlb : t.tlb = s.tlb
  holders : t.holders = s.holders
  invals : t.invals = s.invals
  invalHeld : t.invalHeld = s.invalHeld
  channel : t.channel = s.channel
  slices : t.slices = s.slices
  channels : t.channels = s.channels
  bankHolds : t.bankHolds = s.bankHolds
  recent : t.recent = s.recent
  frozen : t.frozen = s.frozen
  devno : t.devno = s.devno
  rows : t.rows = s.rows
  census : t.census = s.census
  fw : t.fw = s.fw
  clock : t.clock = s.clock
  agenda : t.agenda = s.agenda
  free : t.free = s.free

/-- A team's own registers are as before: v, s and p registers, counts, tiles, the special registers. -/
structure RegistersKept (a b : Team) : Prop where
  v : b.v = a.v
  s : b.s = a.s
  p : b.p = a.p
  tiles : b.tiles = a.tiles
  origin : b.origin = a.origin
  fpctl : b.fpctl = a.fpctl
  fpstat : b.fpstat = a.fpstat
  sbthr : b.sbthr = a.sbthr
  rndkey : b.rndkey = a.rndkey
  quant : b.quant = a.quant
  cpyerr : b.cpyerr = a.cpyerr
  trappc : b.trappc = a.trappc
  trapmask : b.trapmask = a.trapmask
  cause : b.cause = a.cause
  datum : b.datum = a.datum
  amask : b.amask = a.amask
  hmode : b.hmode = a.hmode
  recs : b.recs = a.recs
  stack : b.stack = a.stack
  mask : b.mask = a.mask
  ended : b.ended = a.ended
  bad : b.bad = a.bad

/-! ### Traps -/

/-- A team on which a trap is recorded and taken at once: outside a window, nothing to report, not in its handler, with no
record, and with a handler to enter (R144, R204 to R207, R307). -/
structure TrapsHere (s : State) : Prop where
  noWindow : s.cur.window = none
  noReport : s.settle.cur.reportsFirst = false
  user : s.settle.cur.hmode = false
  noRecord : s.settle.cur.recs = []
  handler : s.settle.cur.d.traph ≠ 0

/-- What a trap of every active lane leaves (R205, R207): the handler is entered with cause `c` and datum `d` at the place of
the instruction, nothing else of the team or outside it has changed. -/
structure TrappedAll (s t : State) (c : Nat) (d : Word) : Prop where
  hmode : t.cur.hmode = true
  amask : t.cur.amask = true
  saved : t.cur.savedAmask = s.settle.cur.amask
  cause : t.cur.cause = BitVec.ofNat 8 c
  datum : t.cur.datum = d
  trappc : t.cur.trappc = s.cur.at_.pc
  trapmask : t.cur.trapmask = s.settle.cur.mask
  mask : t.cur.mask = s.settle.cur.mask
  at_ : t.cur.at_ = ⟨s.settle.cur.d.traph, 0⟩
  stack : t.cur.stack = s.settle.cur.stack
  vregs : t.cur.v = s.settle.cur.v
  sregs : t.cur.s = s.settle.cur.s
  preds : t.cur.p = s.settle.cur.p
  fix : t.cur.fix = s.settle.cur.fix
  outside : OutsideKept s t

end Sys2Proof.Machine
end

