-- ==== Sys2Proof/WellFormed.lean ====
section
/-! DEFINITION. Which terms of `Instr` are instructions that words can say: the conditions of R101 (a uniform form
has no guard), R109 to R112 and R194 on the fields. A clause header (R94) and the events of the other agents are
no instruction words. -/

namespace Sys2Proof

/-- R101: the uniform form stands without a guard. -/
def uniformOk (u : Bool) (g : Guard) : Bool := !u || g == Guard.pt

/-- R109: a plain access has no scope, so its SCOPE code is 0. -/
def plainOk (o : MemOrd) (sc : Scope) : Bool := o != .plain || sc == .team

/-- R109: an atomic has an order, and ADD on FP32 is a 32-bit operation. -/
def atomicOk (o : MemOrd) (isFadd w64 : Bool) : Bool := o != .plain && (!isFadd || !w64)

/-- R110: only a floating-point sum has a rounding mode. -/
def reduceOk (op : GredOp) (rm : RM) : Bool := op == .fadd || rm == .rne

/-- The instructions that have words. -/
def wellFormed : Instr → Bool
  | .nopShort _ | .nopLong _ _ => true
  | .iaddShort _ _ | .isubShort _ _ | .imulShort _ _ | .iminShort _ _ | .imaxShort _ _ => true
  | .andShort _ _ | .orShort _ _ | .xorShort _ _ | .shlShort _ _ | .shrShort _ _ | .sarShort _ _ => true
  | .movShort _ _ _ _ | .faddShort _ _ | .fsubShort _ _ | .fmulShort _ _ => true
  | .iaddLong _ g _ _ u | .isubLong _ g _ _ u => uniformOk u g
  | .imulLong _ g _ u | .imad _ g _ _ u | .imulh _ g _ _ u | .iminLong _ g _ _ u | .imaxLong _ g _ _ u => uniformOk u g
  | .andLong _ g _ u | .orLong _ g _ u | .xorLong _ g _ u | .shlLong _ g _ u | .shrLong _ g _ u | .sarLong _ g _ u =>
    uniformOk u g
  | .popc _ g _ u | .clz _ g _ u | .brev _ g _ u | .bfx _ g _ _ u | .bfi _ g _ _ u | .rot _ g _ u => uniformOk u g
  | .notB _ g _ u | .iabs _ g _ u | .ineg _ g _ u => uniformOk u g
  | .movLong _ g _ _ _ u | .li _ g _ u _ | .iaddi _ g _ u _ | .lea _ g _ _ _ u => uniformOk u g
  | .iaddW _ g _ u | .isubW _ g _ u | .shlW _ g _ u | .shrW _ g _ u | .imulWl _ g _ _ u => uniformOk u g
  | .icvt _ g _ _ _ _ u => uniformOk u g
  | .icmp _ _ _ _ | .sel _ _ _ _ _ => true
  | .pand _ _ _ _ _ _ _ | .por _ _ _ _ _ _ _ | .pxor _ _ _ _ _ _ _ | .pnot _ _ _ _ _ | .pget _ _ _ | .pset _ _ _ => true
  | .rnd _ _ _ _ => true
  | .faddLong _ _ _ _ _ | .fsubLong _ _ _ _ _ | .fmulLong _ _ _ _ _ | .ffma _ _ _ _ _ _ => true
  | .fmin _ _ _ _ | .fmax _ _ _ _ | .fcmp _ _ _ _ | .fclass _ _ _ _ | .frnd _ _ _ _ _ | .ffrac _ _ _ _ _ => true
  | .frcp _ _ _ _ _ | .frsq _ _ _ _ _ | .fsqrt _ _ _ _ _ | .fexp2 _ _ _ _ _ | .flog2 _ _ _ _ _ => true
  | .fsin _ _ _ _ _ | .fcos _ _ _ _ _ => true
  | .dadd _ _ _ _ _ | .dmul _ _ _ _ _ | .dfma _ _ _ _ _ _ | .dmin _ _ _ _ | .dmax _ _ _ _ | .dcmp _ _ _ _ _ => true
  | .hadd2 _ _ _ _ | .hmul2 _ _ _ _ | .hfma2 _ _ _ _ _ | .hmin2 _ _ _ _ | .hmax2 _ _ _ _ => true
  | .f2i _ _ _ _ src _ => src.wide
  | .i2f _ _ _ _ _ dst => dst.wide
  | .f2f _ _ _ rm src dst => src.wide && src != dst && (dst.wide || rm == .rne)
  | .pack _ _ _ _ dst slot => !dst.wide && decide (slot.toNat < dst.slots)
  | .unpk _ _ _ src slot => !src.wide && decide (slot.toNat < src.slots)
  | .dp2 _ _ _ _ _ | .dp4 _ _ _ _ _ | .dp8 _ _ _ _ _ => true
  | .getsb _ _ _ | .setsb _ _ _ _ _ | .sbcmp _ _ _ _ => true
  | .shfl _ _ _ _ _ | .voteAll _ _ _ _ | .voteAny _ _ _ _ | .voteBallot _ _ _ _ | .voteEq _ _ _ _ => true
  | .gred _ _ _ _ op rm => reduceOk op rm
  | .gscan _ _ _ _ op _ rm => reduceOk op rm
  | .reorder _ _ _ => true
  | .ld _ _ _ _ _ o sc _ => o != .rel && o != .ar && plainOk o sc
  | .st _ _ _ _ _ _ o sc _ => o != .acq && o != .ar && plainOk o sc
  | .lds _ _ _ _ _ _ | .sts _ _ _ _ _ _ _ => true
  | .atom _ _ _ _ _ _ op w o _ _ => atomicOk o (op == .fadd) w
  | .cas _ _ _ _ _ _ _ _ fl o _ _ => o != .plain && fl.within o
  | .atoms _ _ _ _ _ _ op w o _ => atomicOk o (op == some .fadd) w
  | .fence _ o _ => o != .plain && o != .rlx
  | .mma _ _ _ _ _ _ _ _ _ | .mmas _ _ _ _ _ _ _ _ _ _ _ | .azero _ _ _ | .ald _ _ _ _ _ _ => true
  | .ast _ _ _ _ _ _ _ _ _ | .amov _ _ _ _ | .qtile _ _ _ _ _ _ _ => true
  | .copy _ _ _ _ _ _ | .waitc _ _ _ | .yieldC _ _ _ _ | .batch _ | .mark _ _ | .markW _ _ => true
  | .send _ _ _ b _ w => decide (w.toNat ≤ 8) && (w != 0 || b == 0)
  | .bra _ _ _ | .jmp _ _ | .call _ _ _ | .ret _ _ | .mjoin _ _ | .join _ | .exit _ _ => true
  | .barArr _ _ _ | .barWait _ _ | .barSync _ _ _ => true
  | .balBurn _ _ _ | .balShunt _ | .balHold _ _ => true
  | .trap _ _ _ | .rttRes _ | .rttSkip _ | .rttKill _ => true
  | .getsr _ _ _ _ _ | .setsr _ _ _ _ | .qend _ => true
  -- a header is no instruction, and an event has no words
  | .clauseHeader _ => false
  | .issueCycle _ _ | .greedyLimit _ _ | .starvationOverride _ _ | .resultWriteback _ | .taggedResultWrite _ _ => false
  | .scratchpadAccessComplete _ | .maskPredictionResolve _ | .blockEnd _ | .trapTake _ => false
  | .windowEnd | .t3Trip _ _ _ _ | .clampEnd _ | .boostEnd _ _ | .coolDownEnd _ _ | .burnExpire _ => false
  | .qtailWrite _ _ _ | .qcheadWrite _ _ _ | .qctlEnable _ _ | .qctlStop _ _ | .qctlReset _ _ => false
  | .queueResetComplete _ _ | .cmdNop _ _ | .cmdLaunch _ _ | .cmdWait _ _ | .cmdSignal _ _ => false
  | .launchComplete _ | .coalescingTimer _ _ | .idleFlush _ _ => false
  | .dispatch _ | .restore _ _ | .preempt _ _ | .cancel _ _ | .done _ _ | .killed _ | .saved _ => false
  | .blockPlace _ _ | .stealRequest _ _ | .stealAnswer _ _ | .stealBackoffEnd _ _ | .lowestClassRestore _ => false
  | .messageAccept _ | .handlerSpawn _ => false
  | .sliceEnd _ | .blockSave _ | .blockRestore _ _ | .watchdog _ | .energyLimit _ => false
  | .storeSend _ _ | .loadSend _ _ | .requestPerform _ _ | .storeAck _ _ | .loadResponse _ _ | .ackForward _ _ => false
  | .tableWalk _ _ _ | .prespRetry _ _ | .prespFail _ _ | .inval _ _ _ _ | .invalComplete _ | .asidctlWrite _ _ => false
  | .copyBeat _ | .copyComplete _ | .batchComplete _ | .setoutEntryStart _ _ | .setoutEntryComplete _ _ | .dmodeCommit _ => false
  | .pcmdEnable _ | .pcmdDrain _ | .pcmdReset _ | .pcmdRelease _ | .partitionDrained _ | .perrRead _ | .fltlostRead _ => false
  | .registerWrite _ _ _ | .devnoWrite _ | .ckctlGo _ _ | .checkpointDone | .hostApertureAccess _ _ _ _ | .censusRefresh => false
  | .flitReplay _ _ | .portRetrain _ _ | .portDown _ _ | .portUp _ _ _ | .authenticationFailure _ => false
  | .ashlarRequestArrival _ _ | .lockInterfaceRequest _ | .startInterfaceRequest _ | .stopInterfaceRequest _ => false
  | .getDeviceInterfaceReport _ | .spdmMeasurementRequest _ | .firmwareLoad _ => false
  | .rowActivationAlert _ _ _ | .bankHoldEnd _ _ | .rowRefresh _ _ _ | .scrub _ _ _ => false
  | .deviceReset _ | .keyExchange _ _ => false

end Sys2Proof
end

