-- ==== Sys2Proof/Certificates/Slice0/Obligations.lean ====
section
/-! DEFINITION. The statements for the provers. Each docstring names the rules of spec/ that a statement rests on; the
tables before them write out the rules' results again, beside the model's own definitions. -/

open Sys2Proof Sys2Proof.Machine

/-- The current team and its block are the ones that act. -/
abbrev Homed (s : State) : Prop := s.cur.st ≠ .vacant ∧ s.blk.live = true ∧ s.blk.bid = s.cur.bid

/-! ### Words (R4, R94 to R113) -/

/-- R97 to R112: decoding the words of a well-formed instruction, with anything after them, gives that instruction back:
no bit of an encoding is dropped. -/
def Obligations.DecodeGivesBackEncode : Prop :=
  ∀ (i : Instr) (rest : List Byte), wellFormed i = true →
    decode ((encode i).flatMap bytesOfWord ++ rest) = .ok (i, rest)

/-- R97 to R113: a word, or two, that the decoder accepts are the words of the instruction that it reads, and that
instruction is well-formed: every accepted bit pattern has one reading. R94, R96: a clause header with a count and a known engine
class, whose counter threshold is 0 without a counter, is read back from its word; a header word with COUNT 0, a wrong magic
nibble, bits 3 to 0 set or ENG 7 is refused. -/
def Obligations.EncodeGivesBackDecode : Prop :=
  (∀ (w0 w1 : Word) (i : Instr), decodeWords w0 w1 = .ok i →
     wellFormed i = true ∧ encode i = if w0.getLsbD 25 then [w0, w1] else [w0])
  ∧ ((∀ h : Header, h.count ≠ 0 → h.eng ≠ 7 → (h.ccls = none → h.cthr = 0) → decodeHeader (encodeHeader h) = some h)
     ∧ ∀ w : Word, (w.extractLsb' 28 4 = 0 ∨ w.extractLsb' 4 4 ≠ 0xB ∨ w.extractLsb' 0 4 ≠ 0 ∨ w.extractLsb' 25 3 = 7
         ∨ 4 ≤ (w.extractLsb' 16 3).toNat) → decodeHeader w = none)

/-- Words that the chapters read back field by field, each of another family: SETSR, GETSR, ATOM and LD (*Three words read
back*), WAITC, YIELD, MARK, COPY and SEND; and three words that are none. -/
def Obligations.SpecWordsDecode : Prop :=
  decodeWords 0xFE000001 0x12E00041 = .ok (.setsr 0 0 true .balctl)
    ∧ decodeWords 0xFE050000 0x10E00000 = .ok (.getsr 0 Guard.pt 10 false .lane)
    ∧ decodeWords 0xD207081A 0x00713880 = .ok (.atom 0 ⟨false, 3⟩ .sb3 14 8 13 .add false .rel .dev 0x80)
    ∧ decodeWords 0xC2010000 0x00E52880 = .ok (.ld 0 Guard.pt .sb0 ⟨2, 0⟩ .b32 .acq .dev 0x80)
    ∧ decodeWords 0xF6010100 0x00E00000 = .ok (.waitc 0 .mtx 1)
    ∧ decodeWords 0xF6008200 0x04E00006 = .ok (.yieldC 0 .cpy 2 6)
    ∧ decodeWords 0xF6000000 0x06E00002 = .ok (.mark 0 2)
    ∧ decodeWords 0xF200080D 0x14E00000 = .ok (.copy 0 8 6 10 false none)
    ∧ decodeWords 0xF6000310 0x0A200207 = .ok (.send 0 ⟨false, 1⟩ 3 8 7 2)
    ∧ decodeWords 0x94000000 0 = .error .reservedOpcode
    ∧ decodeWords 0xFC050000 0x10E00000 = .error .noShortForm
    ∧ decodeWords 0xFE050000 0x10E00011 = .error .reservedCode

/-! ### The step (R29, R30, R95, R113, R114) -/

/-- A step of a machine with nothing on its agenda and a team chosen to issue runs exactly what stands at the team's place: a
one-word instruction or a two-word instruction. A clause header is read by a team that has arrived at it (R29, R95), before any
team is chosen, where neither the team nor another agent has anything to do before. So does a team go on with an instruction whose
passes were charged before it waited (R36; log 99). The fetches have translated and read, and `s1`, `s2` are the machine after
them (they may have filled the TLB and the instruction cache). A team that issues the items of a window again (R146) fetches
nothing. -/
def Obligations.StepRunsFetched : Prop :=
  (∀ s s1 : State, ∀ w0 : Word, s.agenda = [] → s.issuing = true → s.cur.redoing = false → s.fetch s.cur.at_.pc = (s1, .ok w0) →
    s.cur.at_.left ≠ 0 →
      (∀ i, w0.getLsbD 25 = false → decode (bytesOfWord w0) = .ok (i, []) → step s = exec i s1)
      ∧ (∀ s2 w1 i, w0.getLsbD 25 = true → s1.fetch (s.cur.at_.pc + 4) = (s2, .ok w1) →
          decode (bytesOfWord w0 ++ bytesOfWord w1) = .ok (i, []) → step s = exec i s2))
  ∧ (∀ s s1 : State, ∀ w0 : Word, s.agenda = [] → s.issuing = false → s.ownEvent = none → s.firstChange s.deviceEvents = none →
    s.headerDue s.cur = true → Homed s → State.fetch { s with sel := false } s.cur.at_.pc = (s1, .ok w0) →
      step s = exec (.clauseHeader w0) s1)
  ∧ ∀ (s s1 : State) (i : Instr), s.agenda = [] → s.issuing = false → s.ownEvent = none → s.firstChange s.deviceEvents = none →
    s.silentDue s.cur = true → Homed s → State.fetchNext { s with sel := false } = (s1, .instr i) → step s = exec i s1

/-- The machine never stops: every step, in every state, answers a next state, and so does every instruction and every event
(a trap R204, a kill R219 and a freeze R220 are states). What the agenda names happens next, and is off the agenda then (log 1). -/
def Obligations.EveryStepGoesOn : Prop :=
  ((∀ s : State, ∃ t, step s = .next t) ∧ ∀ (i : Instr) (s : State), ∃ t, exec i s = .next t)
  ∧ (∀ (s : State) (e : Instr) (r : List Instr), s.agenda = e :: r → isEvent e = true → step s = exec e { s with agenda := r })

/-- The device's memory keeps its canonical form in every step, so that equal memories are equal data. -/
def Obligations.MemoryStaysCanonical : Prop := ∀ s t : State, s.Canonical → step s = .next t → t.Canonical

/-- R345: what a device reset leaves: no team or block, every function without a partition and its interface unlocked, every
partition unused with a drain budget of 1,000 µs, no translation, every leaf with its 8 command and 4 report credits, and
memory in canonical form with nothing listed: that package and host memory, of which no rule speaks, read 0 then is log 3, the model's
choice. The register values that no rule gives are log 2's, and no clause of this. -/
def Obligations.ResetState : Prop :=
  State.reset.Canonical ∧ State.reset.mem = [] ∧ State.reset.cur.st = .vacant ∧ State.reset.blk.live = false
    ∧ State.reset.teams = [] ∧ State.reset.blocks = [] ∧ State.reset.launches = [] ∧ State.reset.saved = []
    ∧ State.reset.tlb = [] ∧ State.reset.agenda = []
    ∧ (∀ f, f < 65 → (State.reset.func f).fpart = 0xFF ∧ (State.reset.func f).tdi = .unlocked)
    ∧ (∀ p, p < 16 → (State.reset.part p).st = .unused ∧ (State.reset.part p).drain = 1000)
    ∧ (∀ n, n < 48 → (State.reset.pier n).cmdPermits = 8 ∧ (State.reset.pier n).repPermits = 4)

/-- R113, R205, R207: a step that meets words that are no instruction of the tables traps every active lane with cause 0x01,
word 0 as the datum and the address of word 0 as TRAPPC; the record is taken at once, and the path waits empty-handed. R114,
R248, R249: words that cannot be fetched, for want of a mapping or of the permission, trap every active lane with cause 0x08 and
the low half of the address, where the fault is not recoverable; in a window the fetch ends the window and waits (R144). -/
def Obligations.IllegalWordsTrap : Prop :=
  (∀ (s s1 : State) (w : Word) (long : Bool), s.agenda = [] → s.issuing = true → s.cur.redoing = false →
    s.fetchNext = (s1, .illegal w long) → TrapsHere s1 →
      ∃ t, step s = .next t ∧ TrappedAll s1 t 0x01 w)
  ∧ (∀ (s s1 : State) (va : DWord) (r : XRes), s.agenda = [] → s.issuing = true → s.cur.redoing = false →
    s.fetchNext = (s1, .fault va r) → TrapsHere s1 →
    (r = .refused ∨ ∃ n, r = .fault n ∧ (s1.asid s1.cur.d.asid).recov = false) →
      ∃ t, step s = .next t ∧ TrappedAll s1 t 0x08 (va.extractLsb' 0 32))
  ∧ ∀ (s s1 : State) (va : DWord) (r : XRes) (w : Window), s.agenda = [] → s.issuing = false → s.ownEvent = none →
    s.firstChange s.deviceEvents = none → Homed s → s.cur.window = some w → (s.silentDue s.cur || s.headerDue s.cur) = true →
    State.fetchNext { s with sel := false } = (s1, .fault va r) → s1.cur.window = some w →
      ∃ t, step s = .next t ∧ t.cur.window = some { w with closed := true } ∧ t.cur.at_ = s1.cur.at_ ∧ t.cur.mask = s1.cur.mask
        ∧ t.cur.recs = s1.cur.recs ∧ t.cur.v = s1.cur.v ∧ OutsideKept s1 t

/-! ### Integer work (R115 to R130) -/

/-- R118's sums, clamped as MODE says. -/
def addSpec (m : AddMode) (a b : Word) : Word :=
  match m with
  | .wrap => a + b
  | .ss => BitVec.ofInt 32 (max (-2 ^ 31) (min (2 ^ 31 - 1) (a.toInt + b.toInt)))
  | .us => BitVec.ofNat 32 (min (2 ^ 32 - 1) (a.toNat + b.toNat))
def subSpec (m : AddMode) (a b : Word) : Word :=
  match m with
  | .wrap => a - b
  | .ss => BitVec.ofInt 32 (max (-2 ^ 31) (min (2 ^ 31 - 1) (a.toInt - b.toInt)))
  | .us => BitVec.ofNat 32 (a.toNat - b.toNat)

/-- R118: the high half of a product; the lesser and the greater. -/
def mulhSpec (uns : Bool) (a b : Word) : Word :=
  (if uns then a.zeroExtend 64 * b.zeroExtend 64 else a.signExtend 64 * b.signExtend 64).extractLsb' 32 32
def minSpec (uns : Bool) (a b : Word) : Word := if (if uns then a.ult b else a.slt b) then a else b
def maxSpec (uns : Bool) (a b : Word) : Word := if (if uns then a.ult b else a.slt b) then b else a

/-- R119. -/
def popcSpec (a : Word) : Word := BitVec.ofNat 32 ((List.range 32).countP a.getLsbD)
def clzSpec (a : Word) : Word := BitVec.ofNat 32 (((List.range 32).map fun k => a.getLsbD (31 - k)).takeWhile not).length
def bfxSpec (sgn : Bool) (a b : Word) : Word :=
  let pos := b.toNat % 32
  let len := min (b.toNat / 2 ^ 8 % 64) (32 - pos)
  let x := a.toNat / 2 ^ pos % 2 ^ len
  BitVec.ofInt 32 (if sgn && len != 0 && x.testBit (len - 1) then (x : Int) - 2 ^ len else x)
def bfiSpec (a b c : Word) : Word :=
  let pos := b.toNat % 32
  let len := min (b.toNat / 2 ^ 8 % 64) (32 - pos)
  BitVec.ofNat 32 (((List.range 32).filter fun k => if pos ≤ k ∧ k < pos + len then c.getLsbD (k - pos) else a.getLsbD k).map
    (2 ^ ·)).sum

/-- R120. -/
def icondSpec (cc : ICond) (a b : Word) : Bool :=
  match cc with
  | .eq => a == b
  | .ne => a != b
  | .lt => a.slt b
  | .le => a.sle b
  | .gt => b.slt a
  | .ge => b.sle a
  | .ltu => a.ult b
  | .leu => a.ule b
  | .gtu => b.ult a
  | .geu => b.ule a

/-- R125, R126. -/
def leaSpec (sx : Bool) (sh : Nat) (a : DWord) (b : Word) : DWord :=
  a + (if sx then b.signExtend 64 else b.zeroExtend 64) * BitVec.ofNat 64 (2 ^ sh)
def mulWSpec (uns : Bool) (a b : Word) : DWord :=
  if uns then a.zeroExtend 64 * b.zeroExtend 64 else a.signExtend 64 * b.signExtend 64

/-- The two-source operations of R118 and R119 whose operands and result are 32 bits. -/
def aluSpec : Instr → Option (Guard × Ops × Bool × (Word → Word → Word))
  | .iaddShort _ o => some (.pt, o, false, addSpec .wrap)
  | .iaddLong _ g o m u => some (g, o, u, addSpec m)
  | .isubShort _ o => some (.pt, o, false, subSpec .wrap)
  | .isubLong _ g o m u => some (g, o, u, subSpec m)
  | .imulShort _ o => some (.pt, o, false, fun a b => a * b)
  | .imulLong _ g o u => some (g, o, u, fun a b => a * b)
  | .imulh _ g o n u => some (g, o, u, mulhSpec n)
  | .iminShort _ o => some (.pt, o, false, minSpec false)
  | .iminLong _ g o n u => some (g, o, u, minSpec n)
  | .imaxShort _ o => some (.pt, o, false, maxSpec false)
  | .imaxLong _ g o n u => some (g, o, u, maxSpec n)
  | .andShort _ o => some (.pt, o, false, fun a b => a &&& b)
  | .andLong _ g o u => some (g, o, u, fun a b => a &&& b)
  | .orShort _ o => some (.pt, o, false, fun a b => a ||| b)
  | .orLong _ g o u => some (g, o, u, fun a b => a ||| b)
  | .xorShort _ o => some (.pt, o, false, fun a b => a ^^^ b)
  | .xorLong _ g o u => some (g, o, u, fun a b => a ^^^ b)
  | .shlShort _ o => some (.pt, o, false, fun a b => a <<< b.toNat)
  | .shlLong _ g o u => some (g, o, u, fun a b => a <<< b.toNat)
  | .shrShort _ o => some (.pt, o, false, fun a b => a >>> b.toNat)
  | .shrLong _ g o u => some (g, o, u, fun a b => a >>> b.toNat)
  | .sarShort _ o => some (.pt, o, false, fun a b => a.sshiftRight b.toNat)
  | .sarLong _ g o u => some (g, o, u, fun a b => a.sshiftRight b.toNat)
  | .bfx _ g o sgn u => some (g, o, u, bfxSpec sgn)
  | .rot _ g o u => some (g, o, u, fun a b => a.rotateLeft (b.toNat % 32))
  | _ => none

/-- Operations of one source (R119, R123). -/
def unarySpec : Instr → Option (Guard × OpsDA × Bool × (Word → Word))
  | .popc _ g o u => some (g, o, u, popcSpec)
  | .clz _ g o u => some (g, o, u, clzSpec)
  | .brev _ g o u => some (g, o, u, fun a => a.reverse)
  | .notB _ g o u => some (g, o, u, fun a => ~~~ a)
  | .iabs _ g o u => some (g, o, u, fun a => if a.msb then -a else a)
  | .ineg _ g o u => some (g, o, u, fun a => -a)
  | .iaddi _ g o u im => some (g, o, u, fun a => a + im)
  | _ => none

/-- Operations of three sources (R118, R119). -/
def ternarySpec : Instr → Option (Guard × Ops × Reg × Bool × (Word → Word → Word → Word))
  | .imad _ g o c u => some (g, o, c, u, fun a b c => a * b + c)
  | .bfi _ g o c u => some (g, o, c, u, bfiSpec)
  | _ => none

/-- What a lane of an integer instruction writes (R115 to R127): `t` is the team as the pass reads it. -/
def laneSpec (i : Instr) : Option (Guard × (Team → Nat → LaneRes)) :=
  match aluSpec i, unarySpec i, ternarySpec i with
  | some (g, o, false, f), _, _ => some (g, fun t l => resV o.d (f (t.rv o.a.toNat l).val (t.srcB o.bk o.b l)))
  | _, some (g, o, false, f), _ => some (g, fun t l => resV o.d (f (t.rv o.a.toNat l).val))
  | _, _, some (g, o, c, false, f) =>
    some (g, fun t l => resV o.d (f (t.rv o.a.toNat l).val (t.srcB o.bk o.b l) (t.rv c.toNat l).val))
  | _, _, _ =>
    match i with
    | .icmp _ g o cc => some (g, fun t l => resP o.d (icondSpec cc (t.rv o.a.toNat l).val (t.srcB o.bk o.b l)))
    | .movShort _ d b bk => some (.pt, fun t l => ⟨[(d.toNat, if bk then ⟨t.rs b.toNat, 63⟩ else t.rv b.toNat l)], [], 0, none⟩)
    | .movLong _ g d b bk false =>
      some (g, fun t l => ⟨[(d.toNat, if bk then ⟨t.rs b.toNat, 63⟩ else t.rv b.toNat l)], [], 0, none⟩)
    | .li _ g d false im => some (g, fun _ _ => resV d im)
    | .sel _ g o cp cn => some (g, fun t l => ⟨[(o.d.toNat, if t.rp cp.toNat l != cn then t.rv o.a.toNat l
        else if o.bk then ⟨t.rs o.b.toNat, 63⟩ else t.rv o.b.toNat l)], [], 0, none⟩)
    | .lea _ g o sh sx false => some (g, fun t l => resV64 o.d (leaSpec sx sh.toNat (t.rvPair o.a.toNat l) (t.srcB o.bk o.b l)))
    | .iaddW _ g o false => some (g, fun t l => resV64 o.d (t.rvPair o.a.toNat l + t.srcB64 o.bk o.b l))
    | .isubW _ g o false => some (g, fun t l => resV64 o.d (t.rvPair o.a.toNat l - t.srcB64 o.bk o.b l))
    | .shlW _ g o false => some (g, fun t l => resV64 o.d (t.rvPair o.a.toNat l <<< (t.srcB o.bk o.b l).toNat))
    | .shrW _ g o false => some (g, fun t l => resV64 o.d (t.rvPair o.a.toNat l >>> (t.srcB o.bk o.b l).toNat))
    | .imulWl _ g o n false => some (g, fun t l => resV64 o.d (mulWSpec n (t.rv o.a.toNat l).val (t.srcB o.bk o.b l)))
    | .pand _ g d a b na nb => some (g, fun t l => resP d ((t.rp a.toNat l ^^ na) && (t.rp b.toNat l ^^ nb)))
    | .por _ g d a b na nb => some (g, fun t l => resP d ((t.rp a.toNat l ^^ na) || (t.rp b.toNat l ^^ nb)))
    | .pxor _ g d a b na nb => some (g, fun t l => resP d ((t.rp a.toNat l ^^ na) ^^ (t.rp b.toNat l ^^ nb)))
    | .pnot _ g d a na => some (g, fun t l => resP d (! (t.rp a.toNat l ^^ na)))
    | .pget _ g d => some (g, fun t l => resV d (BitVec.ofNat 32 (((List.range 7).filter fun k => t.rp k l).map (2 ^ ·)).sum))
    | .pset _ g a => some (g, fun t l => ⟨[], (List.range 7).map fun k => (k, (t.rv a.toNat l).val.getLsbD k), 0, none⟩)
    | .icvt _ g o src dst sat false => some (g, fun t l =>
        let x := intRead src (if intWidth src = 64 then (t.rvPair o.a.toNat l).toNat else (t.rv o.a.toNat l).val.toNat)
        let y := if sat then max (intMin dst) (min (intMax dst) x) else x
        let d := BitVec.ofInt 64 (intRead dst (y % 2 ^ intWidth dst).toNat)
        if intWidth dst = 64 then resV64 o.d d else resV o.d (d.extractLsb' 0 32))
    | _ => none

/-- What the uniform form of an integer instruction writes (R101, R116): s registers with their values; a source in v
registers is that of the lowest active lane. -/
def uniformSpec (i : Instr) : Option (Team → List (Nat × Word)) :=
  let pair := fun (d : Reg) (x : DWord) => [(d.toNat, x.extractLsb' 0 32), (d.toNat + 1, x.extractLsb' 32 32)]
  let b := fun (t : Team) (o : Ops) => t.srcB o.bk o.b (lowestLane t.mask)
  match aluSpec i, unarySpec i, ternarySpec i with
  | some (_, o, true, f), _, _ => some fun t => [(o.d.toNat, f (t.rs o.a.toNat) (b t o))]
  | _, some (_, o, true, f), _ => some fun t => [(o.d.toNat, f (t.rs o.a.toNat))]
  | _, _, some (_, o, c, true, f) => some fun t => [(o.d.toNat, f (t.rs o.a.toNat) (b t o) (t.rs c.toNat))]
  | _, _, _ =>
    match i with
    | .movLong _ _ d r _ true => some fun t => [(d.toNat, t.rs r.toNat)]
    | .li _ _ d true im => some fun _ => [(d.toNat, im)]
    | .lea _ _ o sh sx true => some fun t => pair o.d (leaSpec sx sh.toNat (t.rsPair o.a.toNat) (b t o))
    | .iaddW _ _ o true => some fun t => pair o.d (t.rsPair o.a.toNat + t.srcB64 o.bk o.b (lowestLane t.mask))
    | .isubW _ _ o true => some fun t => pair o.d (t.rsPair o.a.toNat - t.srcB64 o.bk o.b (lowestLane t.mask))
    | .shlW _ _ o true => some fun t => pair o.d (t.rsPair o.a.toNat <<< (b t o).toNat)
    | .shrW _ _ o true => some fun t => pair o.d (t.rsPair o.a.toNat >>> (b t o).toNat)
    | .imulWl _ _ o n true => some fun t => pair o.d (mulWSpec n (t.rs o.a.toNat) (b t o))
    | .icvt _ _ o src dst sat true => some fun t =>
        let x := intRead src (if intWidth src = 64 then (t.rsPair o.a.toNat).toNat else (t.rs o.a.toNat).toNat)
        let y := if sat then max (intMin dst) (min (intMax dst) x) else x
        let d := BitVec.ofInt 64 (intRead dst (y % 2 ^ intWidth dst).toNat)
        if intWidth dst = 64 then pair o.d d else [(o.d.toNat, d.extractLsb' 0 32)]
    | _ => none

/-- R102, R103, R115 to R127: every integer instruction, in every form that works on lanes, completes on every state that lets
it issue; every lane that its guard selects has the rule's result due 4 cycles after its pass; the team goes on behind it. -/
def Obligations.IntegerLaneResults : Prop :=
  ∀ (s : State) (i : Instr) (g : Guard) (f : Team → Nat → LaneRes), laneSpec i = some (g, f) → Issues s i g →
    ∃ t, exec i s = .next t ∧ LanesPend s.settle t i g 4 f ∧ t.cur.at_ = nextPt s.settle.cur.at_ i
      ∧ RegistersKept s.settle.cur t.cur ∧ OutsideKept s t

/-- R120: ICMP writes each selected lane's condition to p_D, which is read from 4 cycles after the pass on, and not before. FN[3:0]
is the condition's code, signed or unsigned; a code of 10 to 15 and the uniform form trap with cause 0x01. -/
def Obligations.CompareWritesPredicate : Prop :=
  (∀ (s : State) (y : BitVec 3) (g : Guard) (o : Ops) (cc : ICond), Issues s (.icmp y g o cc) g →
    ∃ t, exec (.icmp y g o cc) s = .next t ∧ t.cur.at_ = nextPt s.settle.cur.at_ (.icmp y g o cc)
      ∧ RegistersKept s.settle.cur t.cur ∧ OutsideKept s t
      ∧ ∀ w k l, Runs s.settle (.icmp y g o cc) g w k l →
          let u := s.settle.view (.icmp y g o cc) k
          PendsP t.cur (s.now + k + 4) o.d.toNat l (icondSpec cc (u.rv o.a.toNat l).val (u.srcB o.bk o.b l)))
  ∧ (∀ (t : Team) (n m r l : Nat) (x : Bool), t.fix = [⟨n, .p r [(l, x)]⟩] → t.spad = [] → r < 7 → r < t.p.length → l < 1024 →
    (n ≤ m → (t.landed m).rp r l = x) ∧ (m < n → (t.landed m).rp r l = t.rp r l))
  ∧ (∀ (w0 w1 : Word) (y : BitVec 3) (g : Guard) (o : Ops) (cc : ICond), decodeWords w0 w1 = .ok (.icmp y g o cc) →
    [ICond.eq, .ne, .lt, .le, .gt, .ge, .ltu, .leu, .gtu, .geu][(w1.extractLsb' 0 4).toNat]? = some cc)
  ∧ ∀ (s s1 s2 : State) (w0 w1 : Word), s.agenda = [] → s.issuing = true → s.cur.at_.left ≠ 0 →
    s.fetch s.cur.at_.pc = (s1, .ok w0) → s1.fetch (s.cur.at_.pc + 4) = (s2, .ok w1) → w0.extractLsb' 26 6 = 0x0F →
    w0.getLsbD 25 = true → (10 ≤ (w1.extractLsb' 0 4).toNat ∨ w1.getLsbD 17 = true) → s.cur.redoing = false → TrapsHere s2 →
      ∃ t, step s = .next t ∧ TrappedAll s2 t 0x01 w0 ∧ t.cur.trappc = s.cur.at_.pc

/-- R101, R116: every uniform form completes, with the rule's result due in the s register, or pair, 4 cycles on. -/
def Obligations.UniformResults : Prop :=
  ∀ (s : State) (i : Instr) (f : Team → List (Nat × Word)), uniformSpec i = some f → Issues s i Guard.pt →
    ∃ t, exec i s = .next t ∧ (∀ x ∈ f (s.settle.cur.view s.now), PendsS t.cur (s.now + 4) x.1 x.2)
      ∧ t.cur.at_ = nextPt s.settle.cur.at_ i ∧ RegistersKept s.settle.cur t.cur ∧ OutsideKept s t

/-- R128, R129: RND writes each selected lane the hash of the key, the draw index and the lane's global index, 6 cycles on, and
the draw index goes up by one, whatever the guard selects. R108, R38: NOP takes time and changes nothing else; that its long form
carries any guard is log 24, the model's choice. That QEND, which R112 encodes and to which no rule gives an effect, takes its time
and changes nothing else is log 18, the model's choice. -/
def Obligations.RndAndNop : Prop :=
  (∀ (s : State) (y : BitVec 3) (g : Guard) (d : Reg) (key : Option Reg), Issues s (.rnd y g d key) g →
     ∃ t, exec (.rnd y g d key) s = .next t ∧ t.cur.draw = s.settle.cur.draw + 1
       ∧ LanesPend s.settle t (.rnd y g d key) g 6 (fun u l => resV d (rndHash
           (match key with
            | some a => u.rsPair a.toNat
            | none => u.rndkey) u.draw (s.settle.globalLane u l)))
       ∧ t.cur.at_ = nextPt s.settle.cur.at_ (.rnd y g d key) ∧ RegistersKept s.settle.cur t.cur ∧ OutsideKept s t)
  ∧ (∀ (s : State) (i : Instr) (g : Guard),
     ((∃ y, i = .nopShort y ∧ g = Guard.pt) ∨ (∃ y, i = .nopLong y g) ∨ (∃ y, i = .qend y ∧ g = Guard.pt)) → Issues s i g →
       ∃ t, exec i s = .next t ∧ t.cur.at_ = nextPt s.settle.cur.at_ i ∧ t.cur.fix = s.settle.cur.fix
         ∧ RegistersKept s.settle.cur t.cur ∧ OutsideKept s t)

/-- R103: a result lands at its cycle: a team with one result for a lane of a v register, and no other for that register, reads
that cell from its cycle on, and its old one before. A newer result for a register that would land before an older one discards
the older one's lanes. After RESULT_WRITEBACK nothing that is due waits, and the registers are as the team's view gives them. R92:
a scratchpad instruction's result and another one for the same cell are written in the order of their cycles, the scratchpad's last
where the cycles agree; when a tagged instruction's results are written, its registers hold them and its tag is clear, unless
something else of that tag is still to come. R175: flags that land are added to FPSTAT; an s register that lands has its value. -/
def Obligations.ResultsLandInTime : Prop :=
  (∀ (t : Team) (n m r l : Nat) (x : VCell), t.fix = [⟨n, .v r [(l, x)]⟩] → t.spad = [] → r < t.v.length → l < (t.v.getD r []).length →
    (n ≤ m → (t.landed m).rv r l = x ∧ (t.landed m).fix = []) ∧ (m < n → (t.landed m).rv r l = t.rv r l)
      ∧ ∀ r' l', (r', l') ≠ (r, l) → (t.landed m).rv r' l' = t.rv r' l')
  ∧ (∀ (fx : List FixWrite) (n m r l : Nat) (x y : VCell), (⟨m, .v r [(l, y)]⟩ : FixWrite) ∈ fx → n < m →
    (∀ e ∈ fx, e = ⟨m, .v r [(l, y)]⟩ ∨ e.w.without (.v r [(l, x)]) = some e.w) →
      (⟨n, .v r [(l, x)]⟩ : FixWrite) ∈ addFix fx ⟨n, .v r [(l, x)]⟩
        ∧ ∀ cs, (⟨m, .v r cs⟩ : FixWrite) ∈ addFix fx ⟨n, .v r [(l, x)]⟩ → ∀ z, (l, z) ∉ cs)
  ∧ (∀ s : State, Homed s →
    ∃ t, exec (.resultWriteback s.cur.uid) s = .next t ∧ t.cur = s.cur.landed (s.landAt s.cur.core)
      ∧ (∀ e ∈ t.cur.fix, s.landAt s.cur.core < e.due) ∧ t.mem = s.mem ∧ t.teams = s.teams)
  ∧ (∀ (t : Team) (n k m r l tag ins : Nat) (x y : VCell) (ord : MemOrd) (st : Bool), t.fix = [⟨n, .v r [(l, x)]⟩] →
    t.spad = [⟨tag, ins, k, ord, st, [.v r [(l, y)]]⟩] → r < t.v.length → l < (t.v.getD r []).length → n ≤ m → k ≤ m →
      (t.landed m).rv r l = if n ≤ k then y else x)
  ∧ (∀ (s : State) (tag : Tag) (ws : List RegWrite), Homed s →
    s.settle.cur.tagged = [⟨tagIndex tag, ws⟩] → s.settle.cur.accesses = [] → s.settle.cur.waiting = [] →
    s.settle.cur.held = [] → s.settle.cur.spad = [] → s.settle.cur.dheld = [] →
      ∃ t, exec (.taggedResultWrite s.cur.uid tag) s = .next t ∧ t.cur.tags.getLsbD (tagIndex tag) = false
        ∧ t.cur.tagged = [] ∧ t.cur.v = (s.settle.cur.putAll ws).v ∧ t.cur.p = (s.settle.cur.putAll ws).p ∧ t.mem = s.mem)
  ∧ ∀ (t : Team) (n m r : Nat) (x f : Word),
      (t.fix = [⟨n, .flags f⟩] → t.spad = [] → (t.landed m).fpstat = (if n ≤ m then t.fpstat ||| f else t.fpstat) ∧ (t.landed m).v = t.v)
      ∧ (t.fix = [⟨n, .s r x⟩] → t.spad = [] → r < t.s.length → (t.landed m).s = (if n ≤ m then t.s.set r x else t.s) ∧ (t.landed m).v = t.v)

/-! ### Floating point (R161 to R202) -/

/-- Results where no trap is enabled (R184): a 32-bit result with its count and flags, a 64-bit one with the count on the even
register, an untracked one, and a comparison. -/
def fp32Spec (d : Reg) (r : Res) : LaneRes := ⟨[(d.toNat, ⟨BitVec.ofNat 32 r.x, r.cnt⟩)], [], r.flags, none⟩
def fp64Spec (d : Reg) (r : Res) : LaneRes :=
  ⟨[(d.toNat, ⟨BitVec.ofNat 32 r.x, r.cnt⟩), (d.toNat + 1, ⟨BitVec.ofNat 32 (r.x / 2 ^ 32), 63⟩)], [], r.flags, none⟩
def rawSpec (d : Reg) (x : Nat) (flags : Word) : LaneRes := ⟨[(d.toNat, ⟨BitVec.ofNat 32 x, 63⟩)], [], flags, none⟩
def cmpSpec (d : Reg) (x : Bool × Word) : LaneRes := ⟨[], [(d.toNat, x.1)], x.2, none⟩

/-- Both elements of a packed instruction (R193): halves of the registers worked out separately. -/
def packedSpec (d : Reg) (f : Nat → Nat → Nat → Res) (a b : Nat) : LaneRes :=
  let lo := f 0 (a % 2 ^ 16) (b % 2 ^ 16)
  let hi := f 1 (a / 2 ^ 16 % 2 ^ 16) (b / 2 ^ 16 % 2 ^ 16)
  rawSpec d (lo.x + hi.x * 2 ^ 16) (lo.flags ||| hi.flags)

/-- The result, latency and lanes of each floating-point instruction of fixed latency (R102, R185 to R200). -/
def floatSpec : Instr → Option (Guard × Nat × (Team → Nat → LaneRes))
  | .faddShort _ o => some (.pt, 5, fun t l => fp32Spec o.d (fmt32.addRes .rne false (t.fa false o.a l) (t.fb false o l)))
  | .faddLong _ g o rm z => some (g, 5, fun t l => fp32Spec o.d (fmt32.addRes rm z (t.fa z o.a l) (t.fb z o l)))
  | .fsubShort _ o => some (.pt, 5, fun t l => fp32Spec o.d (fmt32.addRes .rne false (t.fa false o.a l) (t.fb false o l).neg))
  | .fsubLong _ g o rm z => some (g, 5, fun t l => fp32Spec o.d (fmt32.addRes rm z (t.fa z o.a l) (t.fb z o l).neg))
  | .fmulShort _ o => some (.pt, 5, fun t l => fp32Spec o.d (fmt32.mulRes .rne false (t.fa false o.a l) (t.fb false o l)))
  | .fmulLong _ g o rm z => some (g, 5, fun t l => fp32Spec o.d (fmt32.mulRes rm z (t.fa z o.a l) (t.fb z o l)))
  | .ffma _ g o c rm z => some (g, 5, fun t l => fp32Spec o.d (fmt32.fmaRes rm z (t.fa z o.a l) (t.fb z o l) (t.fa z c l)))
  | .fmin _ g o z => some (g, 5, fun t l => fp32Spec o.d (fmt32.minmaxRes false (t.fa z o.a l) (t.fb z o l)))
  | .fmax _ g o z => some (g, 5, fun t l => fp32Spec o.d (fmt32.minmaxRes true (t.fa z o.a l) (t.fb z o l)))
  | .fcmp _ g o cc => some (g, 5, fun t l => cmpSpec o.d (fcondVal cc (t.fa false o.a l).val (t.fb false o l).val))
  | .fclass _ g o set => some (g, 5, fun t l => cmpSpec o.d (set.getLsbD (classBit fmt32 (t.fa false o.a l).val), 0))
  | .frnd _ g o rm z => some (g, 5, fun t l => fp32Spec o.d (frndRes rm (t.fa z o.a l)))
  | .ffrac _ g o rm z => some (g, 5, fun t l => fp32Spec o.d (ffracRes rm (t.fa z o.a l)))
  | .dadd _ g o rm z => some (g, 10, fun t l => fp64Spec o.d (fmt64.addRes rm z (t.da z o.a l) (t.db z o l)))
  | .dmul _ g o rm z => some (g, 10, fun t l => fp64Spec o.d (fmt64.mulRes rm z (t.da z o.a l) (t.db z o l)))
  | .dfma _ g o c rm z => some (g, 10, fun t l => fp64Spec o.d (fmt64.fmaRes rm z (t.da z o.a l) (t.db z o l) (t.da z c l)))
  | .dmin _ g o z => some (g, 10, fun t l => fp64Spec o.d (fmt64.minmaxRes false (t.da z o.a l) (t.db z o l)))
  | .dmax _ g o z => some (g, 10, fun t l => fp64Spec o.d (fmt64.minmaxRes true (t.da z o.a l) (t.db z o l)))
  | .dcmp _ g o cc z => some (g, 10, fun t l => cmpSpec o.d (fcondVal cc (t.da z o.a l).val (t.db z o l).val))
  | .hadd2 _ g o bf => some (g, 5, fun t l => packedSpec o.d (fun _ x y =>
      (halfFmt bf).addRes .rne false ((halfFmt bf).elem x) ((halfFmt bf).elem y)) (t.rv o.a.toNat l).val.toNat (t.srcB o.bk o.b l).toNat)
  | .hmul2 _ g o bf => some (g, 5, fun t l => packedSpec o.d (fun _ x y =>
      (halfFmt bf).mulRes .rne false ((halfFmt bf).elem x) ((halfFmt bf).elem y)) (t.rv o.a.toNat l).val.toNat (t.srcB o.bk o.b l).toNat)
  | .hfma2 _ g o c bf => some (g, 5, fun t l => packedSpec o.d (fun k x y =>
      (halfFmt bf).fmaRes .rne false ((halfFmt bf).elem x) ((halfFmt bf).elem y)
        ((halfFmt bf).elem ((t.rv c.toNat l).val.toNat / 2 ^ (16 * k) % 2 ^ 16)))
      (t.rv o.a.toNat l).val.toNat (t.srcB o.bk o.b l).toNat)
  | .hmin2 _ g o bf => some (g, 5, fun t l => packedSpec o.d (fun _ x y =>
      (halfFmt bf).minmaxRes false ((halfFmt bf).elem x) ((halfFmt bf).elem y)) (t.rv o.a.toNat l).val.toNat (t.srcB o.bk o.b l).toNat)
  | .hmax2 _ g o bf => some (g, 5, fun t l => packedSpec o.d (fun _ x y =>
      (halfFmt bf).minmaxRes true ((halfFmt bf).elem x) ((halfFmt bf).elem y)) (t.rv o.a.toNat l).val.toNat (t.srcB o.bk o.b l).toNat)
  | .f2i _ g o rm src dst => some (g, if src = .fp64 ∨ intWidth dst = 64 then 10 else 5, fun t l =>
      let y := roundInt rm (intMin dst) (intMax dst) (t.cvtSrc src o.a l).val
      let x := intHold dst y.1
      ⟨if intWidth dst = 64 then [(o.d.toNat, ⟨x.extractLsb' 0 32, 63⟩), (o.d.toNat + 1, ⟨x.extractLsb' 32 32, 63⟩)]
        else [(o.d.toNat, ⟨x.extractLsb' 0 32, 63⟩)], [], y.2, none⟩)
  | .i2f _ g o rm src dst => some (g, if dst = .fp64 ∨ intWidth src = 64 then 10 else 5, fun t l =>
      let y := (FTy.fmt dst).round rm false (FVal.ofInt (intRead src (t.intSrc src false o.a l)))
      (if dst = .fp64 then fp64Spec else fp32Spec) o.d ⟨y.1, BitVec.ofNat 6 (FTy.fmt dst).prec, y.2⟩)
  | .f2f _ g o rm src dst => some (g, if src = .fp64 ∨ dst = .fp64 then 10 else 5, fun t l =>
      let y := convert (FTy.fmt dst) rm (t.cvtSrc src o.a l).val
      let r : Res := ⟨y.1, convCount (FTy.fmt dst) (t.cvtSrc src o.a l) ((FTy.fmt dst).decode y.1), y.2⟩
      if dst = .fp64 then fp64Spec o.d r else if dst = .fp32 then fp32Spec o.d r else rawSpec o.d y.1 y.2)
  | .pack _ g o c dst slot => some (g, 5, fun t l =>
      let w := (FTy.fmt dst).width
      let y := convert (FTy.fmt dst) .rne (t.fa false o.a l).val
      let old := (t.rv c.toNat l).val.toNat
      rawSpec o.d (old - old / 2 ^ (w * slot.toNat) % 2 ^ w * 2 ^ (w * slot.toNat) + y.1 * 2 ^ (w * slot.toNat)) y.2)
  | .unpk _ g o src slot => some (g, 5, fun t l =>
      let f := FTy.fmt src
      let y := convert fmt32 .rne (f.decode ((t.rv o.a.toNat l).val.toNat / 2 ^ (f.width * slot.toNat) % 2 ^ f.width))
      fp32Spec o.d ⟨y.1, overrideCount fmt32 (fmt32.decode y.1) (some f.prec) f.prec, y.2⟩)
  | .dp2 _ g o c bf => some (g, 6, fun t l =>
      fp32Spec o.d (dotRes (halfFmt bf) 16 (t.rv o.a.toNat l).val.toNat (t.srcB o.bk o.b l).toNat (t.fa false c l)))
  | .dp4 _ g o c ty => some (g, 6, fun t l =>
      let a := (t.rv o.a.toNat l).val.toNat
      let b := (t.srcB o.bk o.b l).toNat
      match ty with
      | .int8 => resV o.d (dotInt .int8 a b (t.rv c.toNat l).val)
      | .uint8 => resV o.d (dotInt .uint8 a b (t.rv c.toNat l).val)
      | .f8a => fp32Spec o.d (dotRes fmtF8a 8 a b (t.fa false c l))
      | .f8b => fp32Spec o.d (dotRes fmtF8b 8 a b (t.fa false c l)))
  | .dp8 _ g o c f4 => some (g, 6, fun t l =>
      let a := (t.rv o.a.toNat l).val.toNat
      let b := (t.srcB o.bk o.b l).toNat
      if f4 then fp32Spec o.d (dotRes fmtF4 4 a b (t.fa false c l)) else resV o.d (dotInt .int4 a b (t.rv c.toNat l).val))
  | .getsb _ g o => some (g, 4, fun t l => resV o.d ((t.rv o.a.toNat l).cnt.zeroExtend 32))
  | .sbcmp _ g o cc => some (g, 4, fun t l =>
      let b := if o.bk then (t.rs o.b.toNat).toNat else (t.rv o.b.toNat l).cnt.toNat
      cmpSpec o.d (scondVal cc (t.rv o.a.toNat l).cnt.toNat b, 0))
  | _ => none

/-- The participants of a lane's group: active and selected by the guard (R155). -/
def participants (t : Team) (g : Guard) (l : Nat) : List Nat :=
  ((List.range t.d.groupw).map (l / t.d.groupw * t.d.groupw + ·)).filter fun k => t.mask.getLsbD k && t.guardOn g k

/-- The position in the group that SHFL reads: none outside the group (R156). -/
def shflSpec (m : ShflMode) (w i b : Nat) : Option Nat :=
  match m with
  | .idx => if b < w then some b else none
  | .up => if b ≤ i then some (i - b) else none
  | .down => if i + b < w then some (i + b) else none
  | .xor => if Nat.xor i b < w then some (Nat.xor i b) else none

/-- What each lane of a tagged instruction worked out in the core writes (R156, R157, R190). -/
def taggedSpec : Instr → Option (Guard × Tag × (Team → Nat → LaneRes))
  | .frcp _ g tag o z => some (g, tag, fun t l => fp32Spec o.d (sfuRes .rcp z (t.fa z o.a l)))
  | .frsq _ g tag o z => some (g, tag, fun t l => fp32Spec o.d (sfuRes .rsq z (t.fa z o.a l)))
  | .fsqrt _ g tag o z => some (g, tag, fun t l => fp32Spec o.d (sfuRes .sqrt z (t.fa z o.a l)))
  | .fexp2 _ g tag o z => some (g, tag, fun t l => fp32Spec o.d (sfuRes .exp2 z (t.fa z o.a l)))
  | .flog2 _ g tag o z => some (g, tag, fun t l => fp32Spec o.d (sfuRes .log2 z (t.fa z o.a l)))
  | .fsin _ g tag o z => some (g, tag, fun t l => fp32Spec o.d (sfuRes .sin z (t.fa z o.a l)))
  | .fcos _ g tag o z => some (g, tag, fun t l => fp32Spec o.d (sfuRes .cos z (t.fa z o.a l)))
  | .shfl _ g tag o m => some (g, tag, fun t l =>
      let w := t.d.groupw
      let j := match shflSpec m w (l - l / w * w) (t.srcB o.bk o.b l).toNat with
        | some j => if t.mask.getLsbD (l / w * w + j) then l / w * w + j else l
        | none => l
      ⟨[(o.d.toNat, t.rv o.a.toNat j)], [], 0, none⟩)
  | .voteAll _ g tag o => some (g, tag, fun t l => resP o.d ((participants t g l).all fun k => t.rp o.a.toNat k))
  | .voteAny _ g tag o => some (g, tag, fun t l => resP o.d ((participants t g l).any fun k => t.rp o.a.toNat k))
  | .voteEq _ g tag o => some (g, tag, fun t l =>
      resP o.d ((participants t g l).all fun k => (t.rv o.a.toNat k).val == (t.rv o.a.toNat l).val))
  | .voteBallot _ g tag o => some (g, tag, fun t l =>
      let x := (((participants t g l).filter fun k => t.rp o.a.toNat k).map fun k => 2 ^ (k - l / t.d.groupw * t.d.groupw)).sum
      if t.d.groupw = 64 then resV64 o.d (BitVec.ofNat 64 x) else resV o.d (BitVec.ofNat 32 x))
  | .gred _ g tag o op rm => some (g, tag, fun t l =>
      let r := gredTree op rm ((List.range t.d.groupw).map fun i =>
        if l / t.d.groupw * t.d.groupw + i ∈ participants t g l
        then some (gredOperand op (t.rv o.a.toNat (l / t.d.groupw * t.d.groupw + i))) else none)
      ⟨[(o.d.toNat, r.1)], [], r.2, none⟩)
  | .gscan _ g tag o op excl rm => some (g, tag, fun t l =>
      let b := l / t.d.groupw * t.d.groupw
      let r := gredTree op rm ((List.range t.d.groupw).map fun i =>
        if b + i ∈ participants t g l ∧ (if excl then b + i < l else b + i ≤ l)
        then some (gredOperand op (t.rv o.a.toNat (b + i))) else none)
      ⟨[(o.d.toNat, r.1)], [], r.2, none⟩)
  | _ => none

/-- The special functions, whose traps are those of this chapter; the other tagged instructions above take none (R158, R177). -/
def sfuForm : Instr → Bool
  | .frcp .. | .frsq .. | .fsqrt .. | .fexp2 .. | .flog2 .. | .fsin .. | .fcos .. => true
  | _ => false

/-- What a lane of a floating-point instruction writes where it takes no trap: with fixed latency, or behind a tag. -/
def fpSpec (i : Instr) : Option (Guard × Option Nat × (Team → Nat → LaneRes)) :=
  match floatSpec i with
  | some (g, lat, f) => some (g, some lat, f)
  | none => if sfuForm i then (taggedSpec i).map fun x => (x.1, none, x.2.2) else none

/-- R177: the cause of the lowest raised flag that FPCTL enables. -/
def causeSpec (fpctl flags : Word) : Option Nat :=
  ((List.range 5).find? fun k => fpctl.getLsbD k && flags.getLsbD k).map (0x0A + ·)

/-- R202: the instructions whose results the significance check reads. -/
def checkedSpec : Instr → Bool
  | .faddShort .. | .faddLong .. | .fsubShort .. | .fsubLong .. | .fmulShort .. | .fmulLong .. | .ffma .. | .fmin .. | .fmax ..
  | .frnd .. | .ffrac .. | .unpk .. | .dp2 .. => true
  | .i2f _ _ _ _ _ dst | .f2f _ _ _ _ _ dst => dst == .fp32
  | .dp4 _ _ _ _ ty => match ty with
    | .f8a | .f8b => true
    | .int8 | .uint8 => false
  | .dp8 _ _ _ _ f4 => f4
  | i => sfuForm i

/-- R102, R103, R184 to R200: on a team with no FP trap enabled and no significance check, every floating-point instruction of
fixed latency completes in every state that lets it issue: each selected lane's result, with its count, and the flags it
raises are due at the rule's latency after its pass. -/
def Obligations.FloatLaneResults : Prop :=
  ∀ (s : State) (i : Instr) (g : Guard) (lat : Nat) (f : Team → Nat → LaneRes), floatSpec i = some (g, lat, f) →
    Issues s i g → Untrapped s →
      ∃ t, exec i s = .next t ∧ LanesPend s.settle t i g lat f ∧ t.cur.at_ = nextPt s.settle.cur.at_ i
        ∧ RegistersKept s.settle.cur t.cur ∧ OutsideKept s t

/-- R199: SETSB writes the count of v_D, 63 for a request of 63 or more, 53 for one of 54 to 62, and leaves the value alone; its A
and C fields are zero; with the checking scoreboard on it counts as a write of v_D. When the count lands, the lane keeps the
value of its register and has the new count; before that it has the old one. -/
def Obligations.SetsbWritesCounts : Prop :=
  (∀ (s : State) (y : BitVec 3) (g : Guard) (d b : Reg) (bk : Bool), let i := Instr.setsb y g d b bk
    Issues s i g →
      ∃ t, exec i s = .next t ∧ RegistersKept s.settle.cur t.cur ∧ OutsideKept s t ∧ t.cur.named.contains d.toNat = true
        ∧ ∀ w k l, Runs s.settle i g w k l →
            let n := ((s.settle.view i k).srcB bk b l).toNat
            ∃ cs, (⟨s.now + k + 4, .c d.toNat cs⟩ : FixWrite) ∈ t.cur.fix
              ∧ (l, if 63 ≤ n then 63 else if 54 ≤ n then 53 else BitVec.ofNat 6 n) ∈ cs)
  ∧ (∀ (w0 w1 : Word) (y : BitVec 3) (g : Guard) (d b : Reg) (bk : Bool), decodeWords w0 w1 = .ok (.setsb y g d b bk) →
      w0.extractLsb' 8 7 = 0 ∧ w1.extractLsb' 25 7 = 0)
  ∧ ∀ (t : Team) (n m r l : Nat) (x : BitVec 6), t.fix = [⟨n, .c r [(l, x)]⟩] → t.spad = [] → r < t.v.length → l < (t.v.getD r []).length →
      (n ≤ m → (t.landed m).rv r l = ⟨(t.rv r l).val, x⟩ ∧ (t.landed m).fix = []) ∧ (m < n → (t.landed m).rv r l = t.rv r l)
        ∧ ∀ r' l', (r', l') ≠ (r, l) → (t.landed m).rv r' l' = t.rv r' l'

/-- One lane of an instruction is recorded and leaves the path (R163, R177, R204): its result is not written, no flag of it is
raised, and the other lanes go on. -/
def LaneRecorded (s : State) (i : Instr) (l c : Nat) (d : Word) : Prop :=
  ∃ t, exec i s = .next t ∧ t.cur.mask = s.settle.cur.mask &&& ~~~ laneBit l ∧ t.cur.v = s.settle.cur.v
    ∧ t.cur.fix = s.settle.cur.fix ∧ (∀ x ∈ t.cur.tagged, x ∈ s.settle.cur.tagged ∨ x.ws = [])
    ∧ t.cur.fpstat = s.settle.cur.fpstat ∧ t.cur.at_ = nextPt s.settle.cur.at_ i
    ∧ t.cur.recs = [⟨s.settle.cur.at_, nextPt s.settle.cur.at_ i, c, d, laneBit l⟩]

/-- A lane's cells are on their way: due `lat` cycles after the pass, or behind the tag. -/
def LaneComes (s t : State) (lat : Option Nat) (l : Nat) (r : LaneRes) : Prop :=
  match lat with
  | some n => ∀ c ∈ r.vs, PendsV t.cur (s.now + n) c.1 l c.2
  | none => ∃ x ∈ t.cur.tagged, ∀ c ∈ r.vs, ∃ cs, RegWrite.v c.1 cs ∈ x.ws ∧ (l, c.2) ∈ cs

/-- R163, R164, R177, R184, R190, R201, R202, of every floating-point instruction and special function on one lane: if it raises a
flag that FPCTL enables, the lane is recorded with the cause of the lowest such flag, and with its register and flags; else, if its
result is one that the significance check reads, SBTHR is on and the result's count is below θ, with cause 0x09, and with its
register, θ and count; else its result comes and no lane is recorded. A recorded lane writes nothing and raises no flag, and the
others go on. Comparisons, whose result is a predicate, trap on no flag. -/
def Obligations.EnabledFlagTraps : Prop :=
  ∀ (s : State) (i : Instr) (g : Guard) (lat : Option Nat) (f : Team → Nat → LaneRes) (l : Nat), fpSpec i = some (g, lat, f) →
    let v := s.settle.view i 0
    let r := f v l
    let θ := v.sbthr.toNat % 64
    Issues s i g → passWords s.settle.cur i g = [l / 32] → (wordLanes s.settle.cur.mask (l / 32)).filter (v.guardOn g) = [l] →
      s.settle.cur.hmode = false → s.settle.cur.recs = [] → s.settle.cur.mask ≠ laneBit l →
      (∀ c d x cs, causeSpec v.fpctl r.flags = some c → r.vs = (d, x) :: cs →
        LaneRecorded s i l c (BitVec.ofNat 32 (d * 2 ^ 16 + r.flags.toNat % 32)))
      ∧ (∀ d x cs, causeSpec v.fpctl r.flags = none → r.vs = (d, x) :: cs → checkedSpec i = true → v.sbthr.getLsbD 31 = true →
        x.cnt.toNat < θ → LaneRecorded s i l 0x09 (BitVec.ofNat 32 (d * 2 ^ 16 + θ * 2 ^ 8 + x.cnt.toNat)))
      ∧ (∀ d x cs, causeSpec v.fpctl r.flags = none → r.vs = (d, x) :: cs →
        (checkedSpec i = false ∨ v.sbthr.getLsbD 31 = false ∨ θ ≤ x.cnt.toNat) →
          ∃ t, exec i s = .next t ∧ LaneComes s t lat l r ∧ t.cur.mask = s.settle.cur.mask ∧ t.cur.recs = []
            ∧ t.cur.at_ = nextPt s.settle.cur.at_ i)
      ∧ (r.ps ≠ [] →
        ∃ t, exec i s = .next t ∧ t.cur.mask = s.settle.cur.mask ∧ t.cur.recs = [] ∧ t.cur.at_ = nextPt s.settle.cur.at_ i
          ∧ ∀ n, lat = some n → ∀ c ∈ r.ps, PendsP t.cur (s.now + n) c.1 l c.2)

/-- The number that a finite value is. -/
def numberOf : FVal → Option Rat
  | .fin neg m e => some ((if neg then -1 else 1) * (m : Rat) * (2 : Rat) ^ e)
  | .inf _ | .nan _ => none

/-- R185, R196: FFMA rounds the exact product and sum of three numbers once, and a dot product the exact sum of its addend and its
elements' products. -/
def FusedExact : Prop :=
  (∀ (f : Fmt) (rm : RM) (z : Bool) (x y c : CTerm) (a b d : Rat), numberOf x.val = some a → numberOf y.val = some b →
      numberOf c.val = some d →
      ∃ v, numberOf v = some (a * b + d) ∧ ((f.fmaRes rm z x y c).x, (f.fmaRes rm z x y c).flags) = f.round rm z v)
  ∧ ∀ (f : Fmt) (w x y : Nat) (c : CTerm) (as bs : Nat → Rat) (d : Rat), numberOf c.val = some d →
      (∀ k < 32 / w, numberOf (f.decode (x / 2 ^ (w * k) % 2 ^ w)) = some (as k)
        ∧ numberOf (f.decode (y / 2 ^ (w * k) % 2 ^ w)) = some (bs k)) →
      ∃ v, numberOf v = some (d + ((List.range (32 / w)).map fun k => as k * bs k).sum)
        ∧ ((dotRes f w x y c).x, (dotRes f w x y c).flags) = fmt32.round .rne false v

/-- R186, R189: FMIN and FMAX return the lesser and the greater of two FP32 numbers, and a number rather than a NaN. FRND gives an
integer as its mode takes it from the number, and FFRAC what FRND left, exactly, where FP32 holds it, +0 or under RD −0 where
nothing is left, and under RD and RU within the bounds of the rule; neither raises a flag. -/
def IntegersExact : Prop :=
  (∀ (x y : Nat) (a b : Rat) (c d : Nat), x < 2 ^ 32 → y < 2 ^ 32 → numberOf (fmt32.decode y) = some b →
      let lo := fmt32.minmaxRes false ⟨fmt32.decode x, c⟩ ⟨fmt32.decode y, d⟩
      let hi := fmt32.minmaxRes true ⟨fmt32.decode x, c⟩ ⟨fmt32.decode y, d⟩
      (numberOf (fmt32.decode x) = some a → a < b → lo.x = x ∧ hi.x = y ∧ lo.flags = 0 ∧ hi.flags = 0)
        ∧ (numberOf (fmt32.decode x) = some a → b < a → lo.x = y ∧ hi.x = x ∧ lo.flags = 0 ∧ hi.flags = 0)
        ∧ ((fmt32.decode x).isNan = true → lo.x = y ∧ hi.x = y))
  ∧ ∀ (rm : RM) (x c : Nat) (a : Rat), numberOf (fmt32.decode x) = some a →
      let r := frndRes rm ⟨fmt32.decode x, c⟩
      let q := ffracRes rm ⟨fmt32.decode x, c⟩
      ∃ n : Int, numberOf (fmt32.decode r.x) = some (n : Rat) ∧ r.flags = 0 ∧ q.flags = 0
        ∧ (rm = .rd → (n : Rat) ≤ a ∧ a < n + 1) ∧ (rm = .ru → (n : Rat) - 1 < a ∧ a ≤ n)
        ∧ (rm = .rz → (0 ≤ a → (n : Rat) ≤ a ∧ a < n + 1) ∧ (a ≤ 0 → (n : Rat) - 1 < a ∧ a ≤ n))
        ∧ (rm = .rne → (n : Rat) - 1 / 2 ≤ a ∧ a ≤ n + 1 / 2 ∧ (a = n - 1 / 2 ∨ a = n + 1 / 2 → n % 2 = 0))
        ∧ (a = n → q.x = if rm = .rd then 0x80000000 else 0)
        ∧ (∀ k < 2 ^ 32, numberOf (fmt32.decode k) = some (a - n) → a ≠ n → q.x = k)
        ∧ ∃ b, numberOf (fmt32.decode q.x) = some b ∧ (rm = .rd → 0 ≤ b ∧ b < 1) ∧ (rm = .ru → -1 < b ∧ b ≤ 0)

/-- R190, R191, R161: where the exact result of a special function is a number that FP32 holds, it is the result, and no flag is
raised; the reciprocals of a zero are infinite and raise DZ. -/
def SpecialExact : Prop :=
  ∀ (x c k : Nat) (a b : Rat), numberOf (fmt32.decode x) = some a →
    let f := fun fn => sfuRes fn false ⟨fmt32.decode x, c⟩
    (k < 2 ^ 32 → numberOf (fmt32.decode k) = some b →
      (a * b = 1 → (f .rcp).x = k ∧ (f .rcp).flags = 0)
        ∧ (0 < b → b * b = a → (f .sqrt).x = k ∧ (f .sqrt).flags = 0)
        ∧ (0 < b → b * b * a = 1 → (f .rsq).x = k ∧ (f .rsq).flags = 0)
        ∧ (∀ n : Int, b = (2 : Rat) ^ n → a = n → (f .exp2).x = k ∧ (f .exp2).flags = 0))
      ∧ (∀ n : Int, a = (2 : Rat) ^ n → numberOf (fmt32.decode (f .log2).x) = some (n : Rat) ∧ (f .log2).flags = 0)
      ∧ (∀ n : Int, a = n → numberOf (fmt32.decode (f .sin).x) = some 0 ∧ (f .sin).flags = 0
          ∧ numberOf (fmt32.decode (f .cos).x) = some (if n % 2 = 0 then 1 else -1) ∧ (f .cos).flags = 0)
      ∧ (a = 0 → fmt32.decode (f .rcp).x = .inf (x.testBit 31) ∧ (f .rcp).flags = flagDZ
          ∧ fmt32.decode (f .rsq).x = .inf (x.testBit 31) ∧ (f .rsq).flags = flagDZ ∧ fmt32.decode (f .log2).x = .inf true
          ∧ (f .log2).flags = flagDZ)

/-- R158: the operation and the identity of a reduction of integers. -/
def gredInt : GredOp → Option ((Word → Word → Word) × Word)
  | .iadd => some ((· + ·), 0)
  | .imin => some (fun a b => if b.toInt < a.toInt then b else a, 0x7FFFFFFF)
  | .imax => some (fun a b => if a.toInt < b.toInt then b else a, 0x80000000)
  | .umin => some (fun a b => if b.toNat < a.toNat then b else a, 0xFFFFFFFF)
  | .umax => some (fun a b => if a.toNat < b.toNat then b else a, 0)
  | .and => some ((· &&& ·), 0xFFFFFFFF)
  | .or => some ((· ||| ·), 0)
  | .xor => some ((· ^^^ ·), 0)
  | .fadd | .fmin | .fmax => none

/-- R158: the operation of a reduction of FP32 numbers. -/
def gredFloat (rm : RM) : GredOp → Option (CTerm → CTerm → Res)
  | .fadd => some (fmt32.addRes rm false)
  | .fmin => some (fmt32.minmaxRes false)
  | .fmax => some (fmt32.minmaxRes true)
  | _ => none

/-- R158: a reduction of integers is that of its participants in any order, and raises no flag; one of FP32 numbers follows the
tree: one participant is its own result, and two halves of a group are combined after each has been reduced, where both have
participants. -/
def ReductionTree : Prop :=
  (∀ (op : GredOp) (rm : RM) (xs : List (Option VCell)) (f : Word → Word → Word) (e : Word), gredInt op = some (f, e) →
      xs.length ≤ 64 →
      (gredTree op rm xs).1.val = (xs.filterMap id).foldl (fun z c => f z c.val) e ∧ (gredTree op rm xs).2 = 0)
  ∧ (∀ (op : GredOp) (rm : RM) (c : VCell), gredTree op rm [some c] = (c, 0))
  ∧ ∀ (op : GredOp) (rm : RM) (n : Nat) (xs ys : List (Option VCell)) (f : CTerm → CTerm → Res), gredFloat rm op = some f → n < 6 →
      xs.length = 2 ^ n → ys.length = 2 ^ n →
      let a := gredTree op rm xs
      let b := gredTree op rm ys
      ((∀ y ∈ ys, y = none) → gredTree op rm (xs ++ ys) = a)
        ∧ ((∀ x ∈ xs, x = none) → gredTree op rm (xs ++ ys) = b)
        ∧ ((∃ x ∈ xs, x ≠ none) → (∃ y ∈ ys, y ≠ none) →
            let r := f (fmt32.src false a.1.val.toNat a.1.cnt) (fmt32.src false b.1.val.toNat b.1.cnt)
            gredTree op rm (xs ++ ys) = (⟨BitVec.ofNat 32 r.x, r.cnt⟩, a.2 ||| b.2 ||| r.flags))

/-- R169: a number that FP32 holds is its own rounding, in every mode, without a flag: rounding after decoding gives the
encoding back. R166, R169, R185: the exact sum and the exact product of two finite numbers are the rational ones; where FP32 holds
the rational sum or product of two FP32 numbers and it is not 0, that number is the result of FADD and FMUL in every mode, without
a flag; and rounding toward −∞ gives no greater number, toward +∞ no lesser one, toward 0 none of a greater magnitude. R185, R196:
FFMA and the dot products round their exact sums once. R186, R189 to R191: FMIN, FMAX, FRND and FFRAC, and a special function's
exact results. R158: what a reduction's tree gives. -/
def Obligations.RoundOfExact : Prop :=
  FusedExact ∧ IntegersExact ∧ SpecialExact ∧ ReductionTree
  ∧ (∀ (rm : RM) (x : Nat), x < 2 ^ 32 → (fmt32.decode x).isNan = false → fmt32.round rm false (fmt32.decode x) = (x, 0))
  ∧ (∀ (rm : RM) (x y : FVal) (a b : Rat), numberOf x = some a → numberOf y = some b →
      numberOf (FVal.add rm x y).1 = some (a + b) ∧ numberOf (FVal.mul x y).1 = some (a * b)
        ∧ (FVal.add rm x y).2 = 0 ∧ (FVal.mul x y).2 = 0)
  ∧ (∀ (rm : RM) (x y : CTerm) (a b c : Rat) (k : Nat), numberOf x.val = some a → numberOf y.val = some b → k < 2 ^ 32 →
      numberOf (fmt32.decode k) = some c → c ≠ 0 →
      (a + b = c → (fmt32.addRes rm false x y).x = k ∧ (fmt32.addRes rm false x y).flags = 0)
        ∧ (a * b = c → (fmt32.mulRes rm false x y).x = k ∧ (fmt32.mulRes rm false x y).flags = 0))
  ∧ ∀ (x : FVal) (a b : Rat), numberOf x = some a →
      (numberOf (fmt32.decode (fmt32.round .rd false x).1) = some b → b ≤ a)
        ∧ (numberOf (fmt32.decode (fmt32.round .ru false x).1) = some b → a ≤ b)
        ∧ (numberOf (fmt32.decode (fmt32.round .rz false x).1) = some b → (0 ≤ a → 0 ≤ b ∧ b ≤ a) ∧ (a ≤ 0 → a ≤ b ∧ b ≤ 0))

/-! ### Tagged results (R92, R102, R155 to R158, R190) -/

/-- R92, R155 to R158, R190: every cross-lane instruction, whatever traps are enabled (R158, R177), and on a team with no FP trap
enabled and no significance check every special function, completes in every state that lets it issue: its tag is set, the results
of the selected lanes wait for the tag to clear with the flags that they raise, and no lane is recorded. -/
def Obligations.TaggedLaneResults : Prop :=
  ∀ (s : State) (i : Instr) (g : Guard) (tag : Tag) (f : Team → Nat → LaneRes), taggedSpec i = some (g, tag, f) →
    Issues s i g → (sfuForm i = true → Untrapped s) →
      ∃ t, exec i s = .next t ∧ LanesTagged s.settle t i g tag f ∧ t.cur.tags = s.settle.cur.tags ||| tagBit (tagIndex tag)
        ∧ t.cur.at_ = nextPt s.settle.cur.at_ i ∧ RegistersKept s.settle.cur t.cur ∧ OutsideKept s t


/-! ### Frames -/

/-- A result that an instruction brings is for one of its destination registers, or raises flags. -/
def ForDest (t : Team) (i : Instr) (w : RegWrite) : Prop :=
  (∃ f, w = .flags f) ∨ ∃ u ∈ uses t.d.groupw i, u.dst = true ∧ ∃ k, k < u.n ∧ RegWrite.reg w = some (u.kind, u.r + k)

/-- The instructions of the tables above: they read and write registers alone. -/
def registerOnly (i : Instr) : Bool :=
  (laneSpec i).isSome || (uniformSpec i).isSome || (floatSpec i).isSome || (taggedSpec i).isSome
    || match i with
       | .rnd .. | .setsb .. | .nopShort .. | .nopLong .. => true
       | _ => false

/-- R9, R103, R115: whatever becomes of an integer, floating-point, special function or cross-lane instruction in any state
(it acts, traps, reports or kills): memory, the scratchpad and the device are as before, no register of any team has changed
but by results that were due, and every result on its way is an older one or one for a destination register. -/
def Obligations.RegisterInstructionsFrame : Prop :=
  ∀ (i : Instr) (s t : State), registerOnly i = true → exec i s = .next t →
    t.mem = s.mem ∧ t.blk.spad = s.blk.spad ∧ t.launches = s.launches ∧ t.piers = s.piers ∧ t.funcs = s.funcs ∧ t.parts = s.parts
      ∧ t.asids = s.asids ∧ t.tlb = s.tlb ∧ t.saved = s.saved ∧ t.channel = s.channel ∧ t.slices = s.slices ∧ t.clock = s.clock
      ∧ t.agenda = s.agenda ∧ t.cur.v = s.settle.cur.v ∧ t.cur.s = s.settle.cur.s ∧ t.cur.p = s.settle.cur.p
      ∧ t.cur.tiles = s.settle.cur.tiles ∧ t.cur.fpctl = s.settle.cur.fpctl ∧ t.cur.fpstat = s.settle.cur.fpstat
      ∧ t.cur.sbthr = s.settle.cur.sbthr ∧ t.cur.rndkey = s.settle.cur.rndkey
      ∧ t.teams.map (fun u => (u.v, u.s, u.p)) = s.teams.map (fun u => (u.v, u.s, u.p))
      ∧ (∀ e ∈ t.cur.fix, (∃ o ∈ s.settle.cur.fix, o.due = e.due ∧ RegWrite.reg o.w = RegWrite.reg e.w) ∨ ForDest s.cur i e.w)
      ∧ ∀ x ∈ t.cur.tagged, x ∈ s.settle.cur.tagged ∨ ∀ w ∈ x.ws, ForDest s.cur i w
/-! ### Control flow (R94 to R96, R132 to R150) -/

/-- R95, R96: a legal clause header whose ENG is that of its first instruction is entered: the team stands at the word behind it
with COUNT instructions to go, and waits as TWAIT, CCLS, CTHR and DRAIN say. That a header is entered too whose first instruction
cannot be fetched or decoded, so that it has no class to compare, is log 23, the model's choice. An illegal header traps every
active lane with cause 0x02 at the header's address, and nothing of the clause runs. -/
def Obligations.ClauseHeadersEnterOrTrap : Prop :=
  (∀ (s : State) (w : Word) (h : Header), decodeHeader w = some h → s.settle.cur.yieldAt = none →
     (s.settle.firstEng (s.cur.at_.pc + 4)).any (· != h.eng) = false →
       ∃ t, exec (.clauseHeader w) s = .next t ∧ t.cur.at_ = ⟨s.cur.at_.pc + 4, h.count.toNat⟩
         ∧ t.cur.wait = .clause s.cur.at_.pc h.twait.toNat h.ccls h.cthr.toNat h.drain (h.ccls == some .cpy)
         ∧ RegistersKept s.settle.cur t.cur ∧ OutsideKept s t)
  ∧ (∀ (s : State) (w : Word), (decodeHeader w = none ∨ ∃ h e, decodeHeader w = some h ∧
       s.settle.firstEng (s.cur.at_.pc + 4) = some e ∧ e ≠ h.eng) →
     TrapsHere s → ∃ t, exec (.clauseHeader w) s = .next t ∧ TrappedAll s t 0x02 w)

/-- The first path of a branch with the taken set `m` (R135): where it starts, and its lanes. -/
def firstPath (w : Window) (m : LaneMask) : CodePt × LaneMask :=
  if w.active &&& ~~~ m = 0 then (w.target, m) else (w.fall, w.active &&& ~~~ m)

/-- R144: the instructions that end a window, the uniform forms apart: BRANCH and SYS, ENG and COPY, FENCE and the atomics, the
matrix unit, the cross-lane work. -/
def endsSpec : Instr → Bool
  | .bra .. | .jmp .. | .call .. | .ret .. | .mjoin .. | .join .. | .exit .. => true
  | .barArr .. | .barWait .. | .barSync .. | .balBurn .. | .balShunt .. | .balHold .. | .trap .. | .rttRes .. | .rttSkip ..
  | .rttKill .. | .getsr .. | .setsr .. | .qend .. => true
  | .waitc .. | .yieldC .. | .batch .. | .mark .. | .markW .. | .send .. | .copy .. => true
  | .fence .. | .atom .. | .cas .. | .atoms .. => true
  | .mma .. | .mmas .. | .azero .. | .ald .. | .ast .. | .amov .. | .qtile .. => true
  | .shfl .. | .voteAll .. | .voteAny .. | .voteBallot .. | .voteEq .. | .gred .. | .gscan .. | .reorder .. => true
  | i => (uniformSpec i).isSome

/-- R132, R135: a branch without a guard goes to its target, that of word 0 plus 4 × OFF; a branch guarded by !pt goes on.
R143: a branch guarded by p0 to p6 is predicted: the predicted set is what a valid predictor entry of its address gives of the
active lanes, and empty else; the team goes on at once on the first path of that set, in a window that holds nothing yet; the true
set is that of the active lanes which the guard selects at issue. R144, R145: an integer or floating-point instruction that the
window takes goes into it: its results and flags stand in the shadow, and no register, result on its way, record, lane or byte of
memory changes. R144: a window that holds 8 instructions ends before any, and every window before an instruction of the rule's list,
a uniform form, and an LD or ST of a device page; it ends before no other, outside D-mode and where no copy fault is to be reported.
The team then waits for the outcome. -/
def Obligations.BranchesJumpOrPredict : Prop :=
  (∀ (s : State) (y : BitVec 3) (neg : Bool) (off : BitVec 18), Issues s (.bra y ⟨neg, 7⟩ off) ⟨neg, 7⟩ → s.settle.cur.mask ≠ 0 →
     ∃ t, exec (.bra y ⟨neg, 7⟩ off) s = .next t
       ∧ t.cur.at_ = (if neg then nextPt s.cur.at_ (.bra y ⟨neg, 7⟩ off) else ⟨s.cur.at_.pc + off.signExtend 64 * 4, 0⟩)
       ∧ t.cur.window = none ∧ RegistersKept s.settle.cur t.cur ∧ OutsideKept s t)
  ∧ (∀ (s : State) (y : BitVec 3) (g : Guard) (off : BitVec 18), Issues s (.bra y g off) g → g.p ≠ 7 →
     let slot := (s.cur.at_.pc.extractLsb' 2 8).toNat
     ∃ t w, exec (.bra y g off) s = .next t ∧ t.cur.window = some w ∧ w.pc = s.cur.at_.pc
         ∧ w.target = ⟨s.cur.at_.pc + off.signExtend 64 * 4, 0⟩ ∧ w.fall = nextPt s.cur.at_ (.bra y g off)
         ∧ w.active = s.settle.cur.mask ∧ w.taken = selectedLanes s.settle.cur s.now g
         ∧ w.pred = (match ((s.core s.cur.core).quads.getD s.cur.quad .reset).pred.lookup slot with
             | some e => if e.valid = true ∧ e.addr = s.cur.at_.pc then e.taken &&& s.settle.cur.mask else 0
             | none => 0)
         ∧ (t.cur.at_, t.cur.mask) = firstPath w w.pred ∧ w.items = [] ∧ w.closed = false ∧ w.redo = none ∧ s.now < w.knownAt
         ∧ RegistersKept { s.settle.cur with mask := t.cur.mask } t.cur ∧ OutsideKept s t)
  ∧ (∀ (s : State) (w : Window) (i : Instr) (g : Guard) (lat : Nat) (f : Team → Nat → LaneRes), IssuesIn s w i g →
     ((laneSpec i = some (g, f) ∧ lat = 4) ∨ (floatSpec i = some (g, lat, f) ∧ Untrapped s)) →
     ∃ t u, exec i s = .next t ∧ t.cur.window = some u ∧ u.items = w.items ++ [⟨.instr i, s.settle.cur.at_, s.settle.cur.drained⟩]
       ∧ (∀ q ∈ w.passes, q ∈ u.passes) ∧ u.taken = w.taken ∧ u.mem = w.mem ∧ u.spad = w.spad
       ∧ (∀ x k l, Runs s.settle i g x k l → ∃ q ∈ u.passes, ∃ r, (l, r) ∈ q.rs ∧ q.item = w.items.length
            ∧ q.due = s.now + k * passCycles i + lat ∧ r.trap = none ∧ r.flags = (f (s.settle.view i k) l).flags
            ∧ (∀ c ∈ (f (s.settle.view i k) l).vs, c ∈ r.vs) ∧ ∀ c ∈ (f (s.settle.view i k) l).ps, c ∈ r.ps)
       ∧ t.cur.at_ = nextPt s.settle.cur.at_ i ∧ t.cur.fix = s.settle.cur.fix ∧ RegistersKept s.settle.cur t.cur ∧ OutsideKept s t)
  ∧ (∀ (s : State) (w : Window) (i : Instr), isEvent i = false → (∀ h, i ≠ .clauseHeader h) → s.cur.window = some w → w.redo = none →
     (8 ≤ w.items.length ∨ endsSpec i = true) →
     ∃ t, exec i s = .next t ∧ t.cur.window = some { w with closed := true } ∧ t.cur.at_ = s.settle.cur.at_
       ∧ t.cur.fix = s.settle.cur.fix ∧ t.ready t.cur = false ∧ RegistersKept s.settle.cur t.cur ∧ OutsideKept s t)
  ∧ (∀ (s : State) (w : Window) (y : BitVec 3) (g : Guard) (tag : Tag) (o : OpsDA) (b : Reg) (size : LdSize) (sz : StSize) (ord : MemOrd)
      (sc : Scope) (off : BitVec 10) (lk : Look) (i : Instr) (k : AccKind) (n : Nat),
     ((i = .ld y g tag o size ord sc off ∧ k = .load ∧ n = ldBytes size) ∨ (i = .st y g tag o.a b sz ord sc off ∧ k = .store ∧ n = stBytes sz)) →
     IssuesIn s w i g → lk = s.settle.look k n (laneAddrs s.settle.cur s.now i g fun t l => t.rvPair o.a.toNat l + off.signExtend 64) →
     (∃ r ∈ lk.ok, r.dev = true) → s.cur.d.dmode = false →
     ∃ t, exec i s = .next t ∧ t.cur.window = some { w with closed := true } ∧ t.cur.at_ = s.settle.cur.at_
       ∧ t.ready t.cur = false ∧ RegistersKept s.settle.cur t.cur ∧ OutsideKept s t)
  ∧ ∀ (t : Team) (w : Window) (i : Instr), isEvent i = false → endsSpec i = false → w.items.length < 8 → t.reportsFirst = false →
     t.d.dmode = false → t.ends w i = false

/-- A window as its branch opened it, whatever has issued in it since: its sets are of active lanes, and it replays nothing. -/
structure OpenWindow (s : State) (w : Window) : Prop where
  homed : Homed s
  window : s.cur.window = some w
  noReplay : w.redo = none
  active : w.active ≠ 0
  taken : w.taken &&& ~~~ w.active = 0
  pred : w.pred &&& ~~~ w.active = 0

/-- R148: what the predictor's entry of a branch at `x` holds after its outcome, lane by lane: the true outcome in the active
lanes, what it held in the other lanes of words with an active lane, and in other words what it held, if it was that branch's. -/
def LearnedEntry (old : Option PredEntry) (x : DWord) (active taken : LaneMask) (e : PredEntry) : Prop :=
  e.valid = true ∧ e.addr = x ∧ ∀ l, l < 1024 →
    e.taken.getLsbD l =
      if active.getLsbD l then taken.getLsbD l
      else if (List.range 32).any fun k => active.getLsbD (l / 32 * 32 + k) then (old.map (·.taken.getLsbD l)).getD false
      else match old with
        | some o => o.valid && o.addr == x && o.taken.getLsbD l
        | none => false

/-- R135, R146 to R150: the outcome of a branch. The taken lanes are pushed as a P entry at the target where others are left. The
predictor learns the true outcome. A right prediction counts nothing, a wrong one counts once in REPLAYS. A window that holds
nothing, and one whose path begins at the wrong place (a full replay), leave the team on the true first path with its registers
and memory as they were; the tags that a discarded window had set are clear. A right window that holds the results of one
instruction commits: the results are due in the registers as the window showed them. A wrong one that begins at the true place and
lacks lanes issues its items again, for those lanes alone (a selective replay). -/
def Obligations.BranchResolves : Prop :=
  (∀ (s : State) (w : Window), OpenWindow s w → s.cur.core < s.cores.length → s.cur.quad < (s.core s.cur.core).quads.length →
    let slot := (w.pc.extractLsb' 2 8).toNat
    let quad := fun (x : State) => (x.core s.cur.core).quads.getD s.cur.quad .reset
    (w.items = [] ∧ (s.cur.at_, s.cur.mask) = firstPath w w.pred) ∨ (w.active &&& ~~~ w.pred = 0) ≠ (w.active &&& ~~~ w.taken = 0) →
    ∃ t, exec (.maskPredictionResolve s.cur.uid) s = .next t ∧ t.cur.window = none ∧ (t.cur.at_, t.cur.mask) = firstPath w w.taken
      ∧ t.cur.stack = (if w.taken ≠ 0 ∧ w.active &&& ~~~ w.taken ≠ 0 then ⟨false, w.target, w.taken⟩ :: s.cur.stack else s.cur.stack)
      ∧ t.cur.replays = (if w.pred = w.taken then s.cur.replays else s.cur.replays + 1)
      ∧ (∃ e, (quad t).pred.lookup slot = some e ∧ LearnedEntry ((quad s).pred.lookup slot) w.pc w.active w.taken e)
      ∧ ((w.active &&& ~~~ w.pred = 0) ≠ (w.active &&& ~~~ w.taken = 0) → (∀ n, n < 6 → w.tags.getLsbD n = true → t.cur.tags.getLsbD n = false))
      ∧ t.cur.v = s.cur.v ∧ t.cur.s = s.cur.s ∧ t.cur.p = s.cur.p ∧ t.cur.fix = s.cur.fix ∧ t.cur.recs = s.cur.recs ∧ OutsideKept s t)
  ∧ (∀ (s : State) (w : Window) (i : Instr) (x : WinItem), OpenWindow s w → w.pred = w.taken → w.items = [x] → x.what = .instr i →
    tagOf i = none → (∀ p ∈ w.passes, p.item = 0 ∧ p.tag = none ∧ ∀ r ∈ p.rs, s.cur.mask.getLsbD r.1 = true ∧ r.2.trap = none) →
    w.mem = [] → w.spad = [] → s.cur.mask &&& ~~~ (firstPath w w.taken).2 = 0 → s.cur.recs.length ≤ 8 →
    ∃ t, exec (.maskPredictionResolve s.cur.uid) s = .next t ∧ t.cur.window = none ∧ t.cur.at_ = s.cur.at_ ∧ t.cur.mask = s.cur.mask
      ∧ t.cur.fix = s.cur.fixAll ∧ t.cur.retired = s.cur.retired + 1 ∧ t.cur.ins = s.cur.ins + 1 ∧ t.cur.replays = s.cur.replays
      ∧ t.cur.v = s.cur.v ∧ t.cur.recs = s.cur.recs ∧ OutsideKept s t)
  ∧ ∀ (s : State) (w : Window), OpenWindow s w → w.items ≠ [] → s.blk.leaving = .no →
    (w.active &&& ~~~ w.pred = 0) = (w.active &&& ~~~ w.taken = 0) →
    (firstPath w w.taken).2 &&& ~~~ (firstPath w w.pred).2 ≠ 0 →
    ∃ t u r, exec (.maskPredictionResolve s.cur.uid) s = .next t ∧ t.cur.window = some u ∧ u.redo = some r
      ∧ r.todo = List.range w.items.length ∧ u.items = w.items
      ∧ t.cur.mask = (firstPath w w.taken).2 &&& ~~~ (firstPath w w.pred).2 ∧ r.keep = s.cur.mask &&& (firstPath w w.taken).2
      ∧ t.cur.replays = s.cur.replays + 1 ∧ t.cur.v = s.cur.v ∧ t.cur.fix = s.cur.fix ∧ OutsideKept s t


/-- R139: a divergent branch or an MJOIN that would push a 257th entry is an illegal use: it traps every active lane with cause
0x03 and its word 0. -/
def Obligations.FullStackTraps : Prop :=
  ∀ (s : State) (y : BitVec 3) (off : BitVec 18) (i : Instr) (g : Guard),
    (i = .mjoin y off ∨ (i = .bra y g off ∧ selectedLanes s.settle.cur s.now g ≠ 0
        ∧ selectedLanes s.settle.cur s.now g ≠ s.settle.cur.mask)) →
    256 ≤ s.settle.cur.stack.length → TrapsHere s → ∃ t, exec i s = .next t ∧ TrappedAll s t 0x03 (encodeWord0 i)

/-- R132: JMP and RET take every active lane to the address in the pair; one that is no word address traps (cause 0x05). CALL
writes the address of the word after it to the s pair, low half in the even register, and goes to its target. R132 gives CALL no
latency: that the pair holds the address in the step of its issue is log 31, the model's choice. -/
def Obligations.JumpsAndCalls : Prop :=
  (∀ (s : State) (y : BitVec 3) (a : Reg) (i : Instr), (i = .jmp y a ∨ i = .ret y a) → Issues s i Guard.pt →
     let x := s.settle.cur.rsPair a.toNat
     (x.toNat % 4 = 0 → ∃ t, exec i s = .next t ∧ t.cur.at_ = ⟨x, 0⟩ ∧ t.cur.fix = s.settle.cur.fix
         ∧ RegistersKept s.settle.cur t.cur ∧ OutsideKept s t)
       ∧ (x.toNat % 4 ≠ 0 → TrapsHere s → ∃ t, exec i s = .next t ∧ TrappedAll s t 0x05 (x.extractLsb' 0 32)))
  ∧ (∀ (s : State) (y : BitVec 3) (d : Reg) (off : BitVec 18), Issues s (.call y d off) Guard.pt →
     ∃ t, exec (.call y d off) s = .next t ∧ t.cur.at_ = ⟨s.cur.at_.pc + off.signExtend 64 * 4, 0⟩
       ∧ t.cur.s = (s.settle.cur.s.set d.toNat ((s.cur.at_.pc + 8).extractLsb' 0 32)).set (d.toNat + 1)
           ((s.cur.at_.pc + 8).extractLsb' 32 32)
       ∧ t.cur.v = s.settle.cur.v ∧ t.cur.p = s.settle.cur.p ∧ t.cur.stack = s.settle.cur.stack
       ∧ t.cur.mask = s.settle.cur.mask ∧ OutsideKept s t)

/-- What the entry into the handler with record `r` leaves of a team `a` (R207): the mask, the saved AMASK, cause, datum and
addresses, and the path that was held, pushed as a P entry if it has a lane. -/
structure Entered (a b : Team) (r : TrapRec) : Prop where
  hmode : b.hmode = true
  amask : b.amask = true
  saved : b.savedAmask = a.amask
  cause : b.cause = BitVec.ofNat 8 r.cause
  datum : b.datum = r.datum
  trappc : b.trappc = r.start.pc
  trapmask : b.trapmask = r.mask
  mask : b.mask = r.mask
  at_ : b.at_ = ⟨a.d.traph, 0⟩
  stack : b.stack = if a.mask = 0 then a.stack else ⟨false, a.at_, a.mask⟩ :: a.stack
  base : b.base = b.stack.length
  v : b.v = a.v
  s : b.s = a.s
  p : b.p = a.p
  recs : b.recs = a.recs

/-- What becomes of a path without a lane left (R136, R137): the newest entry of `stack` with a lane that has not ended runs, those
above it are gone. -/
def PathPopped (t : Team) (ended : LaneMask) (stack : List StackEntry) : Prop :=
  ∀ dead e rest, stack = dead ++ e :: rest → (∀ x ∈ dead, x.mask &&& ~~~ ended = 0) → e.mask &&& ~~~ ended ≠ 0 →
    t.at_ = e.start ∧ t.mask = e.mask &&& ~~~ ended ∧ t.stack = rest

/-- R134: MJOIN pushes a J entry with the active lanes and its label. R136, R137: JOIN goes to the top entry with its lanes that
have not ended; where none of them is left, to the newest entry that has one; where no entry has one, the team ends; with an empty
stack JOIN traps (cause 0x03). R211: in the handler JOIN goes to an entry above the base. -/
def Obligations.MjoinPushesAndJoinPops : Prop :=
  (∀ (s : State) (y : BitVec 3) (off : BitVec 18), Issues s (.mjoin y off) Guard.pt → s.settle.cur.stack.length < 256 →
     ∃ t, exec (.mjoin y off) s = .next t
       ∧ t.cur.stack = ⟨true, ⟨s.cur.at_.pc + off.signExtend 64 * 4, 0⟩, s.settle.cur.mask⟩ :: s.settle.cur.stack
       ∧ t.cur.at_ = nextPt s.cur.at_ (.mjoin y off) ∧ t.cur.mask = s.settle.cur.mask ∧ t.cur.v = s.settle.cur.v
       ∧ t.cur.s = s.settle.cur.s ∧ t.cur.p = s.settle.cur.p ∧ OutsideKept s t)
  ∧ (∀ (s : State) (y : BitVec 3), Issues s (.join y) Guard.pt → s.settle.cur.hmode = false →
     ((∃ e ∈ s.settle.cur.stack, e.mask &&& ~~~ s.settle.cur.ended ≠ 0) →
         ∃ t, exec (.join y) s = .next t ∧ PathPopped t.cur s.settle.cur.ended s.settle.cur.stack
           ∧ t.cur.ended = s.settle.cur.ended ∧ t.cur.v = s.settle.cur.v ∧ t.cur.s = s.settle.cur.s ∧ t.cur.p = s.settle.cur.p
           ∧ OutsideKept s t)
       ∧ (s.settle.cur.stack ≠ [] → (∀ e ∈ s.settle.cur.stack, e.mask &&& ~~~ s.settle.cur.ended = 0) → Homed s →
           s.blk.reorder = [] → s.mtxBusy s.cur = false →
           ∃ t, exec (.join y) s = .next t ∧ t.cur.st = .ended ∧ t.cur.mask = 0 ∧ t.mem = s.mem)
       ∧ (s.settle.cur.stack = [] → TrapsHere s →
           ∃ t, exec (.join y) s = .next t ∧ TrappedAll s t 0x03 (encodeWord0 (.join y))))
  ∧ ∀ (s : State) (y : BitVec 3) (own below : List StackEntry), Issues s (.join y) Guard.pt → s.settle.cur.hmode = true →
     s.settle.cur.stack = own ++ below → below.length = s.settle.cur.base → (∃ e ∈ own, e.mask &&& ~~~ s.settle.cur.ended ≠ 0) →
       ∃ t rest, exec (.join y) s = .next t ∧ t.cur.stack = rest ++ below
         ∧ PathPopped { t.cur with stack := rest } s.settle.cur.ended own ∧ t.cur.hmode = true ∧ OutsideKept s t

/-- R22, R137: EXIT ends the lanes that its guard selects. If active lanes are left they go on. With no lane left on the path, a
record that is held is taken first (R205); else the newest entry of the stack with a lane that has not ended runs, and those above
it are gone; where there is none, the team has ended; R289: one with matrix instructions still to be done waits for them first. -/
def Obligations.ExitEndsLanes : Prop :=
  ∀ (s : State) (y : BitVec 3) (g : Guard), Issues s (.exit y g) g →
    let m := s.settle.cur.mask
    let e := selectedLanes s.settle.cur s.now g
    (m &&& ~~~ e ≠ 0 → s.settle.cur.unreported = [] →
        ∃ t, exec (.exit y g) s = .next t ∧ t.cur.mask = m &&& ~~~ e ∧ t.cur.ended = s.settle.cur.ended ||| e
          ∧ t.cur.at_ = nextPt s.cur.at_ (.exit y g) ∧ t.cur.stack = s.settle.cur.stack ∧ t.cur.v = s.settle.cur.v
          ∧ OutsideKept s t)
      ∧ (m &&& ~~~ e = 0 → s.settle.cur.unreported = [] → s.settle.cur.recs = [] →
          (∃ x ∈ s.settle.cur.stack, x.mask &&& ~~~ (s.settle.cur.ended ||| e) ≠ 0) →
          ∃ t, exec (.exit y g) s = .next t ∧ PathPopped t.cur (s.settle.cur.ended ||| e) s.settle.cur.stack
            ∧ t.cur.ended = s.settle.cur.ended ||| e ∧ t.cur.v = s.settle.cur.v ∧ OutsideKept s t)
      ∧ (∀ r rest, m &&& ~~~ e = 0 → s.settle.cur.unreported = [] → s.settle.cur.recs = r :: rest → s.settle.cur.d.traph ≠ 0 →
          ∃ t, exec (.exit y g) s = .next t ∧ Entered { s.settle.cur with mask := 0 } t.cur r
            ∧ t.cur.ended = s.settle.cur.ended ||| e ∧ OutsideKept s t)
      ∧ (m &&& ~~~ e = 0 → s.settle.cur.unreported = [] → s.settle.cur.recs = [] →
          (∀ x ∈ s.settle.cur.stack, x.mask &&& ~~~ (s.settle.cur.ended ||| e) = 0) →
          Homed s → s.blk.reorder = [] → s.mtxBusy s.cur = false →
          ∃ t, exec (.exit y g) s = .next t ∧ t.cur.st = .ended ∧ t.cur.mask = 0 ∧ t.cur.burn = (0, 0)
            ∧ t.cur.ended = s.settle.cur.ended ||| e ∧ t.mem = s.mem)
      ∧ (m &&& ~~~ e = 0 → s.settle.cur.unreported = [] → s.settle.cur.recs = [] →
          (∀ x ∈ s.settle.cur.stack, x.mask &&& ~~~ (s.settle.cur.ended ||| e) = 0) → s.mtxBusy s.cur = true →
          ∃ t, exec (.exit y g) s = .next t ∧ t.cur.st = s.cur.st ∧ t.cur.mask = 0 ∧ t.cur.wait = .finish
            ∧ t.cur.ended = s.settle.cur.ended ||| e ∧ OutsideKept s t)

/-! ### Barriers, balance and system registers (R105 to R107, R151 to R154, R215) -/

/-- A D-mode launch of one block of one team whose quantum has ended, without copies, entries or matrix work: its commit is due. -/
structure QuantumOver (s : State) (l : Launch) : Prop where
  homed : Homed s
  canonical : s.Canonical
  alone : s.teams = [] ∧ s.blocks = [] ∧ s.saved = [] ∧ s.launches = [l]
  launch : l.d.dmode = true ∧ l.dealt = l.blocks ∧ l.table = [] ∧ l.commitAt ≤ s.clock.toNat
  own : s.cur.lid = l.lid ∧ s.blk.lid = l.lid ∧ s.cur.d.dmode = true
  team : s.cur.st = .resident
  ended : s.quantumEnded s.cur = true
  block : s.blk.kill = none ∧ s.blk.copies = []

/-- The commit of such a launch is carried out: a quantum is counted, and the next is open. -/
def Commits (s : State) (l : Launch) (t : State) : Prop :=
  exec (.dmodeCommit l.lid) s = .next t ∧ t.cur.quant = s.cur.quant + 1 ∧ t.cur.qdone = false

/-- R151, R152: an arrival whose release step holds counts; when the count reaches what is expected, the barrier's phase goes up
by one and it is empty again, else it holds the expectation and the arrivals. BAR.ARR goes on at once. BAR.WAIT goes on when the
phase has changed since the team's last arrival, and waits where it stands until then. The BAR.SYNC that completes a phase goes on
at once; an earlier one has arrived and waits. An arrival with a count above TEAMS, or with another expectation than the barrier
holds, traps (cause 0x03). R270: in D-mode all three wait for the commit of their quantum and change no barrier before. The commit
counts the arrivals, and what it finds unmet waits for the next. -/
def Obligations.BarriersCountAndHold : Prop :=
  (∀ (s : State) (y : BitVec 3) (b : BitVec 4) (want : BarWant), Issues s (.barArr y b want) Guard.pt → Homed s →
     s.blk.bars.length = 16 → s.cur.d.dmode = false → releaseStep s.settle.cur .block s.settle.cur.ins = true →
     (∀ n, want = .count n → n.toNat + 1 ≤ s.cur.d.teams) →
     let bar := s.settle.blk.bars.getD b.toNat ⟨none, 0, 0⟩
     (bar.exp = none ∨ bar.exp = some want) →
       ∃ t, exec (.barArr y b want) s = .next t ∧ t.cur.at_ = nextPt s.cur.at_ (.barArr y b want)
         ∧ t.blk.bars.getD b.toNat ⟨none, 0, 0⟩ =
             (if barNeed (s.settle.liveTeams s.cur.bid).length want ≤ bar.arr + 1 then ⟨none, 0, bar.ph + 1⟩
              else ⟨some want, bar.arr + 1, bar.ph⟩)
         ∧ RegistersKept s.settle.cur t.cur ∧ t.mem = s.mem ∧ t.blk.spad = s.blk.spad)
  ∧ (∀ (s : State) (y : BitVec 3) (b : BitVec 4), Issues s (.barWait y b) Guard.pt → s.cur.d.dmode = false →
     (s.settle.barrierWaits b.toNat = false → ∃ t, exec (.barWait y b) s = .next t
         ∧ t.cur.at_ = nextPt s.cur.at_ (.barWait y b) ∧ RegistersKept s.settle.cur t.cur ∧ OutsideKept s t)
       ∧ (s.settle.barrierWaits b.toNat = true → ∃ t, exec (.barWait y b) s = .next t ∧ t.cur.at_ = s.cur.at_
           ∧ t.cur.wait = .barrier b.toNat ∧ RegistersKept s.settle.cur t.cur ∧ OutsideKept s t))
  ∧ (∀ (s : State) (y : BitVec 3) (b : BitVec 4) (want : BarWant), Issues s (.barSync y b want) Guard.pt → Homed s →
     s.blk.bars.length = 16 → s.cur.last.length = 16 → s.cur.d.dmode = false → s.settle.cur.synced = none →
     releaseStep s.settle.cur .block s.settle.cur.ins = true → (∀ n, want = .count n → n.toNat + 1 ≤ s.cur.d.teams) →
     let bar := s.settle.blk.bars.getD b.toNat ⟨none, 0, 0⟩
     (bar.exp = none ∨ bar.exp = some want) →
       ∃ t, exec (.barSync y b want) s = .next t
         ∧ (barNeed (s.settle.liveTeams s.cur.bid).length want ≤ bar.arr + 1 → t.cur.at_ = nextPt s.cur.at_ (.barSync y b want)
             ∧ t.blk.bars.getD b.toNat ⟨none, 0, 0⟩ = ⟨none, 0, bar.ph + 1⟩)
         ∧ (bar.arr + 1 < barNeed (s.settle.liveTeams s.cur.bid).length want → t.cur.at_ = s.cur.at_
             ∧ t.cur.wait = .barrier b.toNat ∧ t.blk.bars.getD b.toNat ⟨none, 0, 0⟩ = ⟨some want, bar.arr + 1, bar.ph⟩))
  ∧ (∀ (s : State) (y : BitVec 3) (b : BitVec 4) (want : BarWant), Issues s (.barArr y b want) Guard.pt → s.cur.d.dmode = false →
     releaseStep s.settle.cur .block s.settle.cur.ins = true → TrapsHere s →
     ((∃ n, want = .count n ∧ s.cur.d.teams < n.toNat + 1)
       ∨ ∃ e, (s.settle.blk.bars.getD b.toNat ⟨none, 0, 0⟩).exp = some e ∧ e ≠ want) →
       ∃ t, exec (.barArr y b want) s = .next t ∧ TrappedAll s t 0x03 (encodeWord0 (.barArr y b want))
         ∧ t.blk.bars = s.settle.blk.bars)
  ∧ (∀ (s : State) (i : Instr) (y : BitVec 3) (b : BitVec 4) (want : BarWant),
     (i = .barArr y b want ∨ i = .barWait y b ∨ i = .barSync y b want) → Issues s i Guard.pt → s.cur.d.dmode = true →
       ∃ t, exec i s = .next t ∧ t.cur.at_ = s.cur.at_ ∧ t.cur.wait = .commit i ∧ t.blk.bars = s.settle.blk.bars
         ∧ RegistersKept s.settle.cur t.cur ∧ OutsideKept s t)
  ∧ (∀ (s : State) (l : Launch) (i : Instr) (y : BitVec 3) (b : BitVec 4) (want : BarWant), QuantumOver s l →
     (i = .barArr y b want ∨ i = .barSync y b want) → s.cur.wait = .commit i → s.cur.dkill = none → s.cur.dheld = [] →
     s.blk.bars.length = 16 → s.cur.last.length = 16 → s.cur.synced = none → releaseStep s.cur .block s.cur.ins = true →
     (∀ n, want = .count n → n.toNat + 1 ≤ s.cur.d.teams) →
     let bar := s.blk.bars.getD b.toNat ⟨none, 0, 0⟩
     (bar.exp = none ∨ bar.exp = some want) →
       ∃ t, Commits s l t ∧ t.cur.v = s.cur.v ∧ t.mem = s.mem
         ∧ (barNeed 1 want ≤ bar.arr + 1 → t.blk.bars.getD b.toNat ⟨none, 0, 0⟩ = ⟨none, 0, bar.ph + 1⟩
             ∧ t.cur.at_ = nextPt s.cur.at_ i ∧ t.cur.wait = .none)
         ∧ (bar.arr + 1 < barNeed 1 want → t.blk.bars.getD b.toNat ⟨none, 0, 0⟩ = ⟨some want, bar.arr + 1, bar.ph⟩
             ∧ (i = .barArr y b want → t.cur.at_ = nextPt s.cur.at_ i ∧ t.cur.wait = .none)
             ∧ (i = .barSync y b want → t.cur.at_ = s.cur.at_ ∧ t.cur.wait = .commit i)))
  ∧ (∀ (s : State) (l : Launch) (y : BitVec 3) (b : BitVec 4), QuantumOver s l → s.cur.wait = .commit (.barWait y b) →
     s.cur.dkill = none → s.cur.dheld = [] →
       ∃ t, Commits s l t ∧ t.cur.v = s.cur.v ∧ t.mem = s.mem ∧ t.blk.bars = s.blk.bars
         ∧ (s.barrierWaits b.toNat = false → t.cur.at_ = nextPt s.cur.at_ (.barWait y b) ∧ t.cur.wait = .none)
         ∧ (s.barrierWaits b.toNat = true → t.cur.at_ = s.cur.at_ ∧ t.cur.wait = .commit (.barWait y b)))

/-- R53, R54, R154: BAL.BURN sets the team's level and cycles, from the next cycle on (a level or count of 0 ends the burn);
BAL.HOLD sets the block's floor level; BAL.SHUNT asks each joint of the core for a boost, which one that neither boosts nor
cools down takes. -/
def Obligations.BalanceInstructions : Prop :=
  (∀ (s : State) (y : BitVec 3) (lvl : BitVec 4) (len : BurnLen), Issues s (.balBurn y lvl len) Guard.pt →
      let n := match len with
        | .imm n => n.toNat
        | .reg b => (s.settle.cur.rs b.toNat).toNat
      ∃ t, exec (.balBurn y lvl len) s = .next t ∧ t.cur.burn = (if lvl = 0 ∨ n = 0 then (0, 0) else (lvl.toNat, n))
        ∧ t.cur.burnFrom = s.clock.toNat + 1 ∧ t.cur.at_ = nextPt s.cur.at_ (.balBurn y lvl len)
        ∧ RegistersKept s.settle.cur t.cur ∧ OutsideKept s t)
    ∧ (∀ (s : State) (y : BitVec 3) (lvl : BitVec 4), Issues s (.balHold y lvl) Guard.pt →
      ∃ t, exec (.balHold y lvl) s = .next t ∧ t.blk.hold = lvl.toNat ∧ t.cur.at_ = nextPt s.cur.at_ (.balHold y lvl)
        ∧ RegistersKept s.settle.cur t.cur ∧ OutsideKept s t)
    ∧ ∀ (s : State) (y : BitVec 3), Issues s (.balShunt y) Guard.pt →
      ∃ t, exec (.balShunt y) s = .next t ∧ t.cur.at_ = nextPt s.cur.at_ (.balShunt y) ∧ t.mem = s.mem
        ∧ (∀ k j, (s.pier (s.cur.core / 4)).joints[k]? = some j → s.cur.core / 4 < s.piers.length →
            (t.pier (s.cur.core / 4)).joints[k]? = some (if (k = s.cur.core % 4 ∨ k + 1 = s.cur.core % 4)
              ∧ j.boost = 0 ∧ j.cool = 0 ∧ j.boostOver = false ∧ j.coolOver = false then { j with boost := 41 } else j))
        ∧ ∀ n, n ≠ s.cur.core / 4 → t.pier n = s.pier n

/-- R27, R28, R215: GETSR gives each selected lane the register's value in that lane, 4 cycles after its pass. R107: a pass behind
the first reads CLOCK or MSM in the cycle in which it issues: its cell takes the value of that cycle, and none before. With an s
destination GETSR gives the value of the lowest active lane once, as its first pass reads it, 4 cycles after its last pass, and
nothing where the guard selects no lane: log 113, the model's choice. R271: a D-mode team that reads CLOCK, MSM or REPLAYS traps
(cause 0x15, reason 3). R106, R209, R215: SETSR's value is due in a writable register 4 cycles on, TRAPMASK's by word; a read-only
register traps (cause 0x03). R12, R175, R176, R201, R208, R209, R308: what each register keeps of the value when it lands: BALCTL's
limits only fall and 0 counts as 1, and its AUTO and ALVL take force then (log 94, the model's choice); a one in TRAPMASK clears a
lane and in CPYERR.V the bit; TRAPDATA keeps what it has where the map of its cause gives every field RO (R105; that one without
such a map is written whole is log 115, the model's choice). -/
def Obligations.SystemRegisters : Prop :=
  ((∀ (s : State) (y : BitVec 3) (g : Guard) (d : Reg) (r : SysReg), Issues s (.getsr y g d false r) g →
       (s.settle.cur.d.dmode = true → r ∉ [.clockLo, .clockHi, .msm, .replays]) →
       ∃ t, exec (.getsr y g d false r) s = .next t ∧ t.cur.at_ = nextPt s.cur.at_ (.getsr y g d false r) ∧ OutsideKept s t
         ∧ RegistersKept s.settle.cur t.cur
         ∧ ∀ w k l, Runs s.settle (.getsr y g d false r) g w k l →
             (r ∉ [.clockLo, .clockHi, .msm] ∨ k = 0 → PendsV t.cur (s.now + k + 4) d.toNat l ⟨State.sysValue
               { s.settle with blk := landBalctl s.settle.blk (s.settle.cur.due (s.now + k)) }
               (s.settle.view (.getsr y g d false r) k) l r, 63⟩)
             ∧ (r ∈ [.clockLo, .clockHi, .msm] → k ≠ 0 → (⟨s.now + k, d.toNat, w, r⟩ : SrRead) ∈ t.cur.srReads
                 ∧ ∃ x, PendsV t.cur (s.now + k + 4) d.toNat l ⟨x, 63⟩))
     ∧ (∀ (s : State) (t : Team) (x : SrRead) (l : Nat) (c : VCell), t.srReads = [x] → l / 32 = x.word →
         t.fix = [⟨x.at_ + 4, .v x.dst [(l, c)]⟩] →
           (s.openCycle t.core = true → (s.core t.core).opens = x.at_ →
             (s.srTick t).fix = [⟨x.at_ + 4, .v x.dst [(l, ⟨s.sysValue t l x.sr, c.cnt⟩)]⟩] ∧ (s.srTick t).srReads = [])
           ∧ (s.openCycle t.core = false ∨ (s.core t.core).opens < x.at_ → s.srTick t = t))
     ∧ (∀ (s : State) (y : BitVec 3) (g : Guard) (d : Reg) (r : SysReg), let i := Instr.getsr y g d true r
       Issues s i g → (s.settle.cur.d.dmode = true → r ∉ [.clockLo, .clockHi, .msm, .replays]) →
       ∃ t, exec i s = .next t ∧ t.cur.at_ = nextPt s.cur.at_ i ∧ RegistersKept s.settle.cur t.cur ∧ OutsideKept s t
         ∧ (selectedLanes s.settle.cur s.now g = 0 → t.cur.fix = s.settle.cur.fix)
         ∧ (selectedLanes s.settle.cur s.now g ≠ 0 → PendsS t.cur (s.now + ((passWords s.settle.cur i g).length - 1) + 4) d.toNat
             (s.settle.sysValue s.settle.cur (lowestLane s.settle.cur.mask) r)))
     ∧ (∀ (s : State) (y : BitVec 3) (g : Guard) (d : Reg) (k : Bool) (r : SysReg), Issues s (.getsr y g d k r) g →
       s.settle.cur.d.dmode = true → r ∈ [SysReg.clockLo, .clockHi, .msm, .replays] → TrapsHere s →
       ∃ t, exec (.getsr y g d k r) s = .next t ∧ TrappedAll s t 0x15 3)
     ∧ ∀ (s : State) (t : Team) (l : Nat),
         s.sysValue t l .lane = BitVec.ofNat 32 l ∧ s.sysValue t l .word = BitVec.ofNat 32 (l / 32)
           ∧ s.sysValue t l .team = BitVec.ofNat 32 t.tno ∧ s.sysValue t l .teams = BitVec.ofNat 32 t.d.teams
           ∧ s.sysValue t l .teamw = BitVec.ofNat 32 t.d.teamw ∧ s.sysValue t l .groupw = BitVec.ofNat 32 t.d.groupw
           ∧ s.sysValue t l .core = BitVec.ofNat 32 t.core ∧ s.sysValue t l .pier = BitVec.ofNat 32 (t.core / 4)
           ∧ s.sysValue t l .course = BitVec.ofNat 32 (t.core % 4)
           ∧ s.sysValue t l .marks = BitVec.ofNat 32 (t.late * 2 ^ 16 + t.mark))
  ∧ (∀ (s : State) (y : BitVec 3) (b : Reg) (bk : Bool) (r : SysReg), let v := s.settle.cur.view s.now
     (Issues s (.setsr y b bk r) Guard.pt → ∃ t, exec (.setsr y b bk r) s = .next t
         ∧ t.cur.at_ = nextPt s.cur.at_ (.setsr y b bk r)
         ∧ (r ≠ .trapmask → (⟨s.now + 4, .sys r [(0, v.srcB bk b (lowestLane v.mask))]⟩ : FixWrite) ∈ t.cur.fix)
         ∧ (r = .trapmask → bk = true →
             (⟨s.now + 4, .sys r ((List.range 32).map fun w => (w, v.rs b.toNat))⟩ : FixWrite) ∈ t.cur.fix)
         ∧ (r = .trapmask → bk = false → ∀ w k, (w, k) ∈ (activeWords v.mask).zipIdx →
             (⟨s.now + k + 4, .sys r [(w, ((v.view (s.now + k)).rv b.toNat ((wordLanes v.mask w).headD 0)).val)]⟩ : FixWrite)
               ∈ t.cur.fix)
         ∧ RegistersKept s.settle.cur t.cur ∧ OutsideKept s t)
       ∧ (SysReg.writable r = false → TrapsHere s →
           ∃ t, exec (.setsr y b bk r) s = .next t ∧ TrappedAll s t 0x03 (encodeWord0 (.setsr y b bk r))))
  ∧ (∀ (t : Team) (n m w : Nat) (r : SysReg) (x : Word), t.fix = [⟨n, .sys r [(w, x)]⟩] → t.spad = [] → n ≤ m → w < 32 →
     let u := t.landed m
     u.fix = [] ∧ u.v = t.v ∧ u.s = t.s ∧ u.p = t.p
       ∧ u.fpctl = (if r = .fpctl then x &&& 0x11F else t.fpctl)
       ∧ u.fpstat = (if r = .fpstat then x &&& 0x1F else t.fpstat)
       ∧ u.sbthr = (if r = .sbthr then (x &&& 0x80000000) ||| BitVec.ofNat 32 (min 24 (x.toNat % 64)) else t.sbthr)
       ∧ u.amask = (if r = .trapn then x.getLsbD 30 else t.amask) ∧ u.nopre = (if r = .trapn then x.getLsbD 29 else t.nopre)
       ∧ u.cause = (if r = .trapcause then x.extractLsb' 0 8 else t.cause) ∧ u.datum = (if r = .trapdata
           ∧ t.cause ∉ ([0x04, 0x09, 0x0A, 0x0B, 0x0C, 0x0D, 0x0E, 0x10, 0x12, 0x15, 0x16] : List (BitVec 8)) then x else t.datum)
       ∧ (∀ l, l < 1024 → u.trapmask.getLsbD l = (t.trapmask.getLsbD l
           && !(r == .trapmask && decide (l / 32 = w) && x.getLsbD (l % 32))))
       ∧ u.trappc.extractLsb' 0 32 = (if r = .trappcLo then x else t.trappc.extractLsb' 0 32)
       ∧ u.trappc.extractLsb' 32 32 = (if r = .trappcHi then x else t.trappc.extractLsb' 32 32)
       ∧ (r = .cpyerr → u.cpyerr.getLsbD 31 = (t.cpyerr.getLsbD 31 && !x.getLsbD 31) ∧ u.cpyerr &&& 0x7FFFFFFF = x &&& 0x073FFC00)
       ∧ (r ≠ .cpyerr → u.cpyerr = t.cpyerr)
       ∧ u.replays = (if r = .replays then x else t.replays)
       ∧ u.rndkey.extractLsb' 0 32 = (if r = .rndkeyLo then x else t.rndkey.extractLsb' 0 32)
       ∧ u.rndkey.extractLsb' 32 32 = (if r = .rndkeyHi then x else t.rndkey.extractLsb' 32 32))
  ∧ ∀ (s : State) (n : Nat) (x : Word), s.cur.fix = [⟨n, .sys .balctl [(0, x)]⟩] → n ≤ s.landAt s.cur.core →
     let b := s.settle.blk
     b.t1 = min s.blk.t1 (max 1 (x.toNat / 2 ^ 16 % 32)) ∧ b.t2 = min s.blk.t2 (max 1 (x.toNat / 2 ^ 21 % 32))
       ∧ b.auto = x.getLsbD 4 ∧ b.alvl = x.toNat % 16 ∧ b.hold = s.blk.hold ∧ b.t1win = s.blk.t1win ∧ b.t2win = s.blk.t2win

/-! ### Traps (R204 to R214) -/

/-- R205, R207: a team whose path is empty and that holds records takes the oldest: it enters the handler of its launch. R47,
R205: a pending course imbalance trap becomes a record of cause 0x12 at the next boundary with AMASK 0: the whole path, at its
header where it waits at one (R96), its datum the joint and the mismatch; it is taken at once where nothing older is held. -/
def Obligations.PendingTrapsTaken : Prop :=
  (∀ (s : State) (r : TrapRec) (rest : List TrapRec), Homed s → s.cur.st = .resident → s.blk.kill = none → s.cur.window = none →
     s.cur.dkill = none → s.blk.leaving ≠ .flush → s.cur.hmode = false → s.cur.apend = none → s.cur.mask = 0 → s.cur.held = [] →
     s.cur.recs = r :: rest → s.cur.d.traph ≠ 0 →
       ∃ t, exec (.trapTake s.cur.uid) s = .next t ∧ Entered s.cur t.cur r ∧ OutsideKept s t)
  ∧ (∀ (s : State) (d : Word), Homed s → s.cur.st = .resident → s.blk.kill = none → s.cur.window = none → s.cur.hmode = false →
     s.cur.dkill = none → s.blk.leaving ≠ .flush → s.cur.apend = some d → s.cur.amask = false →
     s.cur.recs = [] → s.cur.held = [] → s.cur.mask ≠ 0 → s.cur.d.traph ≠ 0 →
       ∃ t, exec (.trapTake s.cur.uid) s = .next t ∧ t.cur.apend = none ∧ t.cur.hmode = true ∧ t.cur.cause = 0x12
         ∧ t.cur.datum = d ∧ t.cur.mask = s.cur.mask ∧ t.cur.stack = s.cur.stack ∧ t.cur.v = s.cur.v ∧ OutsideKept s t
         ∧ t.cur.trappc = (match s.cur.wait with
             | .clause h _ _ _ _ _ => h
             | _ => s.cur.at_.pc))

/-- R213: TRAP records the lanes that its guard selects with cause 0x13 and the code, and takes the record at once; the path's
other lanes wait behind it. With no lane selected it only takes its time. R214: the record is taken at
once, the path's other lanes wait at the next instruction, and RTT.RES of the record goes on behind the TRAP, as RTT.SKIP does. -/
def Obligations.TrapInstructionTraps : Prop :=
  (∀ (s : State) (y : BitVec 3) (g : Guard) (code : BitVec 8), Issues s (.trap y g code) g →
    let e := selectedLanes s.settle.cur s.now g
    (e ≠ 0 → TrapsHere s →
        ∃ t, exec (.trap y g code) s = .next t
          ∧ Entered { s.settle.cur with at_ := nextPt s.cur.at_ (.trap y g code), mask := s.settle.cur.mask &&& ~~~ e
                                        recs := t.cur.recs } t.cur
              ⟨s.cur.at_, nextPt s.cur.at_ (.trap y g code), 0x13, code.zeroExtend 32, e⟩
          ∧ t.cur.recs = [⟨s.cur.at_, nextPt s.cur.at_ (.trap y g code), 0x13, code.zeroExtend 32, e⟩] ∧ OutsideKept s t)
      ∧ (e = 0 → ∃ t, exec (.trap y g code) s = .next t ∧ t.cur.at_ = nextPt s.cur.at_ (.trap y g code)
          ∧ RegistersKept s.settle.cur t.cur ∧ OutsideKept s t))
  ∧ ∀ (s : State) (y : BitVec 3) (r : TrapRec) (i : Instr), (i = .rttRes y ∨ i = .rttSkip y) → Issues s i Guard.pt →
    s.settle.cur.hmode = true → s.settle.cur.recs = [r] → r.cause = 0x13 → s.settle.cur.base ≤ s.settle.cur.stack.length →
    r.mask &&& s.settle.cur.trapmask ≠ 0 → s.settle.cur.ended &&& (r.mask &&& s.settle.cur.trapmask) = 0 →
      ∃ t, exec i s = .next t ∧ t.cur.hmode = false ∧ t.cur.at_ = r.next ∧ t.cur.mask = r.mask &&& s.settle.cur.trapmask

/-- R212, R214: RTT returns from the handler: AMASK is as before the trap, the record is gone, lanes cleared from TRAPMASK end.
With no other record held, RTT.RES goes on with the kept lanes at the trapped instruction (behind it for a TRAP, at TRAPPC where
that has been changed), RTT.SKIP behind it; RTT.KILL ends the lanes of its record, and the path that waited below goes on. With
another record held, RTT enters the handler again with the next one. -/
def Obligations.RttReturns : Prop :=
  (∀ (s : State) (y : BitVec 3) (r : TrapRec) (k : RttKind) (i : Instr),
     ((k = .res ∧ i = .rttRes y) ∨ (k = .skip ∧ i = .rttSkip y)) → Issues s i Guard.pt → s.settle.cur.hmode = true →
     s.settle.cur.recs = [r] → s.settle.cur.base ≤ s.settle.cur.stack.length → r.mask &&& s.settle.cur.trapmask ≠ 0 →
     s.settle.cur.ended &&& (r.mask &&& s.settle.cur.trapmask) = 0 →
       ∃ t, exec i s = .next t ∧ t.cur.hmode = false ∧ t.cur.amask = s.settle.cur.savedAmask ∧ t.cur.recs = []
         ∧ t.cur.mask = r.mask &&& s.settle.cur.trapmask
         ∧ t.cur.ended = s.settle.cur.ended ||| (r.mask &&& ~~~ (r.mask &&& s.settle.cur.trapmask))
         ∧ t.cur.at_ = (if k = .skip ∨ r.cause = 0x13 then r.next
             else if s.settle.cur.trappc = r.start.pc then r.start else ⟨s.settle.cur.trappc, 0⟩)
         ∧ t.cur.stack = s.settle.cur.stack.drop (s.settle.cur.stack.length - s.settle.cur.base)
         ∧ t.cur.v = s.settle.cur.v ∧ t.cur.s = s.settle.cur.s ∧ t.cur.p = s.settle.cur.p ∧ OutsideKept s t)
  ∧ (∀ (s : State) (y : BitVec 3) (r : TrapRec) (e : StackEntry) (rest : List StackEntry), Issues s (.rttKill y) Guard.pt →
     s.settle.cur.hmode = true → s.settle.cur.recs = [r] → s.settle.cur.base = s.settle.cur.stack.length →
     s.settle.cur.stack = e :: rest → e.mask &&& ~~~ (s.settle.cur.ended ||| r.mask) ≠ 0 →
       ∃ t, exec (.rttKill y) s = .next t ∧ t.cur.hmode = false ∧ t.cur.recs = []
         ∧ t.cur.ended = s.settle.cur.ended ||| r.mask ∧ t.cur.at_ = e.start
         ∧ t.cur.mask = e.mask &&& ~~~ (s.settle.cur.ended ||| r.mask) ∧ t.cur.stack = rest ∧ OutsideKept s t)
  ∧ (∀ (s : State) (y : BitVec 3) (r r2 : TrapRec) (rest : List TrapRec), Issues s (.rttRes y) Guard.pt →
     s.settle.cur.hmode = true → s.settle.cur.recs = r :: r2 :: rest →
       ∃ t, exec (.rttRes y) s = .next t ∧ t.cur.hmode = true ∧ t.cur.recs = r2 :: rest
         ∧ t.cur.cause = BitVec.ofNat 8 r2.cause ∧ t.cur.datum = r2.datum ∧ t.cur.trapmask = r2.mask ∧ t.cur.mask = r2.mask
         ∧ t.cur.trappc = r2.start.pc ∧ t.cur.at_ = ⟨s.settle.cur.d.traph, 0⟩ ∧ OutsideKept s t)

/-- The global access instructions: guard, kind, size in bytes, first address register and offset (R254, R255). -/
def accessForm : Instr → Option (Guard × AccKind × Nat × Reg × BitVec 10)
  | .ld _ g _ o size _ _ off => some (g, .load, ldBytes size, o.a, off)
  | .st _ g _ a _ size _ _ off => some (g, .store, stBytes size, a, off)
  | .atom _ g _ _ a _ _ w64 _ _ off => some (g, .atomic, if w64 then 8 else 4, a, off)
  | .cas _ g _ _ a _ _ w64 _ _ _ off => some (g, .atomic, if w64 then 8 else 4, a, off)
  | _ => none

/-- A block killed by a trap in its handler (R211): a kill with cause, place, datum and grade, and nothing else done. -/
structure HandlerKilled (s t : State) (m : Mem) (c : Nat) (d : Word) : Prop where
  kill : t.blk.kill = some ⟨c, 0, killGrade s.cur.d c, s.cur.at_.pc, d, s.srcid s.cur, true⟩
  mem : t.mem = m
  vregs : t.cur.v = s.settle.cur.v

/-- A team in its handler, whose block a trap kills at once. -/
structure InHandler (s : State) : Prop where
  homed : Homed s
  noWindow : s.cur.window = none
  noReport : s.settle.cur.reportsFirst = false
  hmode : s.settle.cur.hmode = true
  alive : s.blk.kill = none
  ordinary : s.blk.handler = false
  mode : s.cur.d.dmode = false

/-- R212: RTT outside the handler traps with cause 0x03. R100, R113: any instruction with an operand outside its kind traps every
active lane with cause 0x03 and word 0, and nothing else changes. R93, R104: an instruction whose tag is set traps with cause 0x04
(reason 2), and with the checking scoreboard on so does one that reads a v register with a result on its way (reason 0), with the
register in TRAPDATA; nothing else changes. R211: in the handler an instruction that it may not issue, a JOIN without an entry with
a lane above the base, and every other trap (an operand outside its kind, a set tag, a TRAP, a lane's address) kill the block at
once with the cause, place and datum of the trap. (In D-mode at the commit, log 121.) -/
def Obligations.ForbiddenUsesTrap : Prop :=
  (∀ (s : State) (y : BitVec 3) (i : Instr), (i = .rttRes y ∨ i = .rttSkip y ∨ i = .rttKill y) → Issues s i Guard.pt →
     TrapsHere s → ∃ t, exec i s = .next t ∧ TrappedAll s t 0x03 (encodeWord0 i))
  ∧ (∀ (s : State) (i : Instr), badOperands s.settle.cur i = true → TrapsHere s →
       ∃ t, exec i s = .next t ∧ TrappedAll s t 0x03 (encodeWord0 i))
  ∧ (∀ (s : State) (i : Instr) (g : Guard) (tag : Tag) (f : Team → Nat → LaneRes), taggedSpec i = some (g, tag, f) → TrapsHere s →
     badOperands s.settle.cur i = false → s.settle.cur.tags.getLsbD (tagIndex tag) = true →
       ∃ t, exec i s = .next t ∧ TrappedAll s t 0x04 (BitVec.ofNat 32 (2 * 512 + 3 * 128 + tagIndex tag)))
  ∧ (∀ (s : State) (y : BitVec 3) (g : Guard) (o : Ops) (m : AddMode) (n l : Nat) (x : VCell), let i := Instr.iaddLong y g o m false
     TrapsHere s → badOperands s.settle.cur i = false → s.settle.cur.fpctl.getLsbD 8 = true →
     s.settle.cur.fix = [⟨n, .v o.a.toNat [(l, x)]⟩] → s.settle.cur.spad = [] → s.now + 32 ≤ n → l < 1024 → l / 32 ∈ activeWords s.settle.cur.mask →
       ∃ t, exec i s = .next t ∧ TrappedAll s t 0x04 (BitVec.ofNat 32 o.a.toNat))
  ∧ (∀ (s : State) (i : Instr), (∃ y b w, i = .barArr y b w ∨ i = .barSync y b w ∨ i = .barWait y b) ∨ (∃ y a b, i = .reorder y a b)
       ∨ (∃ y a b c k r, i = .copy y a b c k r) ∨ (∃ y c n o, i = .yieldC y c n o) ∨ (∃ y g, i = .exit y g) ∨ (∃ y, i = .qend y) →
     InHandler s → ∃ t, exec i s = .next t ∧ HandlerKilled s t s.mem 0x03 (encodeWord0 i))
  ∧ (∀ (s : State) (y : BitVec 3) (own below : List StackEntry), Issues s (.join y) Guard.pt → InHandler s →
     s.settle.cur.stack = own ++ below → below.length = s.settle.cur.base → (∀ e ∈ own, e.mask &&& ~~~ s.settle.cur.ended = 0) →
       ∃ t, exec (.join y) s = .next t ∧ HandlerKilled s t s.mem 0x03 (encodeWord0 (.join y)))
  ∧ (∀ (s : State) (i : Instr), InHandler s → badOperands s.settle.cur i = true → handlerForbids i = false →
       ∃ t, exec i s = .next t ∧ HandlerKilled s t s.mem 0x03 (encodeWord0 i))
  ∧ (∀ (s : State) (i : Instr) (g : Guard) (tag : Tag) (f : Team → Nat → LaneRes), taggedSpec i = some (g, tag, f) → InHandler s →
     badOperands s.settle.cur i = false → s.settle.cur.tags.getLsbD (tagIndex tag) = true →
       ∃ t, exec i s = .next t ∧ HandlerKilled s t s.mem 0x04 (BitVec.ofNat 32 (2 * 512 + 3 * 128 + tagIndex tag)))
  ∧ (∀ (s : State) (y : BitVec 3) (g : Guard) (code : BitVec 8), Issues s (.trap y g code) g → InHandler s →
     selectedLanes s.settle.cur s.now g ≠ 0 →
       ∃ t, exec (.trap y g code) s = .next t ∧ HandlerKilled s t s.mem 0x13 (code.zeroExtend 32))
  ∧ ∀ (s : State) (i : Instr) (g : Guard) (k : AccKind) (n : Nat) (a : Reg) (off : BitVec 10) (lk : Look) (h : Hit),
     accessForm i = some (g, k, n, a, off) → Issues s i g → InHandler s →
     lk = s.settle.look k n (laneAddrs s.settle.cur s.now i g fun t l => t.rvPair a.toNat l + off.signExtend 64) →
     lk.dead = none → lk.viol = none → lk.hits = [h] →
       ∃ t, exec i s = .next t ∧ HandlerKilled s t lk.st.mem h.cause h.datum

/-- R206: where the launch names no handler, taking a trap kills the team's block: by the event, where the path is empty, and by a
TRAP, which is taken at once. The team issues no more. The fault record, posted when the block ends, carries the cause of the
oldest record. (A handler team's block is killed with cause 0x16, R87.) In D-mode the block is killed at the commit of the quantum,
before anything that its teams hold is performed, and of several such traps in a block that of the team of lowest G is the record's:
log 121, the model's reading of R274. -/
def Obligations.TrapWithoutHandlerKills : Prop :=
  (∀ (s : State) (r : TrapRec) (rest : List TrapRec), Homed s → s.cur.st = .resident → s.blk.kill = none → s.blk.handler = false →
    s.cur.window = none → s.cur.hmode = false → s.cur.apend = none → s.cur.mask = 0 → s.cur.held = [] → s.cur.recs = r :: rest →
    s.cur.d.traph = 0 → s.cur.dkill = none → s.blk.leaving ≠ .flush →
      let k : KillInfo := ⟨r.cause, 0, killGrade s.cur.d r.cause, r.start.pc, r.datum, s.srcid s.cur, true⟩
      ∃ t, exec (.trapTake s.cur.uid) s = .next t ∧ t.ready t.cur = false ∧ t.mem = s.mem
        ∧ (s.cur.d.dmode = false → t.blk.kill = some k)
        ∧ (s.cur.d.dmode = true → t.blk.kill = none ∧ t.cur.dkill = some k ∧ t.cur.qdone = true))
  ∧ (∀ (s : State) (lid : Nat) (before after : List Team) (u : Team) (k : KillInfo), s.grid lid = before ++ u :: after →
    u.dkill = some k → (∀ w ∈ before, w.bid ≠ u.bid ∨ w.dkill = none) →
      ((s.killTrapped lid).block u.bid).bind (·.kill) = some k)
  ∧ (∀ (s : State) (y : BitVec 3) (g : Guard) (code : BitVec 8), Issues s (.trap y g code) g → Homed s → s.cur.st = .resident →
    s.blk.kill = none → s.blk.handler = false → s.settle.cur.hmode = false → s.settle.cur.recs = [] → s.cur.d.dmode = false →
    s.settle.cur.d.traph = 0 → selectedLanes s.settle.cur s.now g ≠ 0 →
      ∃ t, exec (.trap y g code) s = .next t ∧ t.ready t.cur = false ∧ t.mem = s.mem
        ∧ t.blk.kill = some ⟨0x13, 0, killGrade s.cur.d 0x13, s.cur.at_.pc, code.zeroExtend 32, s.srcid s.cur, true⟩)
  ∧ ∀ (s : State) (b : Block) (k : KillInfo), s.block b.bid = some b → b.kill = some k → k.report = true → b.d.dmode = false →
    (∀ u ∈ s.blockTeams b.bid, u.stopped = true) →
      ∃ t r, exec (.blockEnd b.bid) s = .next t ∧ t.block b.bid = none ∧ t.recent.head? = some r
        ∧ r.code = faultCode k.grade k.unitc k.cause

/-! ### Memory (R232 to R274) -/

/-- What the checks of an access instruction's lanes find where every lane is aligned and translates (R253): each selected lane
with its address, the machine after the walks. -/
def Reaches (s : State) (i : Instr) (g : Guard) (k : AccKind) (n : Nat) (addr : Team → Nat → DWord) (lk : Look) : Prop :=
  s.settle.look k n (laneAddrs s.settle.cur s.now i g addr) = lk ∧ lk.hits = [] ∧ lk.held = [] ∧ lk.dead = none ∧ lk.viol = none

/-- The accesses that one lane's load makes: lane, address and first register; 16 bytes are two accesses of 8 (R252). -/
def loadParts (size : LdSize) (d : Nat) (r : Req) : List (Nat × Nat × Nat) :=
  if size = .b128 then [(r.lane, r.pa, d), (r.lane, r.pa + 8, d + 2)] else [(r.lane, r.pa, d)]

/-- R254: LD: on a team outside D-mode whose lanes all translate, each selected lane has an access on its way under the
instruction's tag and place in program order, for its address, size, order and scope: to be sent, or performed at once with
the bytes that the team's own store buffer holds. R252: a load of 16 bytes is two accesses of 8. The tag is set while a lane is
to come. Memory is as the walks leave it (they may set A bits), and where every translation is cached nothing outside the team
changes. R269: a D-mode load is performed at once, with the bytes that the team reads: of its own held stores, else the memory's. -/
def Obligations.LoadBegins : Prop :=
  (∀ (s : State) (y : BitVec 3) (g : Guard) (tag : Tag) (o : OpsDA) (size : LdSize) (ord : MemOrd) (sc : Scope) (off : BitVec 10)
      (lk : Look), let i := Instr.ld y g tag o size ord sc off
    Issues s i g → s.cur.d.dmode = false → lk.ok ≠ [] →
    Reaches s i g .load (ldBytes size) (fun t l => t.rvPair o.a.toNat l + off.signExtend 64) lk →
      ∃ t, exec i s = .next t ∧ t.cur.at_ = nextPt s.cur.at_ i ∧ t.cur.ins = s.settle.cur.ins + 1
        ∧ t.cur.tags = s.settle.cur.tags ||| tagBit (tagIndex tag)
        ∧ (∃ new, t.cur.accesses = s.settle.cur.accesses ++ new
            ∧ new.map (fun a => (a.lane, a.pa, a.d)) = lk.ok.flatMap (loadParts size o.d.toNat)
            ∧ ∀ a ∈ new, a.tag = tagIndex tag ∧ a.ins = s.settle.cur.ins ∧ a.op = .load (if size = .b128 then .b64 else size)
                ∧ a.bytes = min 8 (ldBytes size) ∧ a.ord = ord ∧ a.scope = sc
                ∧ (a.st = .unsent ∨ a.st = .performed ∧ s.settle.cur.forward a.ins a.spot = some a.x))
        ∧ RegistersKept s.settle.cur t.cur ∧ t.mem = lk.st.mem ∧ (lk.st = s.settle → OutsideKept s t))
  ∧ ∀ (s : State) (y : BitVec 3) (g : Guard) (tag : Tag) (o : OpsDA) (size : LdSize) (ord : MemOrd) (sc : Scope) (off : BitVec 10)
      (lk : Look), let i := Instr.ld y g tag o size ord sc off
    Issues s i g → s.settle.cur.d.dmode = true → dmodeOrder s.settle.cur ord sc = false → dmodeReason s.settle.cur lk.ok = none →
    Reaches s i g .load (ldBytes size) (fun t l => t.rvPair o.a.toNat l + off.signExtend 64) lk →
    (∀ r ∈ lk.ok, lk.st.badData r.pa (ldBytes size) = false) →
      ∃ t new, exec i s = .next t ∧ t.cur.at_ = nextPt s.cur.at_ i ∧ t.cur.accesses = s.settle.cur.accesses ++ new
        ∧ new.map (fun a => (a.lane, a.pa, a.d)) = lk.ok.flatMap (loadParts size o.d.toNat)
        ∧ (∀ a ∈ new, a.st = .performed ∧ a.x = numOf ((List.range (min 8 (ldBytes size))).map fun k =>
            (s.settle.cur.heldByte s.settle.cur.ins (a.pa + k)).getD (lk.st.byte (a.pa + k))))
        ∧ t.cur.dheld = s.settle.cur.dheld ∧ RegistersKept s.settle.cur t.cur ∧ t.mem = lk.st.mem

/-- R255 to R257: ATOM and CAS: each selected lane's read and write is one access to be sent, with the operands that its pass
reads. R269: a D-mode team holds each back until the commit, and sends nothing. -/
def Obligations.AtomicBegins : Prop :=
  (∀ (s : State) (y : BitVec 3) (g : Guard) (tag : Tag) (d a b : Reg) (op : AOp) (w64 : Bool) (ord : MemOrd) (sc : Scope)
      (off : BitVec 10) (lk : Look), let i := Instr.atom y g tag d a b op w64 ord sc off
    Issues s i g → s.cur.d.dmode = false →
    Reaches s i g .atomic (if w64 then 8 else 4) (fun t l => t.rvPair a.toNat l + off.signExtend 64) lk →
      ∃ t new, exec i s = .next t ∧ t.cur.at_ = nextPt s.cur.at_ i ∧ t.cur.accesses = s.settle.cur.accesses ++ new
        ∧ new.map (fun x => (x.lane, x.pa)) = lk.ok.map (fun r => (r.lane, r.pa))
        ∧ (∀ x ∈ new, x.op = .atom op w64 ∧ x.ord = ord ∧ x.scope = sc ∧ x.d = d.toNat ∧ x.st = .unsent
            ∧ x.b = (s.settle.viewOf i g x.lane).operand w64 b x.lane)
        ∧ RegistersKept s.settle.cur t.cur ∧ t.mem = lk.st.mem ∧ (lk.st = s.settle → OutsideKept s t))
  ∧ (∀ (s : State) (y : BitVec 3) (g : Guard) (tag : Tag) (d a b : Reg) (op : AOp) (w64 : Bool) (ord : MemOrd) (sc : Scope)
      (off : BitVec 10) (lk : Look), let i := Instr.atom y g tag d a b op w64 ord sc off
    Issues s i g → s.settle.cur.d.dmode = true → dmodeOrder s.settle.cur ord sc = false → dmodeReason s.settle.cur lk.ok = none →
    Reaches s i g .atomic (if w64 then 8 else 4) (fun t l => t.rvPair a.toNat l + off.signExtend 64) lk →
      ∃ t, exec i s = .next t ∧ t.cur.at_ = nextPt s.cur.at_ i ∧ t.cur.accesses = s.settle.cur.accesses
        ∧ (∀ x ∈ s.settle.cur.dheld, x ∈ t.cur.dheld) ∧ t.cur.dheld.length = s.settle.cur.dheld.length + lk.ok.length
        ∧ (∀ r ∈ lk.ok, ∃ c, DHeld.atom s.settle.cur.ins (tagIndex tag) r.lane (.atom op w64) d.toNat r.spot r.pa
            ((s.settle.viewOf i g r.lane).operand w64 b r.lane) c ∈ t.cur.dheld)
        ∧ RegistersKept s.settle.cur t.cur ∧ t.mem = lk.st.mem)
  ∧ (∀ (s : State) (y : BitVec 3) (g : Guard) (tag : Tag) (d a b c : Reg) (w64 : Bool) (fail : FailOrd) (ord : MemOrd)
      (sc : Scope) (off : BitVec 10) (lk : Look), let i := Instr.cas y g tag d a b c w64 fail ord sc off
    Issues s i g → s.settle.cur.d.dmode = true → dmodeOrder s.settle.cur ord sc = false → dmodeReason s.settle.cur lk.ok = none →
    Reaches s i g .atomic (if w64 then 8 else 4) (fun t l => t.rvPair a.toNat l + off.signExtend 64) lk →
      ∃ t, exec i s = .next t ∧ t.cur.at_ = nextPt s.cur.at_ i ∧ t.cur.accesses = s.settle.cur.accesses
        ∧ (∀ x ∈ s.settle.cur.dheld, x ∈ t.cur.dheld) ∧ t.cur.dheld.length = s.settle.cur.dheld.length + lk.ok.length
        ∧ (∀ r ∈ lk.ok, DHeld.atom s.settle.cur.ins (tagIndex tag) r.lane (.cas w64) d.toNat r.spot r.pa
            ((s.settle.viewOf i g r.lane).operand w64 b r.lane) ((s.settle.viewOf i g r.lane).operand w64 c r.lane) ∈ t.cur.dheld)
        ∧ RegistersKept s.settle.cur t.cur ∧ t.mem = lk.st.mem)
  ∧ ∀ (s : State) (y : BitVec 3) (g : Guard) (tag : Tag) (d a b c : Reg) (w64 : Bool) (fail : FailOrd) (ord : MemOrd)
      (sc : Scope) (off : BitVec 10) (lk : Look), let i := Instr.cas y g tag d a b c w64 fail ord sc off
    Issues s i g → s.cur.d.dmode = false →
    Reaches s i g .atomic (if w64 then 8 else 4) (fun t l => t.rvPair a.toNat l + off.signExtend 64) lk →
      ∃ t new, exec i s = .next t ∧ t.cur.at_ = nextPt s.cur.at_ i ∧ t.cur.accesses = s.settle.cur.accesses ++ new
        ∧ new.map (fun x => (x.lane, x.pa)) = lk.ok.map (fun r => (r.lane, r.pa))
        ∧ (∀ x ∈ new, x.op = .cas w64 ∧ x.ord = ord ∧ x.fail = fail ∧ x.scope = sc ∧ x.d = d.toNat ∧ x.st = .unsent
            ∧ x.b = (s.settle.viewOf i g x.lane).operand w64 b x.lane ∧ x.c = (s.settle.viewOf i g x.lane).operand w64 c x.lane)
        ∧ RegistersKept s.settle.cur t.cur ∧ t.mem = lk.st.mem ∧ (lk.st = s.settle → OutsideKept s t)

/-- Every byte of a lane's store is held for its place in memory, by an entry of the buffer or by a store that waits for room. -/
abbrev Buffered (t : Team) (r : Req) (bs : List Byte) : Prop :=
  ∀ k, k < bs.length → (∃ e ∈ t.stores, (r.spot.home + k, bs.getD k 0) ∈ e.bytes)
    ∨ ∃ w ∈ t.waiting, w.pa = r.pa ∧ w.spot = r.spot ∧ w.bytes = bs

/-- No two of some accesses of `n` bytes overlap. -/
abbrev Apart (n : Nat) (rs : List Req) : Prop :=
  rs.Pairwise fun a b => a.spot.home + n ≤ b.spot.home ∨ b.spot.home + n ≤ a.spot.home

/-- R254, R264: ST: every lane's bytes are held for its place in memory (lanes that do not overlap), and memory is as the walks
leave it, until the entries perform. R253: of lanes that write one byte, in an empty buffer and by its direct address, the entries
hold that of the highest LANE.
R269: a D-mode team holds each lane's store back until the commit, and buffers nothing. -/
def Obligations.StoreIsBuffered : Prop :=
  (∀ (s : State) (y : BitVec 3) (g : Guard) (tag : Tag) (a b : Reg) (size : StSize) (ord : MemOrd) (sc : Scope) (off : BitVec 10)
      (lk : Look), let i := Instr.st y g tag a b size ord sc off
    Issues s i g → s.cur.d.dmode = false → Apart (stBytes size) lk.ok →
    Reaches s i g .store (stBytes size) (fun t l => t.rvPair a.toNat l + off.signExtend 64) lk →
      ∃ t, exec i s = .next t ∧ t.cur.at_ = nextPt s.cur.at_ i ∧ t.cur.ins = s.settle.cur.ins + 1
        ∧ (∀ r ∈ lk.ok, Buffered t.cur r ((s.settle.viewOf i g r.lane).storeData b.toNat (stBytes size) r.lane))
        ∧ RegistersKept s.settle.cur t.cur ∧ t.mem = lk.st.mem ∧ t.blk.spad = s.blk.spad ∧ (lk.st = s.settle → OutsideKept s t))
  ∧ (∀ (s : State) (y : BitVec 3) (g : Guard) (tag : Tag) (a b : Reg) (size : StSize) (ord : MemOrd) (sc : Scope) (off : BitVec 10)
      (lk : Look), let i := Instr.st y g tag a b size ord sc off
    let n := stBytes size
    Issues s i g → s.cur.d.dmode = false → s.settle.cur.stores = [] → s.settle.cur.waiting = [] →
    Reaches s i g .store n (fun t l => t.rvPair a.toNat l + off.signExtend 64) lk →
    (∀ r ∈ lk.ok, r.dev = false ∧ r.spot.home = r.pa) → (distinct (lk.ok.map fun r => r.pa / 256)).length ≤ Config.maxStoreBuffer →
      ∃ t, exec i s = .next t ∧ t.cur.waiting = []
        ∧ ∀ r ∈ lk.ok, ∀ k, k < n → (∀ q ∈ lk.ok, q.pa ≤ r.pa + k → r.pa + k < q.pa + n → q.lane ≤ r.lane) →
            let x := ((s.settle.viewOf i g r.lane).storeData b.toNat n r.lane).getD k 0
            (∃ e ∈ t.cur.stores, (r.pa + k, x) ∈ e.bytes)
              ∧ ∀ e ∈ t.cur.stores, ∀ c ∈ e.bytes, c.1 = r.pa + k → c.2 = x)
  ∧ ∀ (s : State) (y : BitVec 3) (g : Guard) (tag : Tag) (a b : Reg) (size : StSize) (ord : MemOrd) (sc : Scope) (off : BitVec 10)
      (lk : Look), let i := Instr.st y g tag a b size ord sc off
    Issues s i g → s.settle.cur.d.dmode = true → dmodeOrder s.settle.cur ord sc = false → dmodeReason s.settle.cur lk.ok = none →
    Reaches s i g .store (stBytes size) (fun t l => t.rvPair a.toNat l + off.signExtend 64) lk →
      ∃ t, exec i s = .next t ∧ t.cur.at_ = nextPt s.cur.at_ i ∧ t.cur.stores = s.settle.cur.stores
        ∧ t.cur.waiting = s.settle.cur.waiting
        ∧ (∀ x ∈ s.settle.cur.dheld, x ∈ t.cur.dheld) ∧ t.cur.dheld.length = s.settle.cur.dheld.length + lk.ok.length
        ∧ (∀ r ∈ lk.ok, DHeld.store ⟨s.settle.cur.ins, tagIndex tag, r.lane, r.spot, r.pa,
            (s.settle.viewOf i g r.lane).storeData b.toNat (stBytes size) r.lane, ord, sc, r.dev⟩ ∈ t.cur.dheld)
        ∧ RegistersKept s.settle.cur t.cur ∧ t.mem = lk.st.mem

/-- The scratchpad instructions: guard, order, address register, offset and size in bytes (R254, R255). -/
def spadForm : Instr → Option (Guard × MemOrd × Reg × BitVec 15 × Nat)
  | .lds _ g _ o size off => some (g, .plain, o.a, off, ldBytes size)
  | .sts _ g _ a _ size off => some (g, .plain, a, off, stBytes size)
  | .atoms _ g _ _ a _ _ w64 ord off => some (g, ord, a, off, if w64 then 8 else 4)
  | _ => none

/-- The offset of lane `l` of a scratchpad instruction (R253). -/
def spadOffset (t : Team) (a : Reg) (off : BitVec 15) (l : Nat) : Nat := ((t.rv a.toNat l).val + off.signExtend 32).toNat

/-- What a team keeps, and what is kept outside it, when lanes of an instruction trap and others go on (R204, R205): the traps
are recorded, their lanes leave the path and the path goes on, or, with no lane left, the handler is entered. -/
structure LanesTrapped (s t : State) (i : Instr) (hs : List Hit) : Prop where
  recs : t.cur.recs = hs.map fun h => ⟨s.cur.at_, nextPt s.cur.at_ i, h.cause, h.datum, h.mask⟩
  goes : s.settle.cur.mask &&& ~~~ hitMask hs ≠ 0 → t.cur.at_ = nextPt s.cur.at_ i
    ∧ t.cur.mask = s.settle.cur.mask &&& ~~~ hitMask hs ∧ t.cur.hmode = false
  taken : s.settle.cur.mask &&& ~~~ hitMask hs = 0 → s.settle.cur.d.traph ≠ 0 → t.cur.hmode = true
    ∧ t.cur.at_ = ⟨s.settle.cur.d.traph, 0⟩ ∧ some t.cur.cause = hs.head?.map (fun h => BitVec.ofNat 8 h.cause)
    ∧ some t.cur.mask = hs.head?.map (·.mask)
  vregs : t.cur.v = s.settle.cur.v
  sregs : t.cur.s = s.settle.cur.s
  preds : t.cur.p = s.settle.cur.p

/-- R253: a lane of LD, ST, ATOM or CAS whose address is not a multiple of the access's size is recorded with cause 0x05 and the
address's low half, and is not among those that go on; one whose page does not permit the access, or whose translation faults in
an ASID that does not recover, with cause 0x08 (R248, R249); in one that recovers it is held. The recorded lanes leave the path;
only the others' accesses and stores go on. R249: a held lane waits under a token of its own. R234: one that passes goes on with
its address, and its bytes lie at one place by either name of the device's own memory. R237, R253: a scratchpad lane that is
misaligned is recorded with cause 0x05, one outside the block's scratchpad with cause 0x06, and its offset; the scratchpad is as
before. -/
def Obligations.BadAddressesTrap : Prop :=
  ((∀ (s : State) (k : AccKind) (n l : Nat) (va : DWord),
      (va.toNat % n ≠ 0 → s.look k n [(l, va)] = ⟨s, [], [⟨0x05, va.extractLsb' 0 32, laneBit l⟩], [], none, none⟩)
        ∧ (∀ u, va.toNat % n = 0 → s.xlate va k n = (u, .refused) →
            s.look k n [(l, va)] = ⟨u, [], [⟨0x08, va.extractLsb' 0 32, laneBit l⟩], [], none, none⟩)
        ∧ (∀ u r, va.toNat % n = 0 → s.xlate va k n = (u, .fault r) → (u.asid u.cur.d.asid).recov = false →
            s.look k n [(l, va)] = ⟨u, [], [⟨0x08, va.extractLsb' 0 32, laneBit l⟩], [], none, none⟩)
        ∧ ∀ u r, va.toNat % n = 0 → s.xlate va k n = (u, .fault r) → (u.asid u.cur.d.asid).recov = true →
            s.look k n [(l, va)] = ⟨u, [], [], [(l, va, r)], none, none⟩)
    ∧ (∀ (s u : State) (k : AccKind) (n l pa : Nat) (va : DWord) (dev : Bool), va.toNat % n = 0 → s.xlate va k n = (u, .ok pa dev) →
        ∃ x, s.look k n [(l, va)] = ⟨u, [⟨l, x, pa, dev⟩], [], [], none, none⟩ ∧ x.va = va ∧ x.n = n ∧ x.home = homeOf u.devno pa)
    ∧ ∀ (s : State) (k : AccKind) (n : Nat) (xs : List (Nat × DWord)), (xs.map (·.1)).Nodup → (∀ x ∈ xs, x.1 < 1024) →
      ∀ x ∈ xs, x.2.toNat % n ≠ 0 →
        (∃ h ∈ (s.look k n xs).hits, h.cause = 0x05 ∧ h.mask.getLsbD x.1 = true) ∧ ∀ r ∈ (s.look k n xs).ok, r.lane ≠ x.1)
  ∧ (∀ (s : State) (i : Instr) (g : Guard) (k : AccKind) (n : Nat) (a : Reg) (off : BitVec 10) (lk : Look),
      accessForm i = some (g, k, n, a, off) → Issues s i g → s.settle.cur.d.dmode = false → s.settle.cur.hmode = false →
      s.settle.cur.recs = [] → lk = s.settle.look k n (laneAddrs s.settle.cur s.now i g fun t l => t.rvPair a.toNat l + off.signExtend 64) →
      lk.dead = none → lk.viol = none → lk.held = [] → lk.hits ≠ [] → lk.hits.length ≤ 8 →
        ∃ t, exec i s = .next t ∧ LanesTrapped s t i lk.hits ∧ t.mem = lk.st.mem
          ∧ (∀ x ∈ t.cur.accesses, x ∈ s.settle.cur.accesses ∨ ∃ r ∈ lk.ok, x.lane = r.lane)
          ∧ (∀ x ∈ t.cur.waiting, x ∈ s.settle.cur.waiting ∨ ∃ r ∈ lk.ok, x.lane = r.lane ∧ x.pa = r.pa)
          ∧ ∀ e ∈ t.cur.stores, ∀ c ∈ e.bytes, (∃ e' ∈ s.settle.cur.stores, c ∈ e'.bytes) ∨ ∃ r ∈ lk.ok, r.spot.home ≤ c.1 ∧ c.1 < r.spot.home + n)
  ∧ (∀ (s : State) (i : Instr) (g : Guard) (k : AccKind) (n : Nat) (a : Reg) (off : BitVec 10) (lk : Look) (l r : Nat) (va : DWord),
      accessForm i = some (g, k, n, a, off) → Issues s i g → s.settle.cur.d.dmode = false → s.settle.cur.hmode = false →
      lk = s.settle.look k n (laneAddrs s.settle.cur s.now i g fun t l => t.rvPair a.toNat l + off.signExtend 64) →
      lk.dead = none → lk.viol = none → lk.hits = [] → lk.held = [(l, va, r)] →
        ∃ t h, exec i s = .next t ∧ t.cur.held = s.settle.cur.held ++ [h] ∧ h.lane = l ∧ h.va = va ∧ h.kind = k ∧ h.size = n
          ∧ h.token = s.nextToken ∧ t.holders.head? = some (h.token, .team s.cur.uid) ∧ t.nextToken = s.nextToken + 1
          ∧ h.start = s.cur.at_ ∧ t.cur.at_ = nextPt s.cur.at_ i ∧ RegistersKept s.settle.cur t.cur)
  ∧ (∀ (d : Desc) (n o : Nat), (o % n ≠ 0 → spadTrap d n o = some (0x05, BitVec.ofNat 32 o))
     ∧ (o % n = 0 → d.scratch < o + n → spadTrap d n o = some (0x06, BitVec.ofNat 32 o))
     ∧ (o % n = 0 → o + n ≤ d.scratch → spadTrap d n o = none))
  ∧ ∀ (s : State) (i : Instr) (g : Guard) (ord : MemOrd) (a : Reg) (off : BitVec 15) (n l c : Nat) (d : Word),
      spadForm i = some (g, ord, a, off, n) → Issues s i g → acquireClear s.settle.cur s.settle.cur.ins = true →
      (MemOrd.releases ord = false ∨ releaseStep s.settle.cur .block s.settle.cur.ins = true) →
      passWords s.settle.cur i g = [l / 32] → (wordLanes s.settle.cur.mask (l / 32)).filter ((s.settle.cur.view s.now).guardOn g) = [l] →
      spadTrap s.cur.d n (spadOffset (s.settle.cur.view s.now) a off l) = some (c, d) →
      s.settle.cur.hmode = false → s.settle.cur.recs = [] →
        ∃ t, exec i s = .next t ∧ LanesTrapped s t i [⟨c, d, laneBit l⟩] ∧ t.cur.spad = s.settle.cur.spad
          ∧ t.blk.spad = s.blk.spad ∧ (s.settle.cur.d.traph ≠ 0 → OutsideKept s t)

/-- A scratchpad instruction may act on lanes `ls`, all of one word: nothing older that it must wait for, aligned and within the
block's scratchpad, no uncorrectable error in what it reads (R237, R240, R253, R270). -/
structure SpadActs (s : State) (i : Instr) (g : Guard) (ord : MemOrd) (a : Reg) (off : BitVec 15) (n : Nat) (ls : List Nat) : Prop where
  acquire : acquireClear s.settle.cur s.settle.cur.ins = true
  release : MemOrd.releases ord = false ∨ releaseStep s.settle.cur .block s.settle.cur.ins = true
  words : ∃ w, passWords s.settle.cur i g = [w] ∧ (wordLanes s.settle.cur.mask w).filter ((s.settle.cur.view s.now).guardOn g) = ls
    ∧ ∀ l ∈ ls, l / 32 = w
  aligned : ∀ l ∈ ls, spadOffset (s.settle.cur.view s.now) a off l % n = 0
  inside : ∀ l ∈ ls, spadOffset (s.settle.cur.view s.now) a off l + n ≤ s.cur.d.scratch
  intact : ∀ l ∈ ls, s.settle.blk.badSpad (spadOffset (s.settle.cur.view s.now) a off l) n = false
  mode : s.cur.d.dmode = false
  held : s.cur.dheld = []

/-- R238: how many of a pass's lanes have a byte of their access in a bank; byte `o` is in bank floor(o / 8) mod 32. -/
def bankLanes (n : Nat) (offs : List Nat) (b : Nat) : Nat :=
  (offs.filter fun o => (List.range n).any fun j => (o + j) / 8 % 32 == b).length

/-- R238: the open cycle in which a pass over these offsets is complete, k being the most lanes that touch one bank. -/
def PassDue (s : State) (atomic : Bool) (n : Nat) (offs : List Nat) (due : Nat) : Prop :=
  ∃ k, (∃ b < 32, bankLanes n offs b = k) ∧ (∀ b < 32, bankLanes n offs b ≤ k)
    ∧ due = s.now + (if atomic then 24 else 20) + 4 * (k - 1) + (if s.cur.core = s.blk.home then 0 else 8)

/-- That LDS reads, and STS and ATOMS write, in the step of their issue is log 16, the model's choice: R238 and R239 leave the
cycle open. R237, R238, R254: LDS reads each lane's bytes; the registers and the tag follow after exactly the bank cycles. STS writes
exactly its lanes' bytes, the highest LANE's where several write one (R253). R232, R255, R256: ATOMS of one lane reads the old
value for its registers and writes the new one, CAS where the old one is the comparand; no other byte of the scratchpad changes.
Several lanes that add to one place each add once, in whatever order. R269: a D-mode STS or ATOMS is held back until the commit,
and the scratchpad stays. -/
def Obligations.ScratchpadAccesses : Prop :=
  ((∀ (s : State) (y : BitVec 3) (g : Guard) (tag : Tag) (o : OpsDA) (size : LdSize) (off : BitVec 15) (ls : List Nat),
     let i := Instr.lds y g tag o size off
     Issues s i g → SpadActs s i g .plain o.a off (ldBytes size) ls → ls ≠ [] →
       ∃ t p, exec i s = .next t ∧ t.cur.at_ = nextPt s.cur.at_ i ∧ t.cur.spad = s.settle.cur.spad ++ [p]
         ∧ p.tag = tagIndex tag ∧ PassDue s false (ldBytes size) (ls.map (spadOffset (s.settle.cur.view s.now) o.a off)) p.due
         ∧ p.ws = ls.flatMap (fun l => laneRegs o.d.toNat l (loadRegs size (numOf (memReadN s.blk.spad
             (spadOffset (s.settle.cur.view s.now) o.a off l) (ldBytes size)))))
         ∧ t.cur.tags = s.settle.cur.tags ||| tagBit (tagIndex tag)
         ∧ RegistersKept s.settle.cur t.cur ∧ OutsideKept s t ∧ t.blk.spad = s.blk.spad)
   ∧ (∀ (s : State) (y : BitVec 3) (g : Guard) (tag : Tag) (a b : Reg) (size : StSize) (off : BitVec 15) (ls : List Nat),
     let i := Instr.sts y g tag a b size off
     let n := stBytes size
     let o := spadOffset (s.settle.cur.view s.now) a off
     Issues s i g → SpadActs s i g .plain a off n ls → Mem.wf s.blk.spad = true →
       ∃ t, exec i s = .next t ∧ t.cur.at_ = nextPt s.cur.at_ i
         ∧ (∀ l ∈ ls, ∀ k, k < n → (∀ m ∈ ls, o m ≤ o l + k → o l + k < o m + n → m ≤ l) →
             memRead t.blk.spad (o l + k) = some (((s.settle.viewOf i g l).storeData b.toNat n l).getD k 0))
         ∧ (∀ x, (∀ l ∈ ls, x < o l ∨ o l + n ≤ x) → memRead t.blk.spad x = memRead s.blk.spad x)
         ∧ (ls ≠ [] → ∃ p, t.cur.spad = s.settle.cur.spad ++ [p] ∧ p.tag = tagIndex tag ∧ p.ws = [] ∧ PassDue s false n (ls.map o) p.due)
         ∧ RegistersKept s.settle.cur t.cur ∧ OutsideKept s t)
   ∧ ∀ (s : State) (y : BitVec 3) (g : Guard) (tag : Tag) (a b : Reg) (size : StSize) (off : BitVec 15) (l : Nat),
     let i := Instr.sts y g tag a b size off
     let o := spadOffset (s.settle.cur.view s.now) a off l
     Issues s i g → s.settle.cur.d.dmode = true → acquireClear s.settle.cur s.settle.cur.ins = true →
     passWords s.settle.cur i g = [l / 32] → (wordLanes s.settle.cur.mask (l / 32)).filter ((s.settle.cur.view s.now).guardOn g) = [l] →
     spadTrap s.settle.cur.d (stBytes size) o = none →
       ∃ t, exec i s = .next t ∧ t.cur.at_ = nextPt s.cur.at_ i ∧ t.blk.spad = s.blk.spad
         ∧ DHeld.sts s.settle.cur.ins l o ((s.settle.viewOf i g l).storeData b.toNat (stBytes size) l) ∈ t.cur.dheld
         ∧ (∀ x ∈ s.settle.cur.dheld, x ∈ t.cur.dheld) ∧ RegistersKept s.settle.cur t.cur ∧ OutsideKept s t)
  ∧ (∀ (s : State) (y : BitVec 3) (g : Guard) (tag : Tag) (d a b : Reg) (op : Option AOp) (w64 : Bool) (ord : MemOrd) (off : BitVec 15)
       (l : Nat), let i := Instr.atoms y g tag d a b op w64 ord off
     let n := if w64 then 8 else 4
     let x := spadOffset (s.settle.cur.view s.now) a off l
     let old := numOf (memReadN s.blk.spad x n)
     let v := s.settle.viewOf i g l
     Issues s i g → SpadActs s i g ord a off n [l] → Mem.wf s.blk.spad = true →
       ∃ t p, exec i s = .next t ∧ t.cur.at_ = nextPt s.cur.at_ i ∧ t.cur.spad = s.settle.cur.spad ++ [p]
         ∧ p.ws = laneRegs d.toNat l (oldRegs w64 old) ∧ p.tag = tagIndex tag ∧ PassDue s true n [x] p.due
         ∧ (∀ f, op = some f → numOf (memReadN t.blk.spad x n) = atomNew f w64 old (v.operand w64 b l) % 2 ^ (8 * n))
         ∧ (op = none → numOf (memReadN t.blk.spad x n) = if old = v.operand w64 d l then v.operand w64 b l % 2 ^ (8 * n) else old)
         ∧ (∀ z, (z < x ∨ x + n ≤ z) → memRead t.blk.spad z = memRead s.blk.spad z)
         ∧ RegistersKept s.settle.cur t.cur ∧ t.mem = s.mem)
  ∧ (∀ (s : State) (y : BitVec 3) (g : Guard) (tag : Tag) (d a b : Reg) (w64 : Bool) (ord : MemOrd) (off : BitVec 15)
       (ls : List Nat) (x : Nat), let i := Instr.atoms y g tag d a b (some .add) w64 ord off
     let n := if w64 then 8 else 4
     Issues s i g → SpadActs s i g ord a off n ls → Mem.wf s.blk.spad = true →
     (∀ l ∈ ls, spadOffset (s.settle.cur.view s.now) a off l = x) →
       ∃ t, exec i s = .next t
         ∧ numOf (memReadN t.blk.spad x n) = (ls.foldl (fun m l => m + (s.settle.viewOf i g l).operand w64 b l)
             (numOf (memReadN s.blk.spad x n))) % 2 ^ (8 * n) ∧ t.mem = s.mem
         ∧ (ls ≠ [] → ∃ p, t.cur.spad = s.settle.cur.spad ++ [p] ∧ PassDue s true n (ls.map fun _ => x) p.due))
  ∧ ∀ (s : State) (y : BitVec 3) (g : Guard) (tag : Tag) (d a b : Reg) (op : Option AOp) (w64 : Bool) (ord : MemOrd) (off : BitVec 15)
       (l : Nat), let i := Instr.atoms y g tag d a b op w64 ord off
     let o := spadOffset (s.settle.cur.view s.now) a off l
     Issues s i g → s.settle.cur.d.dmode = true → acquireClear s.settle.cur s.settle.cur.ins = true →
     passWords s.settle.cur i g = [l / 32] → (wordLanes s.settle.cur.mask (l / 32)).filter ((s.settle.cur.view s.now).guardOn g) = [l] →
     spadTrap s.settle.cur.d (if w64 then 8 else 4) o = none → s.settle.blk.badSpad o (if w64 then 8 else 4) = false →
       ∃ t, exec i s = .next t ∧ t.cur.at_ = nextPt s.cur.at_ i ∧ t.blk.spad = s.blk.spad
         ∧ DHeld.atoms s.settle.cur.ins (tagIndex tag) l op w64 d.toNat o ((s.settle.viewOf i g l).operand w64 b l)
             ((s.settle.viewOf i g l).operand w64 d l) ∈ t.cur.dheld
         ∧ RegistersKept s.settle.cur t.cur ∧ t.mem = s.mem

/-- R258, R269: a FENCE whose step holds goes on; a releasing one leaves a mark at its place in program order, and any other
none; one whose step does not hold waits where it stands. R268: in D-mode it takes no step. -/
def Obligations.FenceCompletes : Prop :=
  ∀ (s : State) (y : BitVec 3) (ord : MemOrd) (sc : Scope), Issues s (.fence y ord sc) Guard.pt →
    (s.cur.d.dmode = true ∨ fenceReady s.settle.cur ord sc = true →
        ∃ t, exec (.fence y ord sc) s = .next t ∧ t.cur.at_ = nextPt s.cur.at_ (.fence y ord sc)
          ∧ (s.cur.d.dmode = false → (ord = .rel ∨ ord = .ar) → sc ≠ .team → (s.settle.cur.ins, sc) ∈ t.cur.fences)
          ∧ (s.cur.d.dmode = true ∨ (ord ≠ .rel ∧ ord ≠ .ar) ∨ sc = .team → t.cur.fences = s.settle.cur.fences)
          ∧ RegistersKept s.settle.cur t.cur ∧ OutsideKept s t)
      ∧ (s.cur.d.dmode = false → fenceReady s.settle.cur ord sc = false →
          ∃ t, exec (.fence y ord sc) s = .next t ∧ t.cur.at_ = s.cur.at_ ∧ t.cur.wait = .fence ord sc s.settle.cur.ins
            ∧ RegistersKept s.settle.cur t.cur ∧ OutsideKept s t)

/-- R4: bytes written are read back, and no other address changes. -/
def Obligations.ReadAfterWrite : Prop :=
  ∀ (m : Mem) (a : Nat) (bs : List Byte), Mem.wf m = true →
    memReadN (memWriteN m a bs) a bs.length = bs
      ∧ ∀ x, (x < a ∨ a + bs.length ≤ x) → memRead (memWriteN m a bs) x = memRead m x

/-! ### The ordering machine (R264 to R268) -/

/-- R265: a store that may be sent goes into the request channel and counts: in UREM for the host and peer windows, else in
ULOC; its bytes are not written yet. R267, R268: a load or atomic that may be sent is sent; an atomic counts until its response. An
entry with a release role is not sent while an older load within its reach is unperformed; nothing younger than an unperformed
acquiring access of BLOCK scope or wider is sent, neither a store, a load nor an atomic; R260: one that is held on a recoverable
fault is unperformed too (log 107). -/
def Obligations.RequestsSentInOrder : Prop :=
  (∀ (s : State) (e : StoreEntry), Homed s → s.cur.st ≠ .frozen → (s.cur.stores.find? fun x => x.seq = e.seq) = some e →
     storeSendable s.cur e = true →
       ∃ t, exec (.storeSend s.cur.uid e.seq) s = .next t
         ∧ t.cur.stores = s.cur.stores.map (fun x => if x.seq = e.seq then { x with st := .sent } else x)
         ∧ t.cur.uloc + t.cur.urem = s.cur.uloc + s.cur.urem + 1
         ∧ (remote (e.unit * 256) = true → t.cur.uloc = s.cur.uloc) ∧ (remote (e.unit * 256) = false → t.cur.urem = s.cur.urem)
         ∧ t.cur.v = s.cur.v ∧ OutsideKept s t)
  ∧ (∀ (s : State) (a : Access), Homed s → s.cur.st ≠ .frozen → (s.cur.accesses.find? fun x => x.seq = a.seq) = some a →
     accessSendable s.cur a = true →
       ∃ t, exec (.loadSend s.cur.uid a.seq) s = .next t
         ∧ t.cur.accesses = s.cur.accesses.map (fun x => if x.seq = a.seq then { x with st := .sent } else x)
         ∧ t.cur.uloc + t.cur.urem = s.cur.uloc + s.cur.urem + (if a.isAtomic then 1 else 0)
         ∧ t.cur.v = s.cur.v ∧ OutsideKept s t)
  ∧ (∀ (t : Team) (e : StoreEntry) (a : Access), e.ord = .rel → e.scope ≠ .team → a ∈ t.accesses → a.ins < e.ins →
     inReach e.scope a.pa = true → a.st ≠ .performed → storeSendable t e = false)
  ∧ (∀ (t : Team) (a : Access), a ∈ t.accesses → (a.ord = .acq ∨ a.ord = .ar ∨ a.ord = .sc) → a.scope ≠ .team → a.st ≠ .performed →
     (∀ e : StoreEntry, a.ins < e.ins → storeSendable t e = false)
       ∧ ∀ b : Access, a.ins < b.ins → accessSendable t b = false)
  ∧ (∀ (t : Team) (h : HeldAccess), h ∈ t.held → h.failed = none → h.kind ≠ .fetch →
     (h.ord = .acq ∨ h.ord = .ar ∨ h.ord = .sc) → h.scope ≠ .team →
     (∀ e : StoreEntry, h.ins < e.ins → storeSendable t e = false)
       ∧ ∀ b : Access, h.ins < b.ins → accessSendable t b = false)

/-- A physical address of memory, the device's own, a slice's, the host's or a peer's, that a team's requests reach. -/
def MemoryAt (s : State) (pa : Nat) : Prop := (∀ x, placeOf pa ≠ .regs x) ∧ s.severed s.cur.lid s.cur.d.part pa = false

/-- A sent access of the current team, its one request: it has reached its point, a place in memory without an error (R240). -/
structure AtPoint (s : State) (a : Access) : Prop where
  homed : Homed s
  canonical : s.Canonical
  alone : s.saved = [] ∧ s.cur.stores = [] ∧ s.cur.flight = []
  sent : s.cur.accesses = [a] ∧ a.st = .sent
  place : MemoryAt s a.pa
  intact : s.badData a.pa a.bytes = false

/-- R266: at its point a sent store writes the cells of its next unit there and nothing else. R252: the units of an entry are its
aligned 8 bytes, each performed once, in rising order; with the last the entry is performed. R266, R267: at its point a sent load
takes the value as it then stands. R256, R266, R268: at its point a sent atomic, of 4 bytes or 8, takes the old value and writes the
new one, indivisibly; a CAS writes only where the old value is the comparand (R257). All of it holds in package, slice, host and
peer memory. -/
def Obligations.RequestsPerform : Prop :=
  (∀ (s : State) (seq : Nat) (cells : List Host.Cell) (es : List StoreEntry), Homed s → s.Canonical → s.saved = [] →
     performIn seq s.cur.stores = some (false, cells, es) → (cells.map fun c => homeOf s.devno c.1).Nodup →
     (∀ c ∈ cells, MemoryAt s c.1) →
       ∃ t, exec (.requestPerform s.cur.uid seq) s = .next t ∧ (∀ c ∈ cells, t.byte c.1 = c.2)
         ∧ (∀ x, (∀ c ∈ cells, homeOf s.devno c.1 ≠ x) → memRead t.mem x = memRead s.mem x)
         ∧ t.cur.stores = es ∧ t.cur.v = s.cur.v ∧ t.teams = s.teams)
  ∧ (∀ e : StoreEntry, e.st = .sent → e.dev = false →
     performIn e.seq [e] = some (false, e.parts.getD e.units [], [{ e with
         units := e.units + 1, st := if e.parts.length ≤ e.units + 1 then .performed else .sent }])
       ∧ (∀ p ∈ e.parts, ∃ u, p = e.bytes.filter (fun c => c.1 / 8 = u) ∧ p ≠ [])
       ∧ (∀ c ∈ e.bytes, ∃ p ∈ e.parts, c ∈ p)
       ∧ ∀ j k, j < k → k < e.parts.length → ∀ c ∈ e.parts.getD j [], ∀ d ∈ e.parts.getD k [], c.1 / 8 < d.1 / 8)
  ∧ (∀ (s : State) (a : Access) (size : LdSize), AtPoint s a → a.op = .load size →
       ∃ t, exec (.requestPerform s.cur.uid a.seq) s = .next t
         ∧ t.cur.accesses = [{ a with st := .performed, x := s.num a.pa a.bytes }] ∧ t.mem = s.mem ∧ t.cur.v = s.cur.v)
  ∧ (∀ (s : State) (a : Access) (op : AOp) (w64 : Bool), AtPoint s a → a.op = .atom op w64 → a.bytes = (if w64 then 8 else 4) →
     let h := homeOf s.devno a.pa
       ∃ t, exec (.requestPerform s.cur.uid a.seq) s = .next t
         ∧ t.cur.accesses = [{ a with st := .performed, x := s.num a.pa a.bytes }]
         ∧ t.num a.pa a.bytes = atomNew op w64 (s.num a.pa a.bytes) a.b % 2 ^ (8 * a.bytes)
         ∧ ∀ x, (x < h ∨ h + a.bytes ≤ x) → memRead t.mem x = memRead s.mem x)
  ∧ ∀ (s : State) (a : Access) (w64 : Bool), AtPoint s a → a.op = .cas w64 → a.bytes = (if w64 then 8 else 4) →
     let h := homeOf s.devno a.pa
       ∃ t, exec (.requestPerform s.cur.uid a.seq) s = .next t
         ∧ t.cur.accesses = [{ a with st := .performed, x := s.num a.pa a.bytes }]
         ∧ (s.num a.pa a.bytes = a.c → t.num a.pa a.bytes = a.b % 2 ^ (8 * a.bytes))
         ∧ (s.num a.pa a.bytes ≠ a.c → t.mem = s.mem)
         ∧ ∀ x, (x < h ∨ h + a.bytes ≤ x) → memRead t.mem x = memRead s.mem x

/-- R254, R266: a response writes what the access read to its lane's registers and the access is gone. R266: an acknowledged
store leaves the buffer and its counter falls by one. R227, R265 of *moves*: the acknowledgement of a store that a moved team sent
before it moved reaches it. R238: the passes of a scratchpad instruction that are due write their registers and leave; the tag
clears with the last. -/
def Obligations.ResponsesComplete : Prop :=
  (∀ (s : State) (a : Access) (size : LdSize), Homed s → s.settle.cur.accesses = [a] → a.st = .performed → a.op = .load size →
     ∃ t, exec (.loadResponse s.cur.uid a.seq) s = .next t ∧ t.cur.accesses = []
       ∧ t.cur.v = (s.settle.cur.putAll (laneRegs a.d a.lane (loadRegs size a.x))).v
       ∧ t.cur.s = s.settle.cur.s ∧ t.cur.p = s.settle.cur.p ∧ t.mem = s.mem ∧ t.teams = s.teams)
  ∧ (∀ (s : State) (e : StoreEntry), Homed s → s.saved = [] → s.cur.stores = [e] → e.st = .performed → s.cur.waiting = [] →
     ∃ t, exec (.storeAck s.cur.uid e.seq) s = .next t ∧ t.cur.stores = []
       ∧ (remote (e.unit * 256) = true → t.cur.urem = s.cur.urem - 1 ∧ t.cur.uloc = s.cur.uloc)
       ∧ (remote (e.unit * 256) = false → t.cur.uloc = s.cur.uloc - 1 ∧ t.cur.urem = s.cur.urem)
       ∧ t.cur.v = s.cur.v ∧ OutsideKept s t)
  ∧ (∀ (s : State) (e : StoreEntry), Homed s → s.cur.flight = [e] → e.st = .performed →
     ∃ t, exec (.ackForward s.cur.uid e.seq) s = .next t ∧ t.cur.flight = []
       ∧ (remote (e.unit * 256) = true → t.cur.urem = s.cur.urem - 1 ∧ t.cur.uloc = s.cur.uloc)
       ∧ (remote (e.unit * 256) = false → t.cur.uloc = s.cur.uloc - 1 ∧ t.cur.urem = s.cur.urem)
       ∧ t.cur.v = s.cur.v ∧ OutsideKept s t)
  ∧ (∀ (s : State) (p : SpadPass), Homed s → s.cur.spad = [p] → p.due ≤ s.landAt s.cur.core → p.tag < 6 → s.cur.accesses = [] →
     s.cur.waiting = [] → s.cur.held = [] → s.cur.tagged = [] → s.cur.dheld = [] →
       ∃ t, exec (.scratchpadAccessComplete s.cur.uid) s = .next t ∧ t.cur.spad = [] ∧ t.cur.v = s.settle.cur.v
         ∧ (s.cur.fix = [] → (∀ w ∈ p.ws, ∃ r cs, w = .v r cs) → t.cur.v = (s.cur.putAll p.ws).v)
         ∧ t.cur.tags.getLsbD p.tag = false ∧ t.mem = s.mem)


/-! ### The matrix unit (R276 to R296) -/

/-- What a matrix instruction does with the tiles of a name in the words of its team (R278). -/
def usedTiles (s : State) (i : Instr) (name : Nat) (fresh make : Bool) : TileUse :=
  ⟨name, passWords s.settle.cur i Guard.pt, fresh, make⟩

/-- A matrix instruction may act on its tile: it passes its checks, it need not wait (the unit's queue has room, no access of the
name is to come, physical tiles are free or can be freed; R278, R279), and the team's words are within the state's lists. -/
structure MatrixActs (s : State) (i : Instr) (u : TileUse) : Prop where
  issues : Issues s i Guard.pt
  ready : s.settle.tileWait s.settle.cur u = false
  names : u.name < s.settle.cur.tiles.length
  core : s.cur.core < s.cores.length
  quad : s.cur.quad < (s.core s.cur.core).quads.length

/-- What a matrix instruction leaves besides tiles: the place, its busy cycles and its tiles queued for the team, at most 64
physical tiles in use in the quadrant, every other name's tiles, and the registers. -/
structure MatrixDone (s t : State) (i : Instr) (u : TileUse) (batch busy : Nat) : Prop where
  at_ : t.cur.at_ = nextPt s.cur.at_ i
  queue : ((t.core s.cur.core).quads.getD s.cur.quad .reset).mtxq
    = ((s.core s.cur.core).quads.getD s.cur.quad .reset).mtxq
      ++ [⟨s.cur.uid, batch, busy, (s.settle.tileNos s.settle.cur u).map (·.2)⟩]
  phys : ((t.core s.cur.core).quads.getD s.cur.quad .reset).phys.length ≤ 64
  others : ∀ d, d ≠ u.name → t.cur.tiles.getD d [] = s.settle.cur.tiles.getD d []
  vregs : t.cur.v = s.settle.cur.v
  sregs : t.cur.s = s.settle.cur.s
  preds : t.cur.p = s.settle.cur.p
  stack : t.cur.stack = s.settle.cur.stack
  mask : t.cur.mask = s.settle.cur.mask

/-- Element `k` of row `x` of a fragment of 8 registers from `r` on, for elements of `w` bits (R280): half of the k range, then
register, then place in the register; row `x` lies in lanes `x` and `16 + x` of the word. -/
def fragElem (t : Team) (r word w x k : Nat) : Nat :=
  let n := 256 / w
  (t.rv (r + k % n / (32 / w)) (32 * word + 16 * (k / n) + x)).val.toNat / 2 ^ (w * (k % n % (32 / w))) % 2 ^ w

/-- R280, R282, R283: MMA of two 8-bit integer formats on one word: every element of the tile gets the sum of the 64 products
of its row of A and its column of B, wrapping at 32 bits; with NEW the tile starts at 0. R281 to R288, for every pair of formats:
MMA and MMAS complete, the tile is the product's (a stored zero of MMAS adds no term), the flags that it raises are in FPSTAT, and
the unit is busy for 4 cycles a word (MMAS: 3, 2 or 1.5). R278: without NEW, on a tile of the other type, MMA traps with cause
0x03. R278, R279: MMA, MMAS and every other instruction that uses tiles, where it must wait for the queue or for tiles, waits where
it stands, before its tile's type is looked at. That tile and FPSTAT are the product's in the step of issue is log 25, the model's
choice: R279, R284 and R288 leave the cycle open. -/
def Obligations.MatrixProducts : Prop :=
  (∀ (s : State) (y : BitVec 3) (d a b : Reg) (pm1 : BitVec 3) (new : Bool) (w : Nat),
    let i := Instr.mma y d a b none pm1 .int8 .int8 new
    let u := usedTiles s i d.toNat new true
    let v := s.settle.cur.view s.now
    MatrixActs s i u → passWords s.settle.cur i Guard.pt = [w] →
    (new = false → ∀ x, s.settle.cur.bound d.toNat w = some x → x.int = true) →
    ∃ t, exec i s = .next t ∧ MatrixDone s t i u (s.settle.cur.batch + 1) 4 ∧ OutsideKept s t
      ∧ ∃ x, t.cur.bound d.toNat w = some x
        ∧ ∀ n e, x.elems[n]? = some e → n < 256 → ∃ e0, (if new then some (Elem.fresh true)
              else ((s.settle.cur.bound d.toNat w).getD (Tile.fresh 0 true)).elems[n]?) = some e0
            ∧ e.val = e0.val + BitVec.ofInt 32 (((List.range 64).map fun k =>
                signed 8 (fragElem v a.toNat w 8 (n / 16) k) * signed 8 (fragElem v b.toNat w 8 (n % 16) k)).foldl (· + ·) 0))
  ∧ (∀ (s : State) (y : BitVec 3) (d a b : Reg) (desc : Option (BitVec 6)) (pm1 : BitVec 3) (af bf : MFmt) (new : Bool) (w : Nat),
    let i := Instr.mma y d a b desc pm1 af bf new
    let u := usedTiles s i d.toNat new true
    let c := s.settle.cur
    let v := c.view s.now
    MatrixActs s i u → passWords c i Guard.pt = [w] → mmaIllegal c [w] d.toNat desc af bf new false = false →
    scaleFault c [w] desc af bf (512 / MFmt.width af) = none →
    let sc := match desc.bind fun r => readDesc af bf (c.rs r.toNat) with
      | some x => s.settle.scales x (512 / MFmt.width af) w
      | none => ⟨none, none, 8⟩
    ∃ t n, exec i s = .next t ∧ MatrixDone s t i u (c.batch + 1) 4 ∧ OutsideKept s t
      ∧ let r := mmaTile af bf (pm1.toNat + 1) sc
          ((List.range 16).map fun r => (fragRow v a.toNat w (MFmt.width af) 8 r).zipIdx.map fun x => (x.2, x.1))
          ((List.range 16).map (fragRow v b.toNat w (MFmt.width bf) 8))
          (if new then Tile.fresh n (MFmt.isInt af) else (c.bound d.toNat w).getD (Tile.fresh n (MFmt.isInt af)))
        t.cur.bound d.toNat w = some r.1 ∧ t.cur.fpstat = c.fpstat ||| r.2)
  ∧ (∀ (s : State) (y : BitVec 3) (d a b : Reg) (desc : Option (BitVec 6)) (pm1 : BitVec 3) (af bf : MFmt) (new : Bool) (sn : SpN)
      (m : BitVec 6) (w : Nat),
    let i := Instr.mmas y d a b desc pm1 af bf new sn m
    let u := usedTiles s i d.toNat new true
    let c := s.settle.cur
    let v := c.view s.now
    let row := fun r => sparseRow v a.toNat m.toNat w (MFmt.width af) (SpN.n sn) r
    MatrixActs s i u → passWords c i Guard.pt = [w] → (∀ r, r < 16 → ∀ x ∈ row r, x.2.1 ≤ 23) →
    mmaIllegal c [w] d.toNat desc af bf new false = false → scaleFault c [w] desc af bf (768 / MFmt.width af) = none →
    let sc := match desc.bind fun r => readDesc af bf (c.rs r.toNat) with
      | some x => s.settle.scales x (768 / MFmt.width af) w
      | none => ⟨none, none, 8⟩
    ∃ t n, exec i s = .next t ∧ OutsideKept s t
      ∧ MatrixDone s t i u (c.batch + 1) (match sn with
        | .n12 => 3
        | .n8 => 2
        | .n6 => 2)
      ∧ let r := mmaTile af bf (pm1.toNat + 1) sc
          ((List.range 16).map fun r => ((row r).filter fun x => !storedZero af x.2.2).map fun x => (x.1 + x.2.1, x.2.2))
          ((List.range 16).map (fragRow v b.toNat w (MFmt.width bf) 12))
          (if new then Tile.fresh n (MFmt.isInt af) else (c.bound d.toNat w).getD (Tile.fresh n (MFmt.isInt af)))
        t.cur.bound d.toNat w = some r.1 ∧ t.cur.fpstat = c.fpstat ||| r.2)
  ∧ (∀ (s : State) (y : BitVec 3) (d a b : Reg) (desc : Option (BitVec 6)) (pm1 : BitVec 3) (af bf : MFmt) (w : Nat) (x : Tile),
    let i := Instr.mma y d a b desc pm1 af bf false
    TrapsHere s → s.settle.tileWait s.settle.cur (usedTiles s i d.toNat false true) = false →
    w ∈ passWords s.settle.cur i Guard.pt → s.settle.cur.bound d.toNat w = some x → x.int ≠ MFmt.isInt af →
    ∃ t, exec i s = .next t ∧ TrappedAll s t 0x03 (encodeWord0 i))
  ∧ ∀ (s : State) (i : Instr) (u : TileUse), tileUse (passWords s.settle.cur i Guard.pt) i = some u → Issues s i Guard.pt →
    s.settle.tileWait s.settle.cur u = true →
    ∃ t, exec i s = .next t ∧ t.cur.at_ = s.cur.at_ ∧ t.cur.wait = .matrix u.name u.words u.fresh u.make
      ∧ RegistersKept s.settle.cur t.cur ∧ t.cores = s.cores ∧ OutsideKept s t

/-- What the checks of a tile access find where every element of every word translates (R295). -/
def TileReaches (s : State) (i : Instr) (k : AccKind) (base : DWord) (st : Word) (n : Nat) (lk : TileLook) : Prop :=
  s.settle.tileLook k base st n (passWords s.settle.cur i Guard.pt) = lk ∧ lk.hits = [] ∧ lk.held = [] ∧ lk.dead = none
    ∧ lk.viol = none

/-- That these instructions compute in the step of their issue (zeros bound, values read, tagged and stored, the scratchpad written)
is log 25, the model's choice. The flags of AST's rounding and D-mode are not stated here.
R291 to R296: AZERO binds the name to a tile of zeros in every active word. AMOV gives lane 16h + r of a word the elements
(8h + q, r) with their counts, in registers D + q. ALD binds a fresh tile, and each element is a load on its way. AST holds
each element, through its epilogue and rounded to OFMT, for its address. QTILE writes both copies of a word to the scratchpad,
and nothing else. -/
def Obligations.TileInstructions : Prop :=
  (∀ (s : State) (y : BitVec 3) (d : Reg) (int : Bool), let i := Instr.azero y d int
    let u := usedTiles s i d.toNat true true
    MatrixActs s i u →
    ∃ t, exec i s = .next t ∧ OutsideKept s t ∧ MatrixDone s t i u 0 (passWords s.settle.cur i Guard.pt).length
      ∧ ∀ w ∈ passWords s.settle.cur i Guard.pt, ∃ u, t.cur.bound d.toNat w = some u ∧ u.int = int ∧ u.elems.length = 256
        ∧ ∀ e ∈ u.elems, e.val = 0 ∧ e.cnt = (if int then 63 else 24) ∧ e.nw = 0 ∧ e.sw = .none)
  ∧ (∀ (s : State) (y : BitVec 3) (tag : Tag) (d c : Reg), let i := Instr.amov y tag d c
    MatrixActs s i (usedTiles s i c.toNat false false) →
    let ws := passWords s.settle.cur i Guard.pt
    let u := s.settle.cur.promoteTiles c.toNat ws
    ∃ t, exec i s = .next t ∧ OutsideKept s t ∧ MatrixDone s t i (usedTiles s i c.toNat false false) 0 (2 * ws.length)
      ∧ t.cur.tags = s.settle.cur.tags ||| tagBit (tagIndex tag)
      ∧ ∃ rs, (⟨tagIndex tag, rs⟩ : TagWrite) ∈ t.cur.tagged ∧ ∀ l q, l / 32 ∈ ws → l < s.cur.d.teamw → q < 8 →
          let e := (u.tile c.toNat (l / 32)).elems.getD (16 * (8 * (l % 32 / 16) + q) + l % 16) (Elem.fresh false)
          ∃ cs, RegWrite.v (d.toNat + q) cs ∈ rs ∧ (l, (⟨e.val, e.cnt⟩ : VCell)) ∈ cs)
  ∧ (∀ (s : State) (y : BitVec 3) (tag : Tag) (d a b : Reg) (int : Bool) (lk : TileLook), let i := Instr.ald y tag d a b int
    MatrixActs s i (usedTiles s i d.toNat true true) → s.cur.d.dmode = false → lk.ok ≠ [] →
    TileReaches s i .load (s.settle.cur.rsPair a.toNat) (s.settle.cur.rs b.toNat) 4 lk →
    ∃ t new, exec i s = .next t ∧ t.cur.at_ = nextPt s.cur.at_ i ∧ t.cur.accesses = s.settle.cur.accesses ++ new
      ∧ new.map (fun x => (x.lane, x.op, x.pa)) = lk.ok.map (fun r => (32 * (r.lane / 256), AccOp.tile (r.lane % 256) int, r.pa))
      ∧ (∀ x ∈ new, x.tag = tagIndex tag ∧ x.d = d.toNat ∧ x.bytes = 4)
      ∧ (∀ w ∈ passWords s.settle.cur i Guard.pt, ∃ n, t.cur.bound d.toNat w = some (Tile.fresh n int))
      ∧ t.cur.tags = s.settle.cur.tags ||| tagBit (tagIndex tag) ∧ t.cur.v = s.settle.cur.v ∧ t.cur.s = s.settle.cur.s
      ∧ t.mem = lk.st.mem ∧ t.teams = s.teams)
  ∧ (∀ (s : State) (y : BitVec 3) (tag : Tag) (a b c : Reg) (ofmt : OFmt) (act : Act) (scale bias : Bool) (lk : TileLook),
    let i := Instr.ast y tag a b c ofmt act scale bias
    let r := fun k => s.settle.cur.rs (b.toNat + k)
    MatrixActs s i (usedTiles s i c.toNat false false) → s.cur.d.dmode = false → Apart (ofmtBytes ofmt) lk.ok →
    TileReaches s i .store (s.settle.cur.rsPair a.toNat) (r 0) (ofmtBytes ofmt) lk →
    let u := s.settle.cur.promoteTiles c.toNat (passWords s.settle.cur i Guard.pt)
    ∃ t, exec i s = .next t ∧ t.cur.at_ = nextPt s.cur.at_ i ∧ t.cur.v = s.settle.cur.v ∧ t.cur.s = s.settle.cur.s
      ∧ t.mem = lk.st.mem ∧ t.teams = s.teams
      ∧ ∀ q ∈ lk.ok, let tl := u.tile c.toNat (q.lane / 256)
          let e := tl.elems.getD (q.lane % 256) (Elem.fresh tl.int)
          Buffered t.cur q (bytesOf (ofmtBytes ofmt) (astStore ofmt (astValue tl.int e.val act scale bias (r 1) (r 2) (r 3)).1).1))
  ∧ ∀ (s : State) (y : BitVec 3) (tag : Tag) (a b c : Reg) (fmt : QFmt) (len : BlkLen) (w : Nat),
    let i := Instr.qtile y tag a b c fmt len
    let oa := (s.settle.cur.rs a.toNat).toNat + 512 * w
    let ob := (s.settle.cur.rs b.toNat).toNat + 512 * w
    let tl := (s.settle.cur.promoteTiles c.toNat [w]).tile c.toNat w
    let xs := tl.elems.map fun e => fmt32.decode e.val.toNat
    let cs := (List.range 256).map fun k => xs.getD (16 * (k % 16) + k / 16) (.fin false 0 0)
    let pa := qcopy fmt (blkLen len) xs
    let pb := qcopy fmt (blkLen len) cs
    MatrixActs s i (usedTiles s i c.toNat false false) → s.cur.d.dmode = false →
    acquireClear s.settle.cur s.settle.cur.ins = true →
    passWords s.settle.cur i Guard.pt = [w] → Mem.wf s.blk.spad = true → (s.settle.cur.tile c.toNat w).int = false →
    qtileFault s.settle.cur (qsize fmt (blkLen len)) [w]
      [(s.settle.cur.rs a.toNat).toNat, (s.settle.cur.rs b.toNat).toNat] = none →
    (oa + pa.length ≤ ob ∨ ob + pb.length ≤ oa) →
    ∃ t, exec i s = .next t ∧ MatrixDone s t i (usedTiles s i c.toNat false false) 0 4 ∧ OutsideKept s t
      ∧ memReadN t.blk.spad oa pa.length = pa ∧ memReadN t.blk.spad ob pb.length = pb
      ∧ ∀ x, (x < oa ∨ oa + pa.length ≤ x) → (x < ob ∨ ob + pb.length ≤ x) → memRead t.blk.spad x = memRead s.blk.spad x

/-! ### Counters, copies, marks, messages, REORDER (R159, R160, R298 to R320) -/

/-- R303: what a COPY with a nonzero count checks at issue, in order, and the cause and datum of the first check that fails. -/
def copySpec (d : Desc) (x : Slice) : Option (Nat × Word) :=
  let a := x.ga.extractLsb' 0 32
  let slot := fun r : Nat × Nat => r.2 + 16 * r.1
  if x.n = 0 then none
  else if x.ga.extractLsb' 56 8 ≠ 0 then some (0x08, a)
  else if ¬ (16 ∣ x.ga.toNat ∧ 16 ∣ x.off ∧ 16 ∣ x.n ∧ ∀ r ∈ x.ring, 16 ∣ r.2) then some (0x05, a)
  else if d.scratch < x.off + x.n then some (0x06, BitVec.ofNat 32 x.off)
  else if ∃ r ∈ x.ring, d.scratch < slot r + 16 then x.ring.map fun r => (0x06, BitVec.ofNat 32 (slot r))
  else none

/-- R311, R312: why a lane's SEND to a core traps, as the datum says it: no such core, or no handler table or no right to send. -/
def sendSpec (s : State) (core : Word) : Option Word :=
  if 192 ≤ core.toNat then some (BitVec.ofNat 32 (core.toNat % 256))
  else if (s.part s.cur.d.part).handlers = none ∨ s.cur.d.messages = false then some (BitVec.ofNat 32 (256 + core.toNat % 256))
  else none

/-- R298 to R301: WAITC goes on when its counter is at or below n, else it waits; YIELD goes to its label at once, or waits there;
BATCH closes the open batch, and mtx rises while its instructions are at work, or, in D-mode (R274), until a commit where it has
instructions (that it waits for one is log 59, the model's choice). R307: a WAITC, or a YIELD, whose wait for copies is over where one
has failed, and an EXIT of the last lanes where one is unreported, traps (cause 0x11) with CPYERR. R272, R302 to R304: COPY supplies
the team's next slice and cpy rises, or traps where a check fails, and supplies nothing. R316, R318: MARK and MARK.W raise the mark
where no entry due is incomplete, and every entry whose issue mark the block then has reached is to start. R319: a MARK whose due
entries are not complete traps (cause 0x10) with the lowest such entry, and whether it faulted. R318: a MARK or MARK.W below the
team's mark traps (cause 0x03). R311: SEND puts one message for each selected lane into the channel, and msg rises; R312: where
every lane names no core, or may not send, they trap (cause 0x16). R271: a D-mode SEND traps (cause 0x15, reason 2). -/
def Obligations.CountersMarksAndSends : Prop :=
  (∀ (s : State) (y : BitVec 3) (cls : CCls) (n : BitVec 6), let i := Instr.waitc y cls n
    Issues s i Guard.pt → s.cur.d.dmode = false →
    ((s.settle.cur.counter cls).length ≤ n.toNat → (cls ≠ .cpy ∨ s.settle.cur.copyFault = false) →
        ∃ t, exec i s = .next t ∧ t.cur.at_ = nextPt s.cur.at_ i ∧ RegistersKept s.settle.cur t.cur ∧ OutsideKept s t)
    ∧ (n.toNat < (s.settle.cur.counter cls).length →
        ∃ t, exec i s = .next t ∧ t.cur.at_ = s.cur.at_ ∧ t.cur.wait = .counter cls n.toNat
          ∧ RegistersKept s.settle.cur t.cur ∧ OutsideKept s t))
  ∧ (∀ (s : State) (y : BitVec 3) (cls : CCls) (n : BitVec 6) (off : BitVec 18), let i := Instr.yieldC y cls n off
    let l := s.cur.at_.pc + off.signExtend 64 * 4
    Issues s i Guard.pt → s.cur.d.dmode = false → (cls ≠ .cpy ∨ s.settle.cur.copyFault = false) →
      ∃ t, exec i s = .next t ∧ t.cur.at_ = ⟨l, 0⟩ ∧ RegistersKept s.settle.cur t.cur ∧ OutsideKept s t
        ∧ t.cur.wait = (if (s.settle.cur.counter cls).length ≤ n.toNat then .none else .yielded cls n.toNat l))
  ∧ (∀ (s : State) (y : BitVec 3), let i := Instr.batch y
    Issues s i Guard.pt → s.settle.cur.mtx = [] →
      ∃ t, exec i s = .next t ∧ t.cur.at_ = nextPt s.cur.at_ i ∧ t.cur.batch = s.settle.cur.batch + 1 ∧ t.cur.opened = false
        ∧ t.cur.mtx = (if (if s.settle.cur.d.dmode then s.settle.cur.opened else s.batchOpen s.cur s.settle.cur.batch)
            then [⟨s.settle.cur.batch, false⟩] else [])
        ∧ RegistersKept s.settle.cur t.cur ∧ OutsideKept s t)
  ∧ (∀ (s : State) (y : BitVec 3) (a b c : Reg) (s2g : Bool) (k : Option (BitVec 6)), let i := Instr.copy y a b c s2g k
    let x := copySlice s.settle.cur a b c s2g k
    Issues s i Guard.pt → s.cur.d.dmode = false → s.settle.cur.kept = none → s.settle.cur.cpy = [] →
    copySpec s.cur.d x = none → releaseStep s.settle.cur .dev s.settle.cur.ins = true →
      ∃ t, exec i s = .next t ∧ t.cur.at_ = nextPt s.cur.at_ i ∧ RegistersKept s.settle.cur t.cur ∧ t.mem = s.mem
        ∧ t.cur.cpy = [⟨s.settle.blk.suppliedBy s.cur.tno, false⟩]
        ∧ t.blk.suppliedBy s.cur.tno = s.settle.blk.suppliedBy s.cur.tno + 1
        ∧ ∃ q ∈ t.blk.copies, q.k = s.settle.blk.suppliedBy s.cur.tno ∧ x ∈ q.slices)
  ∧ (∀ (s : State) (y : BitVec 3) (a b c : Reg) (s2g : Bool) (k : Option (BitVec 6)) (cause : Nat) (d : Word),
    let i := Instr.copy y a b c s2g k
    Issues s i Guard.pt → TrapsHere s → s.settle.cur.kept = none → s.settle.cur.cpy.length < 63 →
    copySpec s.cur.d (copySlice s.settle.cur a b c s2g k) = some (cause, d) →
      ∃ t, exec i s = .next t ∧ TrappedAll s t cause d ∧ t.cur.cpy = s.settle.cur.cpy ∧ t.blk.copies = s.settle.blk.copies
        ∧ t.blk.supplied = s.settle.blk.supplied)
  ∧ (∀ (s : State) (y : BitVec 3) (n : BitVec 6) (off : BitVec 18) (i : Instr), (i = .waitc y .cpy n ∨ i = .yieldC y .cpy n off) →
    Issues s i Guard.pt → TrapsHere s → s.cur.d.dmode = false → s.settle.cur.cpy.length ≤ n.toNat → s.settle.cur.copyFault = true →
      ∃ t, exec i s = .next t ∧ TrappedAll s t 0x11 s.settle.cur.cpyerr
        ∧ t.cur.unreported = s.settle.cur.unreported.filter fun k => s.settle.cur.cpy.any fun x => x.key == k)
  ∧ (∀ (s : State) (y : BitVec 3) (g : Guard), Issues s (.exit y g) g → TrapsHere s → s.settle.cur.unreported ≠ [] →
    selectedLanes s.settle.cur s.now g ≠ 0 →
    s.settle.cur.ended ||| selectedLanes s.settle.cur s.now g = fullMask s.settle.cur.d.teamw →
      ∃ t, exec (.exit y g) s = .next t ∧ TrappedAll s t 0x11 s.settle.cur.cpyerr ∧ t.cur.ended = s.settle.cur.ended)
  ∧ (∀ (s : State) (y : BitVec 3) (n : BitVec 16) (i : Instr), (i = .mark y n ∨ i = .markW y n) →
    Issues s i Guard.pt → s.cur.d.dmode = false → s.settle.cur.mark ≤ n.toNat → s.settle.lateEntries s.settle.blk n.toNat = [] →
    releaseStep s.settle.cur .dev s.settle.cur.ins = true →
      ∃ t, exec i s = .next t ∧ t.cur.at_ = nextPt s.cur.at_ i ∧ t.cur.mark = n.toNat
        ∧ (s.cur.wait ≠ .markw n.toNat → t.cur.late = s.settle.cur.late) ∧ RegistersKept s.settle.cur t.cur
        ∧ OutsideKept { s with agenda := t.agenda } t ∧ (∃ es, t.agenda = es ++ s.agenda ∧ ∀ e ∈ es, ∃ k, e = .setoutEntryStart s.cur.bid k)
        ∧ (Homed s → s.cur.st = .resident → s.teams = [] → s.blk.d.dmode = false → ∀ l k e, s.launch s.blk.lid = some l →
            l.table[k]? = some e → e.issue ≤ n.toNat → l.entry s.cur.bid k = none → .setoutEntryStart s.cur.bid k ∈ t.agenda))
  ∧ (∀ (s : State) (y : BitVec 3) (n : BitVec 16) (k : Nat) (f : Bool) (r : List (Nat × Bool)), Issues s (.mark y n) Guard.pt →
    TrapsHere s → s.cur.d.dmode = false → s.settle.cur.mark ≤ n.toNat → s.settle.lateEntries s.settle.blk n.toNat = (k, f) :: r →
      ∃ t, exec (.mark y n) s = .next t ∧ TrappedAll s t 0x10 (BitVec.ofNat 32 ((if f then 2 ^ 31 else 0) + k)))
  ∧ (∀ (s : State) (y : BitVec 3) (n : BitVec 16) (i : Instr), (i = .mark y n ∨ i = .markW y n) → Issues s i Guard.pt →
    TrapsHere s → s.cur.d.dmode = false → n.toNat < s.settle.cur.mark →
      ∃ t, exec i s = .next t ∧ TrappedAll s t 0x03 (encodeWord0 i) ∧ t.cur.mark = s.settle.cur.mark)
  ∧ (∀ (s : State) (y : BitVec 3) (g : Guard) (a b : Reg) (h : BitVec 8) (w : BitVec 4) (l : Nat) (ls : List Nat) (d : Word),
    let i := Instr.send y g a b h w
    let dst := fun l => ((s.settle.viewOf i g l).rv a.toNat l).val
    Issues s i g → s.cur.d.dmode = false → s.settle.cur.kept = none → s.settle.cur.msg.length < 63 → s.settle.cur.hmode = false →
    s.settle.cur.recs = [] → releaseStep s.settle.cur .dev s.settle.cur.ins = true →
    lanesOf (selectedLanes s.settle.cur s.now g) = l :: ls → sendSpec s (dst l) = some d → (∀ k ∈ ls, sendSpec s (dst k) ≠ none) →
      ∃ t m key, exec i s = .next t ∧ LanesTrapped s t i [⟨0x16, d, m⟩] ∧ t.channel = s.channel
        ∧ (∀ k < 1024, m.getLsbD k = decide (k ∈ l :: ls)) ∧ t.cur.msg = retireItems (s.settle.cur.msg ++ [⟨key, true⟩]))
  ∧ (∀ (s : State) (y : BitVec 3) (g : Guard) (a b : Reg) (h : BitVec 8) (w : BitVec 4), Issues s (.send y g a b h w) g →
    TrapsHere s → s.cur.d.dmode = true → ∃ t, exec (.send y g a b h w) s = .next t ∧ TrappedAll s t 0x15 2)
  ∧ ∀ (s : State) (y : BitVec 3) (g : Guard) (a b : Reg) (h : BitVec 8) (w : BitVec 4), let i := Instr.send y g a b h w
    let ls := lanesOf (selectedLanes s.settle.cur s.now g)
    let dst := fun l => ((s.settle.viewOf i g l).rv a.toNat l).val
    Issues s i g → s.cur.d.dmode = false → s.settle.cur.kept = none → s.settle.cur.msg.length < 63 →
    releaseStep s.settle.cur .dev s.settle.cur.ins = true →
    (∀ l ∈ ls, sendSpec s (dst l) = none ∧ ownsCore (s.part s.cur.d.part) (dst l).toNat = true) →
      ∃ t key, exec i s = .next t ∧ t.cur.at_ = nextPt s.cur.at_ i ∧ RegistersKept s.settle.cur t.cur ∧ t.mem = s.mem
        ∧ t.cur.msg = retireItems (s.settle.cur.msg ++ [⟨key, ls.isEmpty⟩]) ∧ t.channel = s.channel ++ ls.map fun l => ⟨(dst l).toNat, h.toNat,
            (List.range w.toNat).map fun k => ((s.settle.viewOf i g l).rv (b.toNat + k) l).val, s.srcid s.cur, s.cur.uid, key, s.cur.lid,
            (s.launch s.cur.lid).map fun l => (l.f, l.q)⟩

/-- R159, R160: REORDER of a set of one team: with n active lanes, lanes 0 to n − 1 are active after it, and lane k holds, in
every register that the live mask names, what the lane with the k-th smallest key held (ties by lane). With another team of the
set still to come it arrives and waits. R160, R210: where the live masks of the set differ, every team of it is recorded with cause
0x03 and word 0 of its own REORDER, and nothing moves. -/
def Obligations.ReorderMovesLanes : Prop :=
  (∀ (s : State) (y : BitVec 3) (a b : Reg), let i := Instr.reorder y a b
    let c := s.settle.cur
    let order := sortBy (fun l => (c.rv a.toNat l).val.toNat) (lanesOf c.mask)
    Issues s i Guard.pt → Homed s → s.cur.st = .resident → s.cur.d.dmode = false → s.teams = [] → s.blk.reorder = [] → c.stack = [] →
    liveMask c b / 2 ^ s.cur.d.regs = 0 → c.tags = 0 → c.fix = [] → c.mask ≠ 0 → c.p.length = 7 → (lanesOf c.mask).length ≤ s.cur.d.teamw →
      ∃ t, exec i s = .next t ∧ t.cur.at_ = nextPt s.cur.at_ i ∧ t.cur.wait = .none
        ∧ t.cur.mask = maskOf (List.range (lanesOf c.mask).length) ∧ t.cur.s = c.s ∧ t.mem = s.mem
        ∧ ∀ r k l, (liveMask c b).testBit r = true → r < c.v.length → r < 128 → k < (c.v.getD r []).length → order[k]? = some l →
            t.cur.rv r k = c.rv r l)
  ∧ (∀ (s : State) (y : BitVec 3) (a b : Reg) (u : Team), let i := Instr.reorder y a b
    Issues s i Guard.pt → Homed s → s.cur.d.dmode = false → u ∈ s.teams → u.st = .resident → u.bid = s.cur.bid →
    u.core = s.cur.core → u.wait ≠ .reorder → s.settle.cur.stack = [] → liveMask s.settle.cur b / 2 ^ s.cur.d.regs = 0 →
    (∀ x ∈ s.blk.reorder, x.1 ≠ s.cur.uid) →
      ∃ t, exec i s = .next t ∧ t.cur.at_ = s.cur.at_ ∧ t.cur.wait = .reorder ∧ RegistersKept s.settle.cur t.cur ∧ OutsideKept s t
        ∧ (s.cur.uid, liveMask s.settle.cur b, (encodeWord0 i).toNat, 0) ∈ t.blk.reorder)
  ∧ ∀ (s : State) (y : BitVec 3) (a b : Reg) (u : Team) (m w : Nat), let i := Instr.reorder y a b
    let c := s.settle.cur
    Issues s i Guard.pt → Homed s → s.cur.st = .resident → s.cur.d.dmode = false → s.teams = [u] → u.st = .resident →
    u.bid = s.cur.bid → u.core = s.cur.core → u.uid ≠ s.cur.uid → u.wait = .reorder → u.tags = 0 → u.fix = [] →
    s.blk.reorder = [(u.uid, m, w, 0)] → c.stack = [] → c.tags = 0 → c.fix = [] → c.recs = [] → liveMask c b / 2 ^ s.cur.d.regs = 0 →
    m ≠ liveMask c b →
      ∃ t, exec i s = .next t ∧ t.cur.recs = [⟨s.cur.at_, nextPt s.cur.at_ i, 0x03, encodeWord0 i, c.mask⟩] ∧ t.cur.mask = 0
        ∧ t.cur.wait = .none ∧ RegistersKept { c with mask := 0 } t.cur ∧ t.mem = s.mem
        ∧ ∃ u', t.teams = [u'] ∧ u'.recs = u.recs ++ [⟨u.at_, ⟨u.at_.pc + 8, u.at_.left - 1⟩, 0x03, BitVec.ofNat 32 w, u.mask⟩]
          ∧ u'.mask = 0 ∧ u'.wait = .none ∧ u'.v = u.v

/-! ### Translation (R245 to R250, R327) -/

/-- R247: a walk that finds a permitted leaf caches it, and memory changes only where A was clear; one that faults caches nothing;
R220: one whose table lies in another partition freezes the walker, and a frozen one makes no walk: an access that needs it, or a
RETRY, waits (log 109). R327: INVAL is accepted and counted, or held where 64 are outstanding; INVAL_COMPLETE drops every entry
that the oldest invalidation covers, once no team uses one, and counts, and a held one is accepted: that it is the oldest is log
35, the model's choice; ASIDCTL sets the selected ASID's bits, or ERR outside the function's range. R250: RETRY makes a held
access again, FAIL traps its lane with cause 0x08 at the instruction, and an answer to a fault that is not held is ignored. R220,
R234: an access of a team into another partition's memory freezes the team with all it holds, sends nothing, and quarantines its
partition. -/
def Obligations.TranslationEvents : Prop :=
  (∀ (s : State) (asid : Nat) (va : DWord) (k : AccKind),
    ((s.pier (s.cur.core / 4)).walkerFrozen = true → exec (.tableWalk asid va k) s = .next s)
    ∧ (∀ l, (s.pier (s.cur.core / 4)).walkerFrozen = false → s.walk s.cur.d.part asid va.toNat = .leaf l → permitted (l.entryFor (s.cur.core / 4) asid va.toNat) k 4 = true →
        ∃ t, exec (.tableWalk asid va k) s = .next t
          ∧ t.cached (some s.cur.core) (s.cur.core / 4) asid va.toNat =
              some { l.entryFor (s.cur.core / 4) asid va.toNat with core := some s.cur.core }
          ∧ (l.entry.testBit 6 = true → t.mem = s.mem) ∧ t.cur = s.cur ∧ t.teams = s.teams)
    ∧ (∀ r, s.walk s.cur.d.part asid va.toNat = .fault r → ∃ t, exec (.tableWalk asid va k) s = .next t
          ∧ t.mem = s.mem ∧ t.tlb = s.tlb ∧ t.cur = s.cur ∧ t.teams = s.teams)
    ∧ ∀ a, s.walk s.cur.d.part asid va.toNat = .violation a → s.cur.core / 4 < s.piers.length →
        ∃ t, exec (.tableWalk asid va k) s = .next t ∧ (t.pier (s.cur.core / 4)).walkerFrozen = true ∧ t.tlb = s.tlb)
  ∧ (∀ (s : State) (f : Nat) (va : DWord) (sc : BitVec 2) (asid : Nat), sc ≠ 3 → 64 ≤ s.invals.length →
      ∃ t, exec (.inval f va sc asid) s = .next t ∧ t.invalHeld = s.invalHeld ++ [⟨f, va.toNat / 4096, sc, asid⟩]
        ∧ t.invals = s.invals ∧ t.funcs = s.funcs ∧ t.cur = s.cur)
  ∧ (∀ (s : State) (f : Nat) (va : DWord) (sc : BitVec 2) (asid : Nat), sc ≠ 3 → s.invals.length < 64 → f < s.funcs.length →
      ∃ t, exec (.inval f va sc asid) s = .next t ∧ t.invals = s.invals ++ [⟨f, va.toNat / 4096, sc, asid⟩]
        ∧ (t.func f).invalSent = (s.func f).invalSent + 1 ∧ t.tlb = s.tlb ∧ t.mem = s.mem ∧ t.cur = s.cur)
  ∧ (∀ (s : State) (f : Nat) (i : Inval), (s.invals.find? fun x => x.f = f) = some i → f < s.funcs.length →
      (∀ u ∈ s.allTeams, u.uses i = false) → (∀ b ∈ s.saved, ∀ u ∈ b.teams, u.flies i = false) →
      ∃ t, exec (.invalComplete f) s = .next t ∧ (t.func f).invalDone = (s.func f).invalDone + 1
        ∧ (s.invalHeld = [] → t.invals = s.invals.erase i)
        ∧ (∀ h r, s.invalHeld = h :: r → t.invals = s.invals.erase i ++ [h] ∧ t.invalHeld = r)
        ∧ (∀ e ∈ t.tlb, e.covered i = false) ∧ (∀ e ∈ s.tlb, e.covered i = false → e ∈ t.tlb) ∧ t.mem = s.mem ∧ t.cur = s.cur)
  ∧ (∀ (s : State) (f : Nat) (v : Word), f < s.funcs.length →
      ∃ t, exec (.asidctlWrite f v) s = .next t ∧ t.mem = s.mem
        ∧ ((s.func f).ownsAsid = true → (s.func f).asidsel < s.asids.length →
            t.asid (s.func f).asidsel = { s.asid (s.func f).asidsel with recov := v.getLsbD 1, valid := v.getLsbD 0 }
              ∧ (t.func f).asidErr = false)
        ∧ ((s.func f).ownsAsid = false → t.asids = s.asids ∧ (t.func f).asidErr = true))
  ∧ (∀ (s : State) (f token : Nat), s.holders.lookup token = none →
      exec (.prespRetry f token) s = .next s ∧ exec (.prespFail f token) s = .next s)
  ∧ (∀ (s : State) (f token : Nat), Homed s → s.holders.lookup token = some (.team s.cur.uid) →
      s.funcOf s.cur.lid s.cur.d.part = f → (s.pier (s.cur.core / 4)).walkerFrozen = true →
      (s.cur.d.dmode = true → ∀ b ∈ s.saved, b.blk.lid ≠ s.cur.lid) →
      ∃ t, exec (.prespRetry f token) s = .next t ∧ t.cur = s.cur ∧ t.mem = s.mem
        ∧ t.holders.lookup token = some (.retried s.cur.uid))
  ∧ (∀ (s s1 : State) (f token : Nat) (h : HeldAccess) (op : AccOp) (pa : Nat) (dev : Bool), Homed s →
      s.holders.lookup token = some (.team s.cur.uid) → s.funcOf s.cur.lid s.cur.d.part = f → s.cur.held = [h] → h.token = token →
      h.kind = .load → h.op = some op → op ≠ .load .b128 → h.whole = false → h.failed = none → s.cur.d.dmode = false →
      (s.pier (s.cur.core / 4)).walkerFrozen = false →
      State.xlate { s with holders := s.holders.filter fun x => x.1 ≠ token, cur := { s.cur with held := [] } } h.va h.kind h.size
        = (s1, .ok pa dev) →
      ∃ t a, exec (.prespRetry f token) s = .next t ∧ t.cur.held = [] ∧ t.cur.accesses = s.cur.accesses ++ [a]
        ∧ a.pa = pa ∧ a.op = op ∧ a.lane = h.lane ∧ a.tag = h.tag ∧ t.holders.lookup token = none ∧ t.cur.v = s.cur.v
        ∧ t.mem = s1.mem)
  ∧ (∀ (s : State) (f token : Nat) (h : HeldAccess), Homed s →
      s.holders.lookup token = some (.team s.cur.uid) → s.funcOf s.cur.lid s.cur.d.part = f → s.cur.held = [h] → h.token = token →
      h.kind = .load → h.whole = false → h.failed = none → h.lane < 1024 → s.cur.at_ = h.next → s.cur.recs = [] →
      s.cur.hmode = false → s.cur.mask &&& ~~~ laneBit h.lane ≠ 0 → (s.cur.d.dmode = true → ∀ b ∈ s.saved, b.blk.lid ≠ s.cur.lid) →
      ∃ t, exec (.prespFail f token) s = .next t ∧ t.cur.held = []
        ∧ t.cur.recs = [⟨h.start, h.next, 0x08, h.va.extractLsb' 0 32, laneBit h.lane⟩]
        ∧ t.cur.mask = s.cur.mask &&& ~~~ laneBit h.lane ∧ t.holders.lookup token = none ∧ t.cur.v = s.cur.v ∧ t.mem = s.mem)
  ∧ ∀ (s : State) (i : Instr) (g : Guard) (k : AccKind) (n pa : Nat) (a : Reg) (off : BitVec 10) (va : DWord) (lk : Look),
      accessForm i = some (g, k, n, a, off) → Issues s i g → s.settle.cur.d.dmode = false →
      lk = s.settle.look k n (laneAddrs s.settle.cur s.now i g fun t l => t.rvPair a.toNat l + off.signExtend 64) →
      lk.dead = none → lk.viol = some (false, va, pa) → s.cur.d.part < s.parts.length → (s.part s.cur.d.part).st = .active →
      s.frozen.length < 8 →
        ∃ t, exec i s = .next t ∧ t.cur = { s.settle.cur with st := .frozen } ∧ (t.part s.cur.d.part).st = .quarantined
          ∧ t.frozen = s.frozen ++ [(s.cur.d.part, s.srcid s.cur, s.clock.toNat)]
          ∧ (∃ r, t.recent.head? = some r ∧ r.code = faultCode 2 0x00 0x21 ∧ r.part = s.cur.d.part)

/-! ### Engines and D-mode (R267 to R274 of *D-mode*, R289, R305 to R317) -/

/-- A range of physical addresses of plain memory, which lies at one place in the device's memory. -/
def PlainRange (s : State) (pa n : Nat) : Prop :=
  ∀ k < n, (∀ x, placeOf (pa + k) ≠ .regs x) ∧ homeOf s.devno (pa + k) = homeOf s.devno pa + k

/-- R305: COPY_BEAT moves the next beat of the block's oldest copy: a slice of 16 bytes out of slice memory stands in the
scratchpad then. R307: a slice of 16 bytes whose translation fails moves nothing, and the copy notes the fault. R305 to R308:
COPY_COMPLETE retires a copy from the counter of its teams; one that faulted without a record leaves CPYERR and a fault unreported, for
the lowest-numbered team and its lowest KIND; one of one slice with a record leaves the 16 bytes of R306. R289: BATCH_COMPLETE retires
the batches whose instructions are done; that in D-mode it does nothing, and a commit does so, is log 59, the model's choice. R315,
R316: an entry that may start starts; when it completes, one that zeroes a range of its slice has done so, and one of 256 bytes has
fetched, written back or evicted them: that it leaves memory as it was until then is log 47, the model's choice. A DROP cancels a
ZERO that is running for the same block, each of whose units is then old or zero. R317: an entry whose translation fails is faulted,
with one fault record. R268 to R270: DMODE_COMMIT carries out what the teams hold: a store's bytes, an atomic's read and write, whose
old value goes to the register; and a quantum is counted. R206, R274: it kills a block whose team's trap kills, and performs nothing of
it; that the kill waits for the commit is log 121, the model's reading. -/
def Obligations.EngineEvents : Prop :=
  (∀ (s : State) (c : Copy) (x : Slice) (off : Nat) (r : List (Slice × Nat)), s.blk.live = true → s.blk.copies = [c] →
      c.started = true → c.differs = none → c.beats.drop c.beat = (x, off) :: r → s.blk.kill = none → s.blk.leaving ≠ .flush →
      s.blk.d.dmode = false →
      (s.core s.blk.home).bteFrozen = false → s.openCycle s.blk.home = true →
      ∃ t, exec (.copyBeat s.blk.bid) s = .next t ∧ t.blk.copies.map (·.beat) = [c.beat + 1]
        ∧ (let s0 := (s.chargeBeat s.blk.home).onCopy c.k fun c => { c with beat := c.beat + 1 }
           ∀ s1 pa dev, c.slices = [x] → x.n = 16 → off = 0 → x.s2g = false → Mem.wf s.blk.spad = true →
            s0.translate none (s.blk.home / 4) s.blk.d.part s.blk.d.asid x.ga .load 16 = (s1, .ok pa dev) →
            0x8000000000000 ≤ pa → pa + 16 ≤ 0x8000000000000 + 0x18000000 → s1.badData pa 16 = false →
            memReadN t.blk.spad x.off 16 = s1.bytesAt pa 16 ∧ t.mem = s1.mem
              ∧ ∀ a, (a < x.off ∨ x.off + 16 ≤ a) → memRead t.blk.spad a = memRead s.blk.spad a))
  ∧ (∀ (s : State) (c : Copy) (x : Slice) (r : Nat), s.blk.live = true → s.blk.copies = [c] → c.slices = [x] → x.n = 16 →
      c.beats.drop c.beat = [(x, 0)] → c.started = true → s.blk.kill = none → s.blk.leaving ≠ .flush → s.blk.d.dmode = false →
      (s.core s.blk.home).bteFrozen = false → s.openCycle s.blk.home = true →
      let s0 := (s.chargeBeat s.blk.home).onCopy c.k fun c => { c with beat := c.beat + 1 }
      ∀ s1 : State, s0.translate none (s.blk.home / 4) s.blk.d.part s.blk.d.asid x.ga (if x.s2g then .store else .load) 16 = (s1, .fault r) →
        (s1.asid s.blk.d.asid).recov = false → s1.blk = s0.blk →
        ∃ t, exec (.copyBeat s.blk.bid) s = .next t ∧ t.blk.spad = s.blk.spad ∧ t.mem = s1.mem
          ∧ t.blk.copies = [{ c with beat := c.beat + 1, faults := c.faults ++ [⟨x.tno, if r = 1 then 2 else 1, x.ga, 1⟩] }])
  ∧ (∀ (s : State) (c : Copy) (f : CopyFault), Homed s → s.cur.st = .resident → s.blk.copies = [c] → c.finished = true →
      c.differs = none → f ∈ c.faults → (∀ g ∈ c.faults, g.kind < 8 ∧ (f.tno < g.tno ∨ f.tno = g.tno ∧ f.kind ≤ g.kind)) →
      (∀ x ∈ c.slices, x.ring = none) → (∃ x ∈ c.slices, x.tno = s.cur.tno) →
      s.blk.kill = none → s.blk.leaving ≠ .flush → s.blk.d.dmode = false → (s.core s.blk.home).bteFrozen = false →
      ∃ t, exec (.copyComplete s.blk.bid) s = .next t ∧ t.blk.copies = [] ∧ t.blk.kill = none ∧ t.mem = s.mem
        ∧ t.cur.cpy = doneItem s.cur.cpy c.k ∧ t.cur.unreported = s.cur.unreported ++ [c.k]
        ∧ t.cur.cpyerr = BitVec.ofNat 32 (2 ^ 31 + f.kind * 2 ^ 24 + f.tno * 2 ^ 17))
  ∧ (∀ (s : State) (c : Copy) (x : Slice) (tag base : Nat), Homed s → s.blk.copies = [c] → c.finished = true → c.slices = [x] →
      x.ring = some (tag, base) → Mem.wf s.blk.spad = true →
      s.blk.kill = none → s.blk.leaving ≠ .flush → s.blk.d.dmode = false → (s.core s.blk.home).bteFrozen = false →
      ∃ t, exec (.copyComplete s.blk.bid) s = .next t ∧ t.blk.copies = [] ∧ t.cur.unreported = s.cur.unreported ∧ t.mem = s.mem
        ∧ (let a := base + 16 * tag
           let clock := bytesOf 4 (s.clock.toNat % 2 ^ 32)
           (∀ y, (y < a ∨ a + 16 ≤ y) → memRead t.blk.spad y = memRead s.blk.spad y)
           ∧ (c.faults = [] → memReadN t.blk.spad a 16 = [0, 0, 0, 0] ++ bytesOf 4 x.n ++ [BitVec.ofNat 8 tag, 0, 0, 0] ++ clock)
           ∧ ∀ f, c.faults = [f] → f.tno = x.tno → x.tno = s.cur.tno →
              t.cur.cpyerr = BitVec.ofNat 32 (2 ^ 31 + f.kind * 2 ^ 24 + f.tno * 2 ^ 17 + 2 ^ 16 + tag * 2 ^ 10)
              ∧ memReadN t.blk.spad a 16 = [1, BitVec.ofNat 8 f.kind] ++ bytesOf 2 (faultCode (if s.blk.d.idem then 0 else 1) 0x05 0x11)
                  ++ [0, 0, 0, 0] ++ [BitVec.ofNat 8 tag, BitVec.ofNat 8 f.tno, 0, 0] ++ clock))
  ∧ (∀ (s : State) (c : Copy), Homed s → s.blk.copies = [c] → c.finished = true → c.report = none → (∀ x ∈ c.slices, x.ring = none) →
      s.blk.kill = none → s.blk.leaving ≠ .flush → s.blk.d.dmode = false → (s.core s.blk.home).bteFrozen = false →
      ∃ t, exec (.copyComplete s.blk.bid) s = .next t ∧ t.blk.copies = [] ∧ t.mem = s.mem ∧ t.blk.spad = s.blk.spad
        ∧ t.cur.cpy = (if c.slices.any fun x => x.tno = s.cur.tno then doneItem s.cur.cpy c.k else s.cur.cpy)
        ∧ t.cur.cpyerr = s.cur.cpyerr ∧ t.cur.v = s.cur.v)
  ∧ (∀ s : State, Homed s → s.cur.d.dmode = false → (∀ b, s.batchOpen s.cur b = false) →
      ∃ t, exec (.batchComplete s.cur.uid) s = .next t ∧ t.mem = s.mem
        ∧ (s.cur.wait ≠ .finish ∨ s.blk.reorder = [] → t.cur.mtx = [] ∧ t.cur.v = s.cur.v)
        ∧ (s.cur.wait ≠ .finish → t.cur.at_ = s.cur.at_ ∧ t.cur.st = s.cur.st)
        ∧ (s.cur.wait = .finish → s.cur.st = .resident → s.mtxBusy s.cur = false → s.blk.reorder = [] → t.cur.st = .ended))
  ∧ (∀ s : State, Homed s → s.cur.d.dmode = true → exec (.batchComplete s.cur.uid) s = .next s)
  ∧ (∀ (s : State) (bid idx : Nat) (b : Block) (l : Launch) (e : SetEntry), s.block bid = some b → s.launch b.lid = some l →
      b.d.dmode = false → l.table[idx]? = some e → e.kind = 3 → s.entryMayStart b l idx e = true →
      (∀ k e', l.table[k]? = some e' → k < idx → e'.slice = e.slice → s.entryMayStart b l k e' = false) →
      ∃ t, exec (.setoutEntryStart bid idx) s = .next t ∧ t.mem = s.mem ∧ t.cur = s.cur
        ∧ t.launches = s.launches.map fun x => if x.lid = l.lid then { x with ents := x.ents ++ [⟨bid, b.index, idx, .running⟩] } else x)
  ∧ (∀ (s : State) (l : Launch) (r : EntRun) (e : SetEntry), s.Canonical → s.launches = [l] → l.ents = [r] →
      l.table[r.idx]? = some e → l.d.dmode = false → r.st = .running → e.kind = 3 → e.slice < 48 → e.len % 8 = 0 →
      e.soff + r.index * e.sstride + e.len ≤ 0x800000 → (s.slices.getD e.slice .reset).tierFrozen = false →
      ∃ t, exec (.setoutEntryComplete r.bid r.idx) s = .next t ∧ t.launches = [{ l with ents := [{ r with st := .complete }] }]
        ∧ let a := 0x8000000000000 + e.slice * 0x800000 + e.soff + r.index * e.sstride
          (∀ x, a ≤ x → x < a + e.len → memRead t.mem x = 0)
            ∧ ∀ x, (x < a ∨ a + e.len ≤ x) → memRead t.mem x = memRead s.mem x)
  ∧ (∀ (s s1 : State) (l : Launch) (r : EntRun) (e : SetEntry) (pa : Nat) (dev : Bool), s.launches = [l] → l.ents = [r] →
      l.table[r.idx]? = some e → l.d.dmode = false → r.st = .running → e.kind < 3 → e.len = 256 → e.slice < 48 →
      e.soff + r.index * e.sstride + 256 ≤ 0x800000 → (s.slices.getD e.slice .reset).tierFrozen = false →
      let a := 0x8000000000000 + e.slice * 0x800000 + e.soff + r.index * e.sstride
      s.translate none e.slice l.d.part l.d.asid (e.gaddr + BitVec.ofNat 64 (r.index * e.gstride)) (if e.kind = 0 then .load else .store) 256
        = (s1, .ok pa dev) →
      s1.Canonical → s1.launches = [l] → PlainRange s1 pa 256 → (homeOf s1.devno pa + 256 ≤ a ∨ a + 256 ≤ homeOf s1.devno pa) →
      s1.badData (if e.kind = 0 then pa else a) 256 = false →
      ∃ t, exec (.setoutEntryComplete r.bid r.idx) s = .next t ∧ t.launches = [{ l with ents := [{ r with st := .complete }] }]
        ∧ (e.kind = 0 → memReadN t.mem a 256 = s1.bytesAt pa 256
            ∧ ∀ x, (x < a ∨ a + 256 ≤ x) → memRead t.mem x = memRead s1.mem x)
        ∧ (e.kind ≠ 0 → memReadN t.mem (homeOf s1.devno pa) 256 = memReadN s1.mem a 256
            ∧ (∀ x, a ≤ x → x < a + 256 → memRead t.mem x = if e.kind = 1 then memRead s1.mem x else 0)
            ∧ ∀ x, (x < a ∨ a + 256 ≤ x) → (x < homeOf s1.devno pa ∨ homeOf s1.devno pa + 256 ≤ x) → memRead t.mem x = memRead s1.mem x))
  ∧ (∀ (s s1 : State) (l : Launch) (r : EntRun) (e : SetEntry) (n : Nat), s.launches = [l] → l.ents = [r] →
      l.table[r.idx]? = some e → l.d.dmode = false → r.st = .running → e.kind < 3 → e.len = 256 →
      (s.slices.getD e.slice .reset).tierFrozen = false →
      let va := e.gaddr + BitVec.ofNat 64 (r.index * e.gstride)
      s.translate none e.slice l.d.part l.d.asid va (if e.kind = 0 then .load else .store) 256 = (s1, .fault n) →
      s1.launches = [l] → (s1.asid l.d.asid).recov = false →
      ∃ t, exec (.setoutEntryComplete r.bid r.idx) s = .next t ∧ t.launches.map (·.ents) = [[{ r with st := .faulted }]]
        ∧ t.launches.map (·.fault) = [some (l.fault.getD (faultCode 1 0x06 0x11))]
        ∧ ∃ x, t.recent.head? = some x ∧ x.code = faultCode 1 0x06 0x11 ∧ x.part = l.d.part)
  ∧ (∀ (s : State) (bid idx k : Nat) (b : Block) (l : Launch) (e e' : SetEntry), s.Canonical → s.block bid = some b →
      s.launches = [l] → l.lid = b.lid → b.d.dmode = false → l.table[idx]? = some e → e.kind = 4 → s.entryMayStart b l idx e = true →
      (∀ k e', l.table[k]? = some e' → k < idx → e'.slice = e.slice → s.entryMayStart b l k e' = false) →
      k < idx → l.table[k]? = some e' → e'.kind = 3 → e'.slice = e.slice → e.slice < 48 → e'.len % 8 = 0 →
      e'.soff + b.index * e'.sstride + e'.len ≤ 0x800000 → l.ents = [⟨bid, b.index, k, .running⟩] →
      e.soff + b.index * e.sstride < e'.soff + b.index * e'.sstride + e'.len →
      e'.soff + b.index * e'.sstride < e.soff + b.index * e.sstride + e.len →
      ∃ t, exec (.setoutEntryStart bid idx) s = .next t
        ∧ t.launches = [{ l with ents := [⟨bid, b.index, k, .cancelled⟩, ⟨bid, b.index, idx, .running⟩] }]
        ∧ let a := 0x8000000000000 + e'.slice * 0x800000 + e'.soff + b.index * e'.sstride
          (∀ x, a ≤ x → x < a + e'.len → memRead t.mem x = memRead s.mem x ∨ memRead t.mem x = 0)
            ∧ ∀ x, (x < a ∨ a + e'.len ≤ x) → memRead t.mem x = memRead s.mem x)
  ∧ (∀ (s : State) (l : Launch) (r : EntRun) (e : SetEntry), s.launches = [l] → l.ents = [r] → l.table[r.idx]? = some e →
      l.d.dmode = false → r.st = .running → e.kind = 4 → (s.slices.getD e.slice .reset).tierFrozen = false →
      ∃ t, exec (.setoutEntryComplete r.bid r.idx) s = .next t ∧ t.launches = [{ l with ents := [{ r with st := .complete }] }]
        ∧ t.mem = s.mem)
  ∧ (∀ (s : State) (l : Launch) (w : WaitingStore), QuantumOver s l → s.cur.wait = .none → s.cur.dkill = none →
      s.cur.dheld = [.store w] → w.bytes ≠ [] →
      0x8000000000000 ≤ w.pa → w.pa + w.bytes.length ≤ 0x8000000000000 + 0x18000000 →
      ∃ t, Commits s l t ∧ t.cur.dheld = []
        ∧ memReadN t.mem w.pa w.bytes.length = w.bytes
        ∧ (∀ x, (x < w.pa ∨ w.pa + w.bytes.length ≤ x) → memRead t.mem x = memRead s.mem x)
        ∧ t.cur.v = s.cur.v ∧ t.cur.at_ = s.cur.at_)
  ∧ (∀ (s : State) (l : Launch) (k n lane d pa b c : Nat) (op : AOp) (x : Spot), QuantumOver s l →
      s.cur.wait = .none → s.cur.dkill = none → s.cur.dheld = [.atom k n lane (.atom op false) d x pa b c] → s.badData pa 4 = false →
      0x8000000000000 ≤ pa → pa + 4 ≤ 0x8000000000000 + 0x18000000 →
      ∃ t, Commits s l t ∧ t.cur.dheld = []
        ∧ t.num pa 4 = atomNew op false (s.num pa 4) b % 2 ^ 32
        ∧ (∀ x, (x < pa ∨ pa + 4 ≤ x) → memRead t.mem x = memRead s.mem x)
        ∧ t.cur.v = (s.cur.putAll (laneRegs d lane [BitVec.ofNat 32 (s.num pa 4)])).v ∧ t.cur.at_ = s.cur.at_)
  ∧ ∀ (s : State) (l : Launch) (k : KillInfo), QuantumOver s l → s.cur.dkill = some k →
      ∃ t, exec (.dmodeCommit l.lid) s = .next t ∧ t.blk.kill = some k ∧ t.mem = s.mem ∧ t.blk.spad = s.blk.spad ∧ t.cur.v = s.cur.v

/-! ### Queues (R64 to R88) -/

/-- Queue `q` of function `f` exists. -/
abbrev HasQueue (s : State) (f q : Nat) : Prop := f < s.funcs.length ∧ q < (s.func f).queues.length

/-- R67, R84, R88: QTAIL sets TAIL, and one that is ahead of HEAD by more than the ring faults an active queue. QCHEAD sets CHEAD
unless it is behind the last one or ahead of CMPLTAIL. ENABLE reads the half and activates an idle or reset queue whose half is
well-formed and names a tenant of its partition, and faults one that is not; it lets a stopped queue go on, and STOP stops it.
That ENABLE does nothing while the interface is in ERROR is log 104, the model's choice. RESET takes the queue to RESETTING,
cancels its launches and drops their messages that no core has accepted; once nothing of it is left it is RESET, with HEAD at
TAIL. A pending completion interrupt is raised when its time is up. -/
def Obligations.QueueRegisterEvents : Prop :=
  ∀ (s : State) (f q : Nat), HasQueue s f q →
    (∀ v : Word, ∃ t, exec (.qtailWrite f q v) s = .next t ∧ (t.queue f q).tail = v ∧ (t.queue f q).head = (s.queue f q).head
        ∧ (t.queue f q).st = (if (s.queue f q).st = .active ∧ 2 ^ (s.queue f q).half.ringlog < (v - (s.queue f q).head).toNat
            then .faulted else (s.queue f q).st) ∧ t.cur = s.cur ∧ t.teams = s.teams)
    ∧ (∀ v : Word,
        ((v - (s.queue f q).chead).toNat ≤ ((s.queue f q).cmplTail - (s.queue f q).chead).toNat → (s.queue f q).owed = [] →
          ∃ t, exec (.qcheadWrite f q v) s = .next t ∧ (t.queue f q).chead = v ∧ (t.queue f q).st = (s.queue f q).st
            ∧ (t.queue f q).cmplTail = (s.queue f q).cmplTail)
        ∧ (((s.queue f q).cmplTail - (s.queue f q).chead).toNat < (v - (s.queue f q).chead).toNat →
          exec (.qcheadWrite f q v) s = .next s))
    ∧ (let bs := s.bytesAt (hostPa (s.qcbAt f q)) 128
       let h := QcbHalf.ofBytes bs
       (s.func f).tdi ≠ .locked → (s.func f).stopped = false → ((s.queue f q).st = .idle ∨ (s.queue f q).st = .reset) → (s.func f).snapshot = [] →
        ∃ t, exec (.qctlEnable f q) s = .next t ∧ (t.queue f q).half = h ∧ t.cur = s.cur
          ∧ (t.queue f q).st = (if h.ok (zeroBytes bs 0x1E 0x62) = true ∧ (s.part h.part).knows h.tenant = true
                ∧ ((s.queue f q).tail - (s.queue f q).head).toNat ≤ 2 ^ h.ringlog then .active else .faulted))
    ∧ ((s.func f).stopped = true → exec (.qctlEnable f q) s = .next s)
    ∧ ((s.func f).tdi ≠ .locked → (s.func f).stopped = false → (s.queue f q).st = .active →
        ∃ t, exec (.qctlEnable f q) s = .next t ∧ (t.queue f q).stopped = false ∧ (t.queue f q).st = .active ∧ t.mem = s.mem)
    ∧ (∃ t, exec (.qctlStop f q) s = .next t ∧ (t.queue f q).stopped = true ∧ (t.queue f q).st = (s.queue f q).st ∧ t.mem = s.mem)
    ∧ ((s.queue f q).st ≠ .resetting →
        ∃ t, exec (.qctlReset f q) s = .next t ∧ (t.queue f q).st = .resetting
          ∧ (∀ l ∈ t.launches, l.f = f → l.q = q → l.cancelled = true) ∧ ∀ m ∈ t.channel, m.queue ≠ some (f, q))
    ∧ ((s.queue f q).st = .resetting → (∀ l ∈ s.launches, l.f = f → l.q ≠ q) → (s.queue f q).owed = [] →
        ∃ t, exec (.queueResetComplete f q) s = .next t ∧ (t.queue f q).st = .reset ∧ (t.queue f q).head = (s.queue f q).tail
          ∧ (t.queue f q).taken = [] ∧ (t.queue f q).pending = 0)
    ∧ ∀ i : Instr, (s.queue f q).pending ≠ 0 →
        ((i = .coalescingTimer f q ∧ (s.queue f q).oldest + (s.queue f q).half.coalt * 1250 ≤ s.clock.toNat)
          ∨ (i = .idleFlush f q ∧ ∃ n, (s.queue f q).idleFrom = some n ∧ n + 5000 ≤ s.clock.toNat)) →
        ∃ t, exec i s = .next t ∧ (t.queue f q).pending = 0 ∧ t.mem = s.mem
          ∧ (s.reaches f q = true → (t.func f).irqs = (s.func f).irqs ++ [(s.queue f q).half.irqvec])

/-- R68 to R76, R80: a NOP, WAIT or SIGNAL that is taken moves HEAD (that HEAD passes a command when it is
taken and not when it completes is log 56); WAIT, SIGNAL and commands with ORDER do not act while anything taken before is left;
SIGNAL has written its value. A LAUNCH whose descriptor passes every check is accepted: its blocks are to
be dealt. A launch whose blocks have ended is complete, with a record where it asked for one. -/
def Obligations.QueueCommandEvents : Prop :=
  (∀ (s s1 : State) (f q : Nat) (c : Command) (i : Instr), HasQueue s f q → s.takes f q = true → s.nextCommand f q = (s1, .ok c) →
      c.formed = true → c.cmpl = false →
      ((i = .cmdNop f q ∧ c.kind = 0 ∧ (c.order = true → (s.queue f q).taken = []))
        ∨ (i = .cmdWait f q ∧ c.kind = 2 ∧ (s.queue f q).taken = [])) →
      ∃ t, exec i s = .next t ∧ (t.queue f q).head = (s.queue f q).head + 1 ∧ (t.queue f q).taken = (s.queue f q).taken
        ∧ (t.queue f q).st = .active ∧ t.launches = s.launches ∧ t.cur = s.cur ∧ t.teams = s.teams)
  ∧ (∀ (s s1 : State) (f q : Nat) (c : Command) (i : Instr), s.nextCommand f q = (s1, .ok c) → (s.queue f q).taken ≠ [] →
      (i = .cmdWait f q ∨ i = .cmdSignal f q ∨ c.order = true ∧ (i = .cmdNop f q ∨ i = .cmdLaunch f q)) → exec i s = .next s)
  ∧ (∀ (s s1 s2 : State) (f q pa : Nat) (c : Command) (dev : Bool), HasQueue s f q → s.takes f q = true →
      s.nextCommand f q = (s1, .ok c) → c.formed = true → c.cmpl = false → c.kind = 3 → (s.queue f q).taken = [] →
      (s1.advanceHead f q).queueXlate f q c.addr .store 8 = (s2, .ok pa dev) → s2.badData pa 8 = false → s2.reaches f q = true → s2.Canonical →
      0x8000000000000 ≤ pa → pa + 8 ≤ 0x8000000000000 + 0x18000000 →
      ∃ t, exec (.cmdSignal f q) s = .next t ∧ (t.queue f q).head = (s.queue f q).head + 1
        ∧ t.num pa 8 = c.value.toNat ∧ ∀ x, (x < pa ∨ pa + 8 ≤ x) → memRead t.mem x = memRead s2.mem x)
  ∧ (∀ (s s1 s2 s3 s4 : State) (f q : Nat) (c : Command) (b ab tb : List Byte), HasQueue s f q → s.takes f q = true →
      s.nextCommand f q = (s1, .ok c) → c.formed = true → c.kind = 1 → (c.order = true → (s.queue f q).taken = []) →
      (s.queue f q).inflight < 16 →
      let d := Desc.ofBytes b (s.queue f q).half
      let n := if d.setout ≠ 0 then d.setoutn else 0
      (s1.advanceHead f q).queueRead f q c.addr 128 = (s2, .ok b) → s2.queueRead f q (c.addr + 0x80) (4 * d.argn) = (s3, .ok ab) →
      s3.queueRead f q d.setout (32 * n) = (s4, .ok tb) →
      launchStatus (s4.part (s.queue f q).half.part) true b d (s.queue f q).half (tableOf tb n) = 0 →
      ∃ t l, exec (.cmdLaunch f q) s = .next t ∧ t.launches = s.launches ++ [l] ∧ l.f = f ∧ l.q = q ∧ l.tag = c.tag ∧ l.d = d
        ∧ l.blocks = d.gridx * d.gridy * d.gridz ∧ l.dealt = 0 ∧ l.ended = 0 ∧ l.killed = 0 ∧ l.cancelled = false
        ∧ (t.queue f q).head = (s.queue f q).head + 1
        ∧ (t.queue f q).taken = (s.queue f q).taken ++ [⟨l.lid, c, some l.lid⟩])
  ∧ ∀ (s : State) (l : Launch), s.launch l.lid = some l → HasQueue s l.f l.q → l.cancelled = false → l.blocks = l.ended →
      l.killed = 0 → (∀ e ∈ l.ents, e.st = .complete ∨ e.st = .cancelled) → (s.queue l.f l.q).ringFull = false →
      ∃ t, exec (.launchComplete l.lid) s = .next t ∧ t.launches = (s.launches.filter fun x => x.lid ≠ l.lid)
        ∧ (t.queue l.f l.q).taken = ((s.queue l.f l.q).taken.filter fun x => x.lid ≠ some l.lid)
        ∧ (t.queue l.f l.q).cmplTail = (s.queue l.f l.q).cmplTail + (if l.cmpl then 1 else 0)

/-! ### The scheduler tree, messages, ends of blocks (R22, R77 to R87) -/

/-- R78: a launch with blocks that may be dealt. -/
def Dealable (s : State) (part : Nat) (l : Launch) : Prop :=
  l ∈ s.launches ∧ l.d.part = part ∧ l.cancelled = false ∧ l.dealt < l.blocks ∧ (s.part part).holder = some l.d.tenant

/-- R78: how far a launch's queue is along the round that goes on from a queue, of 64 queues to a function. -/
def roundPlace (start : Nat × Nat) (l : Launch) : Nat :=
  (64 * l.f + l.q + 64 * Config.numFunctions - (64 * start.1 + start.2)) % (64 * Config.numFunctions)

/-- R79: a range of a partition whose tenant holds the slice (R334). -/
def OffersNow (s : State) (part : Nat) (r : BlockRange) : Prop :=
  r.part = part ∧ ∃ l, s.launch r.lid = some l ∧ (s.part part).holder = some l.d.tenant

/-- R79: how many blocks are resident on a core, those of its pair on both of its cores. -/
def residents (s : State) (c : Nat) : Nat := (s.allBlocks.filter fun b => b.live && (b.home == c || (b.pair && b.home + 1 == c))).length

/-- R23 to R25, R57: a core takes a block alone, by the class rule and by its room. -/
def Takes (s : State) (d : Desc) (c : Nat) : Prop := s.classOk c d.cls = true ∧ (s.bindOn c d d.teams d.kib).isSome = true

/-- R78: DISPATCH deals the next range of a launch to the pier that the pointer names, for a permit, and the pointer moves to the
partition's next pier, from the highest to the lowest; the launch is one of the most urgent class, the earliest of its queue, of the
queue that comes first in the round, which goes on after every range (log 101, the model's choice). R79: a leaf takes its ranges to
the tail of its queue, and their permits go back; the range that is next is the first of the most urgent class; BLOCK_PLACE starts its
first block on the place found for it, unless cores are kept for a class-0 D-mode grid (R82), or it waits at the head. A place on
one core is on the pair with fewer resident blocks, on a tie pair 2+3, and there on the core with fewer, on a tie the lower, among
those that take the block; a place on a pair is on pair 0+1 first. R22, R77, R80: a block whose teams have ended and are quiet,
without matrix work (R289), leaves, and the leaf has its report; in D-mode not before the commit of the quantum in which a team of
it acted (R268); DONE, KILLED and SAVED take reports up and count. R84: CANCEL drops a cancelled launch's ranges and saved blocks.
R79: a saved block is sent to a leaf. R86: a message goes into its core's inbox, or waits where that is full; msg falls with the last
message of its SEND; and a handler team starts with it. -/
def Obligations.TreeEvents : Prop :=
  (∀ (s : State) (part : Nat) (l : Launch), s.nextDeal part = some l → (s.launches.map (·.lid)).Nodup →
      (∀ m ∈ s.launches, m.f < Config.numFunctions ∧ m.q < 64) →
      64 * (s.part part).nextQueue.1 + (s.part part).nextQueue.2 ≤ 64 * Config.numFunctions →
      Dealable s part l ∧ (∀ m ∈ s.launches.takeWhile fun m => m.lid != l.lid, Dealable s part m → m.f ≠ l.f ∨ m.q ≠ l.q)
        ∧ ∀ m, Dealable s part m →
            (∀ k ∈ s.launches.takeWhile fun k => k.lid != m.lid, Dealable s part k → k.f ≠ m.f ∨ k.q ≠ m.q) →
            l.d.prio < m.d.prio
              ∨ l.d.prio = m.d.prio ∧ roundPlace (s.part part).nextQueue l ≤ roundPlace (s.part part).nextQueue m)
  ∧ (∀ (s : State) (part : Nat) (l : Launch) (t : State), let pp := (s.part part).pierPtr
    s.nextDeal part = some l → (s.part part).st = .active → l.d.dmode = false → (s.pier pp).cmdPermits ≠ 0 → part < s.parts.length →
      exec (.dispatch part) s = .next t →
      (t.part part).nextQueue = (l.f, l.q + 1)
        ∧ ((∃ q ∈ (s.part part).piers, pp < q) → (t.part part).pierPtr ∈ (s.part part).piers ∧ pp < (t.part part).pierPtr
            ∧ ∀ q ∈ (s.part part).piers, pp < q → (t.part part).pierPtr ≤ q)
        ∧ ((s.part part).piers ≠ [] → (∀ q ∈ (s.part part).piers, q ≤ pp) → (t.part part).pierPtr ∈ (s.part part).piers
            ∧ ∀ q ∈ (s.part part).piers, (t.part part).pierPtr ≤ q))
  ∧ (∀ (s : State) (pier part : Nat) (r : BlockRange), s.headRange pier part = some r →
      ∃ pre post, (s.pier pier).queue = pre ++ r :: post ∧ OffersNow s part r ∧ (∀ y ∈ pre, OffersNow s part y → r.prio < y.prio)
        ∧ ∀ y ∈ post, OffersNow s part y → r.prio ≤ y.prio)
  ∧ (∀ (s : State) (pier part : Nat) (r : BlockRange) (l : Launch), let s1 := s.leafTake pier
    s1.headRange pier part = some r → s.launch r.lid = some l → s1.findPlace pier l.d = none → pier < s.piers.length →
      ∃ t, exec (.blockPlace pier part) s = .next t ∧ (t.pier pier).queue = (s.pier pier).queue ++ (s.pier pier).link
        ∧ (t.pier pier).link = [] ∧ (t.pier pier).cmdPermits = (s.pier pier).cmdPermits + (s.pier pier).link.length
        ∧ t.blocks = s.blocks ∧ t.teams = s.teams ∧ t.mem = s.mem)
  ∧ (∀ (s : State) (pier : Nat) (d : Desc) (x : Placing), let p := s.part d.part
    s.findPlace pier d = some x →
      (d.spread p.handlers.isSome = .core → x.pair = false ∧ Takes s d x.home ∧ ownsPair p (x.home / 2) = true ∧ x.home / 4 = pier
          ∧ ∀ c, Takes s d c → ownsPair p (c / 2) = true → c / 4 = pier → c ≠ x.home →
            let load := fun k => residents s (2 * k) + residents s (2 * k + 1)
            if c / 2 = x.home / 2 then residents s x.home < residents s c ∨ residents s x.home = residents s c ∧ x.home < c
            else load (x.home / 2) < load (c / 2) ∨ load (x.home / 2) = load (c / 2) ∧ c / 2 < x.home / 2)
        ∧ (d.spread p.handlers.isSome = .pair → x.pair = true ∧ (x.home = 4 * pier ∨ x.home = 4 * pier + 2)
          ∧ ownsPair p (x.home / 2) = true
          ∧ (x.home = 4 * pier + 2 → ownsPair p (2 * pier) = true → s.pairOf d (2 * pier) = none)))
  ∧ (∀ (s : State) (pier : Nat) (d : Desc), let p := s.part d.part
    s.findPlace pier d = none → s.areaFree d = true → d.spread p.handlers.isSome = .core →
      ∀ c, ownsPair p (c / 2) = true → c / 4 = pier → ¬ Takes s d c)
  ∧ (∀ (s : State) (part : Nat) (l : Launch), let pp := (s.part part).pierPtr
    let n := min l.chunk (l.blocks - l.dealt)
    s.nextDeal part = some l → (s.part part).st = .active → l.d.dmode = false → (s.pier pp).cmdPermits ≠ 0 → pp < s.piers.length →
      ∃ t, exec (.dispatch part) s = .next t ∧ (t.pier pp).cmdPermits = (s.pier pp).cmdPermits - 1
        ∧ (t.pier pp).link = (s.pier pp).link ++ [⟨l.lid, l.dealt, n, part, l.d.prio, false⟩] ∧ t.mem = s.mem ∧ t.cur = s.cur
        ∧ t.launches = s.launches.map fun x => if x.lid = l.lid then { x with dealt := x.dealt + n } else x)
  ∧ (∀ (s : State) (pier part : Nat) (r : BlockRange) (l : Launch) (x : Placing), let s1 := s.leafTake pier
    s1.headRange pier part = some r → (s.part part).st = .active → (s.pier pier).leafFrozen = false → s.saved = [] →
    s1.givesWay part r.prio = false → s.launch r.lid = some l → s1.findPlace pier l.d = some x →
      ∃ t b, exec (.blockPlace pier part) s = .next t ∧ t.blocks = s.blocks ++ [b] ∧ b.live = true ∧ b.lid = r.lid
        ∧ b.index = r.first ∧ b.home = x.home ∧ b.d = l.d ∧ b.spad = [] ∧ t.mem = s.mem ∧ t.cur = s.cur
        ∧ (∀ q, pier < s.piers.length → (s.pier pier).queue ++ (s.pier pier).link = r :: q →
            (t.pier pier).queue = if r.count ≤ 1 then q else { r with first := r.first + 1, count := r.count - 1 } :: q)
        ∧ ∃ us, t.teams = s.teams ++ us ∧ us.length = l.d.teams
          ∧ ∀ u ∈ us, u.bid = b.bid ∧ u.st = .resident ∧ u.at_ = ⟨l.d.kernel, 0⟩ ∧ u.mask = fullMask l.d.teamw ∧ u.tags = 0)
  ∧ (∀ (s : State) (b : Block), s.block b.bid = some b → b.kill = none → b.leaving = .no → b.handler = false → b.copies = [] →
      (∀ u ∈ s.blockTeams b.bid, u.st = .ended ∧ u.quiet = true ∧ s.mtxBusy u = false) → b.home / 4 < s.piers.length →
      (b.d.dmode = true → ∀ u ∈ s.blockTeams b.bid, u.qacted = false) →
      ∃ t, exec (.blockEnd b.bid) s = .next t ∧ t.block b.bid = none ∧ t.mem = s.mem
        ∧ (t.pier (b.home / 4)).reports = (s.pier (b.home / 4)).reports ++ [.done b.lid])
  ∧ (∀ (s : State) (n lid bid : Nat), (s.pier n).repPermits ≠ 0 → n < 48 → n < s.piers.length → (∀ m, m < n → (s.pier m).reports = []) →
      ((s.pier n).reports = [.done lid] → ∃ t, exec (.done n lid) s = .next t ∧ (t.pier n).reports = []
          ∧ t.launches = s.launches.map fun l => if l.lid = lid then { l with ended := l.ended + 1 } else l)
      ∧ ((s.pier n).reports = [.killed lid bid] → ∃ t, exec (.killed bid) s = .next t ∧ (t.pier n).reports = []
          ∧ t.launches = s.launches.map fun l => if l.lid = lid then { l with killed := l.killed + 1 } else l)
      ∧ ((s.pier n).reports = [.saved bid] → ∃ t, exec (.saved bid) s = .next t ∧ (t.pier n).reports = [] ∧ t.launches = s.launches))
  ∧ (∀ (s : State) (pier : Nat) (l : Launch), s.launch l.lid = some l → l.cancelled = true → (s.pier pier).cmdPermits ≠ 0 →
      (s.pier pier).link = [] → pier < s.piers.length →
      ∃ t, exec (.cancel pier l.lid) s = .next t ∧ (t.pier pier).queue = ((s.pier pier).queue.filter fun r => r.lid != l.lid)
        ∧ t.saved = (s.saved.filter fun b => b.blk.lid != l.lid) ∧ t.mem = s.mem)
  ∧ (∀ (s : State) (pier : Nat) (b : SavedBlock), (s.saved.find? fun x => x.blk.bid = b.blk.bid) = some b →
      (s.pier pier).cmdPermits ≠ 0 → (s.part b.blk.d.part).piers.contains pier = true →
      (s.part b.blk.d.part).holder = some b.blk.d.tenant → (∀ x ∈ s.piers, x.reports.contains (.saved b.blk.bid) = false) →
      ∃ t, exec (.restore b.blk.bid pier) s = .next t ∧ t.mem = s.mem ∧ t.cur = s.cur
        ∧ t.saved = s.saved.map fun x => if x.blk.bid = b.blk.bid then { x with restorePier := some pier } else x)
  ∧ (∀ (s : State) (k : Nat) (m : Message), s.channel[k]? = some m → (s.core m.dst).inbox.length < 64 → m.dst < s.cores.length →
      ∃ t, exec (.messageAccept k) s = .next t ∧ t.channel = s.channel.eraseIdx k
        ∧ (t.core m.dst).inbox = (s.core m.dst).inbox
            ++ (if ((s.part (s.partOfCore m.dst)).handlers.bind fun h => h.entry? m.handler).isSome then [m] else [])
        ∧ (Homed s → m.uid = s.cur.uid → s.cur.msg = [⟨m.key, false⟩] →
            t.cur.msg = if ∃ x ∈ s.channel.eraseIdx k, x.uid = m.uid ∧ x.key = m.key then s.cur.msg else []))
  ∧ (∀ (s : State) (k : Nat) (m : Message), s.channel[k]? = some m → 64 ≤ (s.core m.dst).inbox.length →
      exec (.messageAccept k) s = .next s)
  ∧ ∀ (s : State) (core q : Nat) (m : Message) (rest : List Message) (h : HandlerTable) (e : HandlerEntry),
      (s.core core).inbox = m :: rest → core < s.cores.length → (s.part (s.partOfCore core)).handlers = some h →
      h.entry? m.handler = some e → s.areaFree (h.desc e (s.partOfCore core)) = true → (s.part (s.partOfCore core)).st = .active → q < 4 → (∀ u ∈ s.coreTeams core, u.handler = true → u.quad ≠ q) →
      (∀ k, k < q → ∃ u ∈ s.coreTeams core, u.handler = true ∧ u.quad = k) →
      ∃ t u, exec (.handlerSpawn core) s = .next t ∧ (t.core core).inbox = rest ∧ t.teams = s.teams ++ [u] ∧ u.handler = true
        ∧ u.core = core ∧ u.quad = q ∧ u.at_ = ⟨e.entry, 0⟩ ∧ u.mask = fullMask e.groupw ∧ t.mem = s.mem ∧ t.cur = s.cur
        ∧ u.s.take 10 = (m.words ++ List.replicate 8 0).take 8 ++ [m.src, BitVec.ofNat 32 m.words.length]

/-- R81: a leaf with nothing queued and room asks the victim that its register draws among the partition's other piers; a victim
gives the last half of its tail range, or answers NONE, and the thief then waits 2 µs (2,500 cycles); a wait that is over ends.
The drawing register's next value is free (log 5). -/
def Obligations.StealEvents : Prop :=
  (∀ (s : State) (pier part v : Nat), let s1 := s.leafTake pier
    let others := s1.otherPiers pier part
    let x := s1.pier pier
    v = others.getD ((Config.stealNext x.shift).toNat % others.length) 0 → others ≠ [] → pier < s.piers.length → v < s.piers.length →
    (s.part part).piers.contains pier = true → (x.queue.any fun r => r.part == part) = false → s1.hasRoom pier part = true →
    x.stealing.contains part = false → (x.backoff.any fun b => b.1 == part) = false → x.leafFrozen = false →
    (s.part part).st ≠ .quarantined →
      ∃ t, exec (.stealRequest pier part) s = .next t ∧ (t.pier pier).shift = Config.stealNext x.shift ∧ t.cur = s.cur
        ∧ ((s1.pier v).asked.length < 2 → (t.pier v).asked = (s1.pier v).asked ++ [(pier, part)]
            ∧ (t.pier pier).stealing = part :: x.stealing)
        ∧ (2 ≤ (s1.pier v).asked.length → (t.pier v).asked = (s1.pier v).asked
            ∧ (part, s.clock.toNat + 2500) ∈ (t.pier pier).backoff))
  ∧ (∀ (s : State) (pier part thief : Nat), let s1 := s.leafTake pier
    ((s1.pier pier).asked.find? fun a => a.2 = part) = some (thief, part) → thief ≠ pier → pier < s.piers.length →
    thief < s.piers.length →
      (stolen (s1.pier pier).queue part = none → ∃ t, exec (.stealAnswer pier part) s = .next t
          ∧ (part, s.clock.toNat + 2500) ∈ (t.pier thief).backoff ∧ (t.pier pier).queue = (s1.pier pier).queue)
      ∧ (∀ r qs, stolen (s1.pier pier).queue part = some (r, qs) → ∃ t, exec (.stealAnswer pier part) s = .next t
          ∧ (t.pier pier).queue = qs ∧ (t.pier thief).queue = (s1.pier thief).queue ++ [r]
          ∧ (t.pier pier).asked = (s1.pier pier).asked.erase (thief, part)))
  ∧ (∀ (r : BlockRange) (part : Nat), r.part = part → r.noSteal = false → 1 ≤ r.count →
      stolen [r] part = some ({ r with first := r.first + r.count / 2, count := (r.count + 1) / 2 },
        if r.count / 2 = 0 then [] else [{ r with count := r.count / 2 }]))
  ∧ ∀ (s : State) (pier part : Nat), pier < s.piers.length →
      ∃ t, exec (.stealBackoffEnd pier part) s = .next t ∧ (∀ b ∈ (t.pier pier).backoff, b.1 = part → s.clock.toNat < b.2)
        ∧ (∀ b ∈ (s.pier pier).backoff, b.1 ≠ part → b ∈ (t.pier pier).backoff) ∧ t.mem = s.mem

/-! ### Slices, save and restore (R82, R83, R221 to R230, R334, R335) -/

/-- R83: a pier has room for a block of the least urgent class, or will have: from a block of another class, or one that leaves. -/
def RoomOpens (s : State) (x : Block) (pier : Nat) : Prop :=
  (s.findPlace pier x.d).isSome = true
    ∨ ∃ b ∈ s.allBlocks, b.live = true ∧ b.handler = false ∧ b.home / 4 = pier ∧ b.kill = none
      ∧ (b.leaving = .no ∧ b.issued = true ∧ b.d.prio ≠ x.d.prio ∨ b.leaving = .drain ∨ b.leaving = .flush ∨ b.leaving = .save)

/-- R334, R335: a slice whose time is up goes on with fresh counts where no other tenant has work, and passes to the next tenant
with work else; one whose energy is spent too. R224, R225, R38: once a block ordered saved is quiet, the beats that move its
context start, on its home core and on the mate for its teams there; when they are over it leaves its cores, its teams' registers
kept, and no byte of memory outside the context pool has changed: what the pool holds is a free value, log 62. R79, R228: a saved
block that nothing more urgent precedes is placed again on its leaf, and the beats that bring its context start. R83: a saved
block of the least urgent class that has waited is sent to a leaf where room opens for it, its own before another: which is log 90, the
model's choice. R221: a block given up is drained where its remainder is known and within the partition's budget, else flushed where it
may be run again and its remainder is unknown or more than what it has done, else saved. R229: an overlong block is killed with cause
0x17; that WHERE, DATA and SRCID of its record are 0 is log 45, the model's choice. -/
def Obligations.SliceEvents : Prop :=
  (∀ (s : State) (part h : Nat) (e : Instr) (w : Tenant), part < s.parts.length → (s.part part).running = true →
      (s.part part).holder = some h → (s.part part).tenant? h = some w →
      ((e = .sliceEnd part ∧ s.urgentOther part h = none
          ∧ (s.part part).sliceStart + ((w.time * 1250 : Nat) : Int) ≤ (s.clock.toNat : Int))
        ∨ (e = .energyLimit part ∧ (s.part part).spent w = true)) →
      (((s.part part).round (some h)).find? (s.hasWork part) = some h →
          ∃ t, exec e s = .next t ∧ (t.part part).holder = some h ∧ (t.part part).sliceStart = s.clock.toNat
            ∧ (t.part part).energy.lookup h = none ∧ (∀ k, k ≠ h → (t.part part).energy.lookup k = (s.part part).energy.lookup k)
            ∧ t.cur = s.cur ∧ t.blk = s.blk ∧ t.mem = s.mem)
      ∧ ∀ u, u ≠ h → ((s.part part).round (some h)).find? (s.hasWork part) = some u → (∀ b ∈ s.allBlocks, b.live = false) →
          ∃ t, exec e s = .next t ∧ (t.part part).holder = some u ∧ (t.part part).energy.lookup u = none ∧ t.mem = s.mem)
  ∧ (∀ (s : State) (b : Block), s.block b.bid = some b → b.kill = none → b.leaving = .save → s.saveReady b = true →
      s.nopreHeld b = false → b.ctx = none →
      ∃ t k, exec (.blockSave b.bid) s = .next t ∧ t.block b.bid = some k ∧ t.saved = s.saved
        ∧ k = { b with ctx := some (b.d.ctxBeats (matesOf b.home (s.blockTeams b.bid))) }
        ∧ t.mem = s.mem)
  ∧ (∀ (s : State) (b : Block), s.block b.bid = some b → b.kill = none → b.leaving = .save → s.saveReady b = true →
      s.nopreHeld b = false → b.ctx = some (0, 0) → b.home / 4 < s.piers.length →
      ∃ t sb, exec (.blockSave b.bid) s = .next t ∧ t.saved = s.saved ++ [sb] ∧ sb.blk = { b with leaving := .no, leftAt := 0, ctx := none }
        ∧ sb.teams.map (fun u => (u.v, u.s, u.p, u.at_, u.mask, u.stack)) =
            (s.blockTeams b.bid).map (fun u => (u.v, u.s, u.p, u.at_, u.mask, u.stack))
        ∧ t.block b.bid = none
        ∧ (∀ a, (a < (s.part b.d.part).ctx ∨ (s.part b.d.part).ctx + (s.part b.d.part).ctxn ≤ a) → memRead t.mem a = memRead s.mem a)
        ∧ (t.pier (b.home / 4)).reports = (s.pier (b.home / 4)).reports ++ [.saved b.bid])
  ∧ (∀ (s : State) (pier part : Nat) (b : SavedBlock) (x : Placing), let s1 := s.leafTake pier
      (s.part part).running = true → (s.pier pier).leafFrozen = false → (s.pier pier).walkerFrozen = false →
      (∀ r ∈ (s1.pier pier).queue, b.blk.d.prio ≤ r.prio) → s1.givesWay part b.blk.d.prio = false →
      s.saved = [b] → b.restorePier = some pier → b.blk.d.part = part → (s.part part).holder = some b.blk.d.tenant →
      b.blk.d.dmode = false → b.blk.live = true → s.block b.blk.bid = none → (∀ u ∈ b.teams, u.stores = [] ∧ u.held = [] ∧ ∀ w ∈ s.allTeams, w.uid ≠ u.uid) →
      State.findPlace { s1 with saved := [] } pier b.blk.d = some x →
      ∃ t, exec (.blockRestore pier part) s = .next t ∧ t.saved = [] ∧ t.mem = s.mem
        ∧ ∃ k ∈ t.allBlocks, k.live = true ∧ k.bid = b.blk.bid ∧ k.home = x.home ∧ k.spad = b.blk.spad ∧ k.bars = b.blk.bars
          ∧ k.ctx = some (b.blk.d.ctxBeats (b.teams.filter fun u => (x.spot u.tno).1 != x.home).length))
  ∧ (∀ (s : State) (part : Nat) (x : Begun) (b : SavedBlock), s.lowest part = some x → x.saved = true → (s.part part).st = .active →
      s.saved = [b] → (s.part part).piers ≠ [] →
      let home := b.restorePier.getD (b.blk.home / 4)
      ∃ t n, exec (.lowestClassRestore part) s = .next t ∧ t.saved = [{ b with restorePier := some n }] ∧ t.cur = s.cur ∧ t.mem = s.mem
        ∧ (home ∈ (s.part part).piers → RoomOpens s b.blk home → n = home)
        ∧ ((∃ p ∈ (s.part part).piers, RoomOpens s b.blk p) → n ∈ (s.part part).piers ∧ RoomOpens s b.blk n))
  ∧ (∀ (s : State) (core : Nat), let p := s.part (s.partOfCore core)
    let how := s.judge s.blk (some p.drain)
    (s.pier (core / 4)).cmdPermits ≠ 0 → p.running = true → ownsCore p core = true → s.blocks = [] → s.blk.onCore core = true →
    s.blk.handler = false → s.blk.leaving = .no → s.blk.kill = none → s.blk.issued = true → s.blk.d.dmode = false →
    p.holder ≠ some s.blk.d.tenant → s.nopreHeld s.blk = false →
      ∃ t, exec (.preempt core .slice) s = .next t ∧ t.blk.leaving = how ∧ t.blk.leftAt = s.clock.toNat ∧ t.mem = s.mem
        ∧ (how ≠ .flush → t.cur = s.cur))
  ∧ (∀ (s : State) (core m last : Nat) (l : Launch), let p := s.part (s.partOfCore core)
    let known := s.blk.d.setout ≠ 0 ∧ m ≠ 0
    let drains := known ∧ (s.blk.cycles : Rat) * ((last : Rat) - m) / m ≤ 1250 * p.drain
    let flushes := s.blk.d.idem = true ∧ (known → 2 * m < last)
    (s.pier (core / 4)).cmdPermits ≠ 0 → p.running = true → ownsCore p core = true → s.blocks = [] → s.blk.onCore core = true →
    s.blk.handler = false → s.blk.leaving = .no → s.blk.kill = none → s.blk.issued = true → s.blk.d.dmode = false →
    p.holder ≠ some s.blk.d.tenant → s.nopreHeld s.blk = false → s.blockMark s.blk.bid = some m → s.launch s.blk.lid = some l →
    (∀ e ∈ l.table, e.due ≤ last) → (s.blk.d.setout ≠ 0 → ∃ e ∈ l.table, e.due = last) →
      ∃ t, exec (.preempt core .slice) s = .next t ∧ (drains → t.blk.leaving = .drain)
        ∧ (¬ drains → flushes → t.blk.leaving = .flush) ∧ (¬ drains → ¬ flushes → t.blk.leaving = .save))
  ∧ ∀ (s : State) (b : Block), s.block b.bid = some b → b.kill = none → s.overlong b = true →
      ∃ t k, exec (.watchdog b.bid) s = .next t ∧ t.block b.bid = some k ∧ k.kill = some ⟨0x17, 0x00, 1, 0, 0, 0, true⟩
        ∧ t.mem = s.mem

/-! ### Issue and balance (R30, R36 to R53) -/

/-- R46, R56: how far a core's estimate in the window is from its nominal current, which is 1.25 A more than 1.25 A for each class, in
units of 5 mA over the window's 1,250 cycles. -/
def fromNominal (s : State) (c : Nat) : Nat := (((s.core c).sum : Int) - ((s.coreClass c + 1) * 250 * 1250 : Nat)).natAbs

/-- R46: of the two cores of a joint, the one to which its course imbalance trap goes. -/
def Trapped (s : State) (c o : Nat) : Prop :=
  s.ordinary c ≠ [] ∧ (s.ordinary o = [] ∨ fromNominal s o < fromNominal s c
    ∨ fromNominal s o = fromNominal s c ∧ (s.core o).sum < (s.core c).sum)

/-- R30, R31: a free quadrant goes on with its team while that is ready, no limit is reached and no other team starves, and else takes
the oldest; at the greedy limit it takes another; and while teams that are ready have been passed over for 65,536 issues, the oldest
of them, before a current team that is ready. R39, R42, R44: at a window's end every core's estimate is taken and every joint's
mismatch is the difference of its cores'; the heavier core of a joint beyond T1 is halved. R45 to R47: a mismatch beyond T2 counts, one
that is not ends the count; the fourth in a row starts the count again, and every ordinary team of the core chosen has a course
imbalance trap pending: the core whose estimate is furthest from its nominal current, on a tie the heavier, among those that have
ordinary teams. R50: a T3 trip, at more than 2.75 A or by voltage, clamps its pier for 100 µs and posts a record; R50, R52, R53: clamps
end; a boost that has run its windows gives way to a cool-down of 200; a cool-down that has run ends; a burn ends. -/
def Obligations.IssueAndBalanceEvents : Prop :=
  (∀ (s : State) (c q : Nat), s.quadFree c q = true →
      let cur := ((s.core c).quads.getD q .reset).current
      (s.giveWay c q = false → (∃ u ∈ s.readyOn c q, u.uid = cur) →
          ∃ t, exec (.issueCycle c q) s = .next t ∧ t.sel = true ∧ t.cur.uid = cur ∧ t.mem = s.mem)
      ∧ ((∀ u ∈ s.readyOn c q, u.uid ≠ cur) → (∀ u ∈ s.readyOn c q, u.starve < 65536) → s.readyOn c q ≠ [] →
          ∃ t, ∃ u ∈ s.readyOn c q, exec (.issueCycle c q) s = .next t ∧ t.sel = true ∧ t.cur.uid = u.uid
            ∧ ∀ w ∈ s.readyOn c q, u.age ≤ w.age)
      ∧ (4096 ≤ ((s.core c).quads.getD q .reset).greedy → (∃ u ∈ s.readyOn c q, u.uid ≠ cur) →
          ∃ t, exec (.greedyLimit c q) s = .next t ∧ t.sel = true ∧ t.cur.uid ≠ cur)
      ∧ ((∃ u ∈ s.readyOn c q, u.uid ≠ cur ∧ 65536 ≤ u.starve) →
          ∃ t, ∃ u ∈ s.readyOn c q, exec (.starvationOverride c q) s = .next t ∧ t.sel = true ∧ t.cur.uid = u.uid
            ∧ u.uid ≠ cur ∧ 65536 ≤ u.starve
            ∧ ∀ w ∈ s.readyOn c q, w.uid ≠ cur → 65536 ≤ w.starve → u.age ≤ w.age))
  ∧ (∀ s : State, s.wins < s.clock.toNat / 1250 →
      ∃ t, exec .windowEnd s = .next t ∧ t.wins = s.wins + 1 ∧ t.mem = s.mem
        ∧ (∀ (c : Nat) (k : Core), s.cores[c]? = some k → ∃ k', t.cores[c]? = some k' ∧ k'.est = k.sum ∧ k'.sum = 0 ∧ k'.acc = k.acc + k.sum)
        ∧ ∀ (p j : Nat) (x : Joint), p < 48 → p < s.piers.length → (s.pier p).joints[j]? = some x →
            x.t2count < 4 →
            let lo := 4 * p + j
            let m : Int := ((s.core (lo + 1)).sum : Int) - ((s.core lo).sum : Int)
            let t1 := (min (s.coreT1 lo) (s.coreT1 (lo + 1)) * 125 + if 1 ≤ x.boost ∧ x.boost ≤ 40 then 500 else 0) * 250
            let t2 := (min (s.coreT2 lo) (s.coreT2 (lo + 1)) * 125 + if 1 ≤ x.boost ∧ x.boost ≤ 40 then 500 else 0) * 250
            (∃ x', (t.pier p).joints[j]? = some x' ∧ x'.m = m
                ∧ (x'.t2count = if t2 < m.natAbs then (if x.t2count = 3 then 0 else x.t2count + 1) else 0)
                ∧ x'.t2traps = x.t2traps + (if t2 < m.natAbs ∧ x.t2count = 3 ∧ ¬ (s.ordinary lo = [] ∧ s.ordinary (lo + 1) = []) then 1 else 0))
              ∧ (x.t2count = 3 → t2 < m.natAbs → ∀ c o, c = lo ∧ o = lo + 1 ∨ c = lo + 1 ∧ o = lo → Trapped s c o →
                  ∀ u ∈ t.allTeams, u.st = .resident → u.handler = false → u.core = c → u.apend.isSome = true)
              ∧ (t1 < m.natAbs → ∀ k, s.cores[if 0 < m then lo + 1 else lo]? = some k →
                  ∃ k', t.cores[if 0 < m then lo + 1 else lo]? = some k' ∧ k'.halved = true))
  ∧ (∀ (s : State) (pier joint : Nat) (m : Int) (b : Bool) (x : Joint), pier < s.piers.length → (s.pier pier).joints[joint]? = some x →
      (b = false → m.natAbs ≤ 2750 → exec (.t3Trip pier joint m b) s = .next s)
      ∧ (b = true ∨ 2750 < m.natAbs → ∃ t r, exec (.t3Trip pier joint m b) s = .next t ∧ (t.pier pier).clampTo = s.clock.toNat + 125000
        ∧ (t.pier pier).joints[joint]? = some { x with t3trips := x.t3trips + 1 }
        ∧ t.recent.head? = some r ∧ r.code = faultCode 0 0x0B 0x22 ∧ r.clock = s.clock.toNat ∧ t.cur = s.cur))
  ∧ (∀ (s : State) (pier joint : Nat) (x : Joint), pier < s.piers.length → (s.pier pier).joints[joint]? = some x →
      (∃ t, exec (.boostEnd pier joint) s = .next t ∧ t.cur = s.cur
          ∧ (t.pier pier).joints[joint]? = some (if x.boostOver then { x with boostOver := false, cool := 200 } else x))
      ∧ (∃ t, exec (.coolDownEnd pier joint) s = .next t ∧ t.cur = s.cur
          ∧ (t.pier pier).joints[joint]? = some { x with coolOver := false })
      ∧ ((s.pier pier).clampTo ≤ s.clock.toNat → ∃ t, exec (.clampEnd pier) s = .next t ∧ (t.pier pier).clampTo = 0 ∧ t.cur = s.cur))
  ∧ ∀ s : State, Homed s → s.cur.burn.2 = 0 →
      ∃ t, exec (.burnExpire s.cur.uid) s = .next t ∧ t.cur = { s.cur with burn := (0, 0) } ∧ t.mem = s.mem

/-! ### Partitions and registers (R6, R326 to R338) -/

/-- R331: ENABLE makes a partition that passes every check ACTIVE and one that does not keeps its state, with PERR, whose value where
several reasons apply is log 67, the model's choice; DRAIN makes an active one DRAINING, and it is DRAINED when nothing of it is
left; RESET empties it and zeroes its slices; RELEASE makes a drained one UNUSED, its slices zeroed. R6: a read of PERR, FLTLOST or
PRQLOST (R327) returns it and clears it. R336: a checkpoint of a DRAINED partition runs, and is done; that a GO for a partition that is
not DRAINED sets STAT to 3 and leaves a running one as it was is log 72, the model's reading. -/
def Obligations.PartitionEvents : Prop :=
  (∀ (s : State) (n : Nat), n < s.parts.length → s.checkpointing n = false →
      ((s.part n).st = .unused ∨ (s.part n).st = .drained →
        (∀ ts hs, s.enablePerr n = 0 → s.readTenants (s.part n) = some ts → s.readHandlers (s.part n) = some hs →
            ∃ t, exec (.pcmdEnable n) s = .next t ∧ (t.part n).st = .active ∧ (t.part n).tenants = ts ∧ (t.part n).handlers = hs
              ∧ (t.part n).holder = none ∧ t.mem = s.mem)
        ∧ (s.enablePerr n ≠ 0 → ∃ t, exec (.pcmdEnable n) s = .next t ∧ (t.part n).st = (s.part n).st
              ∧ (t.part n).perr = s.enablePerr n))
      ∧ ((s.part n).st = .active → ∃ t, exec (.pcmdDrain n) s = .next t ∧ (t.part n).st = .draining ∧ t.mem = s.mem)
      ∧ ((s.part n).st ≠ .active → ∃ t, exec (.pcmdDrain n) s = .next t ∧ (t.part n).st = (s.part n).st ∧ (t.part n).perr = 4)
      ∧ ((s.part n).st = .draining → s.drained n = true →
          ∃ t, exec (.partitionDrained n) s = .next t ∧ (t.part n).st = .drained ∧ t.mem = s.mem)
      ∧ ((s.part n).st ≠ .unused → ∃ t, exec (.pcmdReset n) s = .next t ∧ (t.part n).st = .drained ∧ (t.part n).holder = none
          ∧ (∀ b ∈ t.allBlocks, b.live = true → b.d.part ≠ n) ∧ (∀ x ∈ t.frozen, x.1 ≠ n)
          ∧ ∀ k o, k < 48 → (s.part n).slices.testBit k = true → o < 0x800000 →
              memRead t.mem (0x8000000000000 + k * 0x800000 + o) = 0)
      ∧ ((s.part n).st = .drained → ∃ t, exec (.pcmdRelease n) s = .next t ∧ (t.part n).st = .unused
          ∧ ∀ k o, k < 48 → (s.part n).slices.testBit k = true → o < 0x800000 →
              memRead t.mem (0x8000000000000 + k * 0x800000 + o) = 0)
      ∧ (∃ t, exec (.perrRead n) s = .next t ∧ t.hostData = (s.part n).perr ∧ (t.part n).perr = 0 ∧ (t.part n).st = (s.part n).st))
  ∧ (∀ (s : State) (f : Nat), f < s.funcs.length →
      (∃ t, exec (.fltlostRead ⟨f, false⟩) s = .next t ∧ t.hostData = (s.func f).flt.lost.toNat ∧ (t.func f).flt.lost = 0
          ∧ (t.func f).prq = (s.func f).prq ∧ t.mem = s.mem)
      ∧ ∃ t, exec (.fltlostRead ⟨f, true⟩) s = .next t ∧ t.hostData = (s.func f).prq.lost.toNat ∧ (t.func f).prq.lost = 0
          ∧ (t.func f).flt = (s.func f).flt ∧ t.mem = s.mem)
  ∧ (∀ (s : State) (n : Nat) (d : Bool),
      ((s.part n).st = .drained → s.ckrun = none →
        ∃ t, exec (.ckctlGo n d) s = .next t ∧ t.ckrun = some (n, d, s.ckhost.toNat) ∧ t.ckstat = 1 ∧ t.mem = s.mem)
      ∧ ((s.part n).st ≠ .drained → ∃ t, exec (.ckctlGo n d) s = .next t ∧ t.ckrun = s.ckrun ∧ t.ckstat = 3 ∧ t.mem = s.mem))
  ∧ ∀ (s : State) (n host : Nat) (d : Bool), s.ckrun = some (n, d, host) →
      ∃ t, exec .checkpointDone s = .next t ∧ t.ckrun = none ∧ t.ckstat = 2 ∧ t.cur = s.cur
        ∧ t.mem = moveSpans d (s.part n).spans host s.mem

/-- R67, R327, R330: a register write brings the register's event, or sets the register. R330, R345: DEVNO is taken while every
partition is UNUSED. R326: function 0's aperture reads and writes slice memory, and a base-address register places its window:
BAR0 the function's registers, BAR4 the aperture (log 117). That a function NUMVF does not enable reads as ones is log 71, and
that RAATHR keeps a value outside 64 to 8,191 is log 70, both the model's choice. R337: a refresh counts GEN up and restarts the
counts of the last millisecond. -/
def Obligations.HostAccessEvents : Prop :=
  (∀ (s : State) (f q v : Nat), f < 65 → f ≤ s.numvf → q < 64 → v < 2 ^ 32 → s.fw.recovery = false →
      let a := 0xF000000000000 + 0x10000 * f + 16 * q
      (∃ t, exec (.registerWrite a 4 v) s = .next t ∧ t.agenda = .qtailWrite f q (BitVec.ofNat 32 v) :: s.agenda ∧ t.mem = s.mem)
        ∧ (∃ t, exec (.registerWrite (a + 4) 4 v) s = .next t ∧ t.agenda = .qcheadWrite f q (BitVec.ofNat 32 v) :: s.agenda)
        ∧ ∃ t, exec (.registerWrite (a + 8) 4 4) s = .next t ∧ t.agenda = .qctlEnable f q :: s.agenda)
  ∧ (∀ (s : State) (v : Nat), ∃ t, exec (.registerWrite 0xF000001000004 4 v) s = .next t ∧ t.raathr = v % 2 ^ 13 ∧ t.mem = s.mem
      ∧ t.agenda = s.agenda ∧ t.cur = s.cur)
  ∧ (∀ (s : State) (v : Nat),
      ((∀ p ∈ s.parts, p.st = .unused) → ∃ t, exec (.devnoWrite v) s = .next t ∧ t.devno = v % 256
          ∧ ∀ p ∈ t.aports, p.up = false ∧ p.training = true)
      ∧ ((∃ p ∈ s.parts, p.st ≠ .unused) → exec (.devnoWrite v) s = .next s))
  ∧ (∀ (s : State) (o n v : Nat), s.Canonical → s.fw.recovery = false → 1 ≤ n → n ≤ 8 → o + n ≤ 0x18000000 →
      (∃ t, exec (.hostApertureAccess 0 (.aperture (0xC000000000 + o)) n (some v)) s = .next t
          ∧ memReadN t.mem (0x8000000000000 + o) n = bytesOf n v
          ∧ ∀ x, (x < 0x8000000000000 + o ∨ 0x8000000000000 + o + n ≤ x) → memRead t.mem x = memRead s.mem x)
      ∧ ∃ t, exec (.hostApertureAccess 0 (.aperture (0xC000000000 + o)) n none) s = .next t
          ∧ t.hostData = numOf (memReadN s.mem (0x8000000000000 + o) n) ∧ t.mem = s.mem)
  ∧ (∀ (s : State) (f n : Nat) (x : HostAddr), f ≠ 0 → s.fw.recovery = false → s.numvf < f →
      ∃ t, exec (.hostApertureAccess f x n none) s = .next t ∧ t.hostData = 2 ^ (8 * n) - 1 ∧ t.mem = s.mem)
  ∧ (∀ (s : State) (f n off : Nat) (b : DWord), f ≤ s.numvf → s.fw.recovery = false → (s.func f).bars[0]? = some b →
      b.toNat % 0x10000 = 0 → off < 0x10000 →
      ∃ t, exec (.hostApertureAccess f (.bus (b.toNat + off)) n none) s = .next t
        ∧ t.hostData = (s.readAt (0xF000000000000 + 0x10000 * f + off) n).2)
  ∧ (∀ (s : State) (f n off : Nat) (b : DWord) (wr : Option Nat), f ≤ s.numvf → (s.func f).bars[2]? = some b →
      b.toNat % 2 ^ 40 = 0 → off < 2 ^ 40 → s.regWindow f (b.toNat + off) = none →
      exec (.hostApertureAccess f (.bus (b.toNat + off)) n wr) s = exec (.hostApertureAccess f (.aperture off) n wr) s)
  ∧ ∀ s : State, s.gen ≤ s.clock.toNat / 1250000 →
      ∃ t, exec .censusRefresh s = .next t ∧ t.gen = s.gen + 1 ∧ t.genEnd = s.gen + 1 ∧ (∀ k ∈ t.cores, k.acc = 0)
        ∧ (∀ c ∈ t.channels, c.alerts = 0) ∧ t.mem = s.mem ∧ t.cur = s.cur

/-! ### Links, trusted interfaces, firmware, rows (R240, R324 to R345) -/

/-- R324, R332: replays are counted, and after 16 that failed in sequence (log 93) the port retrains; one that has trained for 10
ms without success is down: an Ashlar port then leaves every route, and with both Quickset ports down every partition is
QUARANTINED; a port comes up. R325, R339: a transaction under another key than the function's puts a trusted interface into ERROR,
and has a record else. R332: a request, an atomic among them (R255), over Ashlar is carried out where its partition, route and
port allow it, and quarantines the partition else: that a route without ports is no route is log 75, and that the slice of its
first byte decides for a request is log 76, both the model's choice. -/
def Obligations.LinkEvents : Prop :=
  (∀ (s : State) (ash : Bool) (n : Nat) (p : Port), s.port ash n = some p →
      (p.up = true → ∃ t, exec (.flitReplay ash ⟨n, true⟩) s = .next t ∧ t.mem = s.mem
          ∧ t.port ash n = some { p with replays := p.replays + 1, failed := p.failed + 1 }
          ∧ t.agenda = if 16 ≤ p.failed + 1 then .portRetrain ash n :: s.agenda else s.agenda)
      ∧ (p.up = true → ∃ t, exec (.flitReplay ash ⟨n, false⟩) s = .next t ∧ t.mem = s.mem ∧ t.agenda = s.agenda
          ∧ t.port ash n = some { p with replays := p.replays + 1, failed := 0 })
      ∧ (p.up = true → 16 ≤ p.failed → ∃ t, exec (.portRetrain ash n) s = .next t
          ∧ t.port ash n = some { p with up := false, training := true, since := s.clock.toNat, failed := 0 })
      ∧ (ash = true → p.training = true → p.since + 12500000 ≤ s.clock.toNat → ∃ t, exec (.portDown ash n) s = .next t
          ∧ t.port ash n = some { p with training := false, lanes := 0 }
          ∧ ∀ x ∈ t.parts, ∀ r ∈ x.routes, r.2.testBit n = false)
      ∧ (ash = false → p.up = false → p.training = true → p.since + 12500000 ≤ s.clock.toNat → s.parts.length ≤ 16 →
          (∀ k q, k ≠ n → s.qports[k]? = some q → q.up = false ∧ q.training = false) →
          ∃ t, exec (.portDown ash n) s = .next t ∧ (∀ x ∈ t.parts, x.st = .quarantined) ∧ t.owedLink = some s.clock.toNat)
      ∧ (p.up = false → s.owedLink = none → ∀ k, ∃ t p', exec (.portUp ash n k) s = .next t ∧ t.port ash n = some p'
          ∧ p'.up = true ∧ p'.training = false ∧ p'.lanes = k ∧ t.mem = s.mem))
  ∧ (∀ (s : State) (f key : Nat), f < s.funcs.length →
      ((s.keysOf f).map (·.1) = some key → exec (.authenticationFailure ⟨f, key⟩) s = .next s)
      ∧ ((s.keysOf f).map (·.1) ≠ some key → f ≠ 0 → (s.func f).trusted = true → ∃ t, exec (.authenticationFailure ⟨f, key⟩) s = .next t
          ∧ (t.func f).tdi = .error ∧ (t.func f).stopped = true ∧ (t.func f).keys = none)
      ∧ ((s.keysOf f).map (·.1) ≠ some key → (s.func f).trusted = false → ∃ t r, exec (.authenticationFailure ⟨f, key⟩) s = .next t
          ∧ (t.func f).tdi = (s.func f).tdi ∧ t.recent.head? = some r ∧ r.code = faultCode 1 0x09 0x23))
  ∧ ∀ (s : State) (port : Nat) (r : AshReq), s.Canonical → r.dstPart < s.parts.length → 0x8000000000000 ≤ r.pa →
      r.pa + r.bytes ≤ 0x8000000000000 + 0x18000000 → 1 ≤ r.bytes →
      let p := s.part r.dstPart
      let rt := p.routes.getD r.srcDev (false, 0)
      let ok := p.ports.testBit port = true ∧ rt.1 = true ∧ rt.2 &&& p.ports ≠ 0
        ∧ p.slices.testBit ((r.pa - 0x8000000000000) / 0x800000) = true
      (ok → ∀ v, r.op = .write v → ∃ t, exec (.ashlarRequestArrival port r) s = .next t
          ∧ memReadN t.mem r.pa r.bytes = bytesOf r.bytes v ∧ t.parts = s.parts
          ∧ ∀ x, (x < r.pa ∨ r.pa + r.bytes ≤ x) → memRead t.mem x = memRead s.mem x)
      ∧ (ok → ∀ op b, r.op = .atom op b → r.bytes = 4 → ∃ t, exec (.ashlarRequestArrival port r) s = .next t
          ∧ t.num r.pa 4 = atomNew op false (s.num r.pa 4) b % 2 ^ 32
          ∧ ∀ x, (x < r.pa ∨ r.pa + 4 ≤ x) → memRead t.mem x = memRead s.mem x)
      ∧ (¬ ok → p.st = .active → ∃ t q, exec (.ashlarRequestArrival port r) s = .next t
          ∧ (t.part r.dstPart).st = .quarantined ∧ t.recent.head? = some q ∧ q.code = faultCode 2 0x0A 0x21)

/-- The model's choices here: that KEY_EXCHANGE is refused in ERROR is log 78, that a device reset keeps memory outside the slices
is log 80, the form of an SPDM reply is log 77, and a register's errors as SCRUB events are log 106. R339 to R342: an interface is
locked, run, stopped and reported on as its state allows, keys are exchanged but in ERROR, and an SPDM request is answered. R343,
R345: an image that passes is written to flash, and the device resets; a reset boots the image in flash: units, registers and
slices are as after reset, and a unit that fails in bring-up is marked. R344: a row at its limit is refreshed, its bank held for
225 cycles and the alert counted; refreshes and the end of a hold clear their entries. R240: a scrub counts what it found; an
uncorrectable error of a register waits for a read. -/
def Obligations.ManagementEvents : Prop :=
  (∀ (s : State) (f : Nat), f ≠ 0 → f < s.funcs.length → (s.func f).fpart < 16 →
      ((s.func f).tdi = .unlocked → (∀ q ∈ (s.func f).queues, q.st = .idle ∨ q.st = .reset) →
          (s.part (s.func f).fpart).st ≠ .quarantined →
          ∃ t, exec (.lockInterfaceRequest f) s = .next t ∧ (t.func f).tdi = .locked ∧ (t.func f).snapshot.length = 64
            ∧ t.mem = s.mem)
      ∧ ((s.func f).tdi ≠ .unlocked → ∃ t, exec (.lockInterfaceRequest f) s = .next t ∧ t.funcs = s.funcs)
      ∧ ((s.func f).tdi = .locked → ∃ t, exec (.startInterfaceRequest f) s = .next t ∧ (t.func f).tdi = .run)
      ∧ (∃ t, exec (.stopInterfaceRequest f) s = .next t ∧ (t.func f).tdi = .unlocked ∧ (t.func f).snapshot = [])
      ∧ ((s.func f).trusted = true → ∃ t, exec (.getDeviceInterfaceReport f) s = .next t
          ∧ t.fw.replies.length = s.fw.replies.length + 1 ∧ t.funcs = s.funcs ∧ t.mem = s.mem)
      ∧ (∀ rx tx, (s.func f).tdi ≠ .error → ∃ t, exec (.keyExchange f (rx, tx)) s = .next t ∧ (t.func f).keys = some (rx, tx)
          ∧ ((s.func f).trusted = true → t.keysOf f = some (rx, tx)))
      ∧ ∀ rx tx, (s.func f).tdi = .error → ∃ t, exec (.keyExchange f (rx, tx)) s = .next t ∧ t.funcs = s.funcs)
  ∧ (∀ (s : State) (n : Nat), ∃ t r, exec (.spdmMeasurementRequest (.measurements n)) s = .next t ∧ t.fw.replies = s.fw.replies ++ [r]
      ∧ r.take 192 = s.digests ∧ t.funcs = s.funcs ∧ t.mem = s.mem)
  ∧ (∀ (s : State) (q : SpdmReq), ∃ t r, exec (.spdmMeasurementRequest q) s = .next t ∧ t.fw.replies = s.fw.replies ++ [r]
      ∧ t.cur = s.cur ∧ t.funcs = s.funcs ∧ t.mem = s.mem)
  ∧ (∀ (s : State) (i : FwImage), (∀ p ∈ s.parts, p.st = .unused) →
      (i.ecdsaOk = true → i.lmsOk = true → s.fw.fused ≤ i.version →
          ∃ t, exec (.firmwareLoad i) s = .next t ∧ t.agenda = .deviceReset [] :: s.agenda ∧ t.fw.flash = i ∧ t.mem = s.mem)
      ∧ (i.ecdsaOk = false ∨ i.lmsOk = false ∨ i.version < s.fw.fused → exec (.firmwareLoad i) s = .next s))
  ∧ (∀ s : State, let i := s.fw.flash
      ∃ t, exec (.deviceReset []) s = .next t ∧ t.fw.flash = i ∧ t.cur = State.reset.cur ∧ t.teams = [] ∧ t.blocks = []
      ∧ t.saved = [] ∧ t.launches = [] ∧ t.funcs = State.reset.funcs ∧ t.parts = State.reset.parts ∧ t.tlb = [] ∧ t.clock = 0
      ∧ t.fw.version = i.version ∧ t.fw.recovery = (!i.ecdsaOk || !i.lmsOk || decide (i.version < s.fw.fused))
      ∧ (∀ o, o < 0x18000000 → memRead t.mem (0x8000000000000 + o) = 0)
      ∧ ∀ x, (x < 0x8000000000000 ∨ 0x8000000000000 + 0x18000000 ≤ x) → memRead t.mem x = memRead s.mem x)
  ∧ (∀ (s : State) (bad : List UnitName) (c : Nat), c < 192 → .core c ∈ bad →
      ∃ t, exec (.deviceReset bad) s = .next t ∧ (t.core c).failed = true ∧ t.mem = memZero s.mem 0x8000000000000 0x18000000)
  ∧ (∀ (s : State) (ch bank row : Nat) (r : RowCount) (c : Channel), r ∈ s.rows → r.ch = ch → r.bank = bank → r.row = row →
      s.raathr ≤ r.count → s.channels[ch]? = some c →
      ∃ t, exec (.rowActivationAlert ch bank row) s = .next t ∧ t.channels[ch]? = some { c with alerts := c.alerts + 1 }
        ∧ (ch, bank, s.clock.toNat + 225) ∈ t.bankHolds ∧ t.mem = s.mem
        ∧ ∀ x ∈ t.rows, ¬ (x.ch = ch ∧ x.bank = bank ∧ x.row = row))
  ∧ (∀ (s : State) (ch bank row : Nat),
      (∃ t, exec (.rowRefresh ch bank row) s = .next t ∧ (∀ x ∈ t.rows, ¬ (x.ch = ch ∧ x.bank = bank ∧ x.row = row)) ∧ t.mem = s.mem)
      ∧ ∃ t, exec (.bankHoldEnd ch bank) s = .next t
          ∧ ∀ h ∈ t.bankHolds, h.1 = ch → h.2.1 = bank → s.clock.toNat < h.2.2)
  ∧ (∀ (s : State) (c n : Nat) (x : Channel), s.channels[c]? = some x →
      ∃ t y, exec (.scrub (.unit (.channel c)) n 0) s = .next t ∧ t.channels[c]? = some y ∧ y.corrected = x.corrected + n
        ∧ y.alerts = x.alerts ∧ t.mem = s.mem)
  ∧ (∀ (s : State) (w : CoreWord), Homed s →
      ∃ t, exec (.scrub (.word s.cur.uid w) 0 1) s = .next t ∧ t.cur = { s.cur with bad := w :: s.cur.bad } ∧ t.mem = s.mem)
  ∧ ∀ (s : State) (k a b : Nat) (x : SliceHealth), s.slices[k]? = some x →
      ∃ t y, exec (.scrub (.unit (.slice k)) a b) s = .next t ∧ t.slices[k]? = some y ∧ y.corrected = x.corrected + a
        ∧ y.uncorrectable = x.uncorrectable + b ∧ y.scannedAt = s.clock.toNat ∧ y.bad.length = x.bad.length + b ∧ t.mem = s.mem
end

