-- ==== Sys2Proof/Laws/Memory.lean ====
section
/-! SUPPORT. Memory keeps its canonical form under every operation, reads give back what was written, and a write
leaves every other address alone. -/

namespace Sys2Proof.Machine

@[simp] theorem Mem.wf_nil : Mem.wf [] = true := rfl

theorem Mem.wfFrom_cons {lo a : Nat} {b : Byte} {r : Mem} :
    Mem.wfFrom lo ((a, b) :: r) = true ↔ lo ≤ a ∧ b ≠ Mem.unlisted ∧ Mem.wfFrom (a + 1) r = true := by
  simp [Mem.wfFrom, and_assoc]

theorem Mem.wfFrom_le {m : Mem} {lo lo' : Nat} (h : Mem.wfFrom lo m = true) (hl : lo' ≤ lo) : Mem.wfFrom lo' m = true := by
  cases m with
  | nil => rfl
  | cons c r =>
    obtain ⟨a, b⟩ := c
    rw [Mem.wfFrom_cons] at h ⊢
    exact ⟨by omega, h.2⟩

theorem memWrite_wfFrom {m : Mem} {lo a : Nat} (b : Byte) (h : Mem.wfFrom lo m = true) (ha : lo ≤ a) :
    Mem.wfFrom lo (memWrite m a b) = true := by
  induction m generalizing lo with
  | nil => by_cases hb : b = Mem.unlisted <;> simp [memWrite, hb, Mem.wfFrom, ha]
  | cons c r ih =>
    obtain ⟨x, v⟩ := c
    rw [Mem.wfFrom_cons] at h
    obtain ⟨h1, h2, h3⟩ := h
    unfold memWrite
    split
    · split
      · exact Mem.wfFrom_cons.2 ⟨h1, h2, h3⟩
      · exact Mem.wfFrom_cons.2 ⟨ha, ‹_›, Mem.wfFrom_cons.2 ⟨by omega, h2, h3⟩⟩
    · split
      · split
        · exact Mem.wfFrom_le h3 (by omega)
        · exact Mem.wfFrom_cons.2 ⟨ha, ‹_›, by subst a; exact h3⟩
      · exact Mem.wfFrom_cons.2 ⟨h1, h2, ih h3 (by omega)⟩

@[simp] theorem memWrite_wf {m : Mem} (a : Nat) (b : Byte) (h : Mem.wf m = true) : Mem.wf (memWrite m a b) = true :=
  memWrite_wfFrom b h (Nat.zero_le a)

@[simp] theorem memWriteN_wf {m : Mem} (a : Nat) (bs : List Byte) (h : Mem.wf m = true) :
    Mem.wf (memWriteN m a bs) = true := by
  induction bs generalizing m a with
  | nil => exact h
  | cons b bs ih => exact ih (a + 1) (memWrite_wf a b h)

@[simp] theorem memCells_wf {m : Mem} (base : Nat) (cs : List (Nat × Byte)) (h : Mem.wf m = true) :
    Mem.wf (memCells m base cs) = true := by
  induction cs generalizing m with
  | nil => exact h
  | cons c r ih => exact ih (memWrite_wf _ _ h)

@[simp] theorem memPut_wf {m : Mem} (a n x : Nat) (h : Mem.wf m = true) : Mem.wf (memPut m a n x) = true :=
  memWriteN_wf a _ h

theorem filter_wfFrom {m : Mem} {lo : Nat} (p : Host.Cell → Bool) (h : Mem.wfFrom lo m = true) :
    Mem.wfFrom lo (m.filter p) = true := by
  induction m generalizing lo with
  | nil => rfl
  | cons c r ih =>
    obtain ⟨x, v⟩ := c
    rw [Mem.wfFrom_cons] at h
    rw [List.filter_cons]
    split
    · exact Mem.wfFrom_cons.2 ⟨h.1, h.2.1, ih h.2.2⟩
    · exact ih (Mem.wfFrom_le h.2.2 (by omega))

@[simp] theorem memZero_wf {m : Mem} (a n : Nat) (h : Mem.wf m = true) : Mem.wf (memZero m a n) = true :=
  filter_wfFrom _ h

theorem foldl_write_wf {α : Type} (l : List α) (a : α → Nat) (b : α → Byte) {m : Mem} (h : Mem.wf m = true) :
    Mem.wf (l.foldl (fun m c => memWrite m (a c) (b c)) m) = true := by
  induction l generalizing m with
  | nil => exact h
  | cons c r ih => exact ih (memWrite_wf _ _ h)

theorem foldl_zero_wf {α : Type} (l : List α) (a n : α → Nat) {m : Mem} (h : Mem.wf m = true) :
    Mem.wf (l.foldl (fun m c => memZero m (a c) (n c)) m) = true := by
  induction l generalizing m with
  | nil => exact h
  | cons c r ih => exact ih (memZero_wf _ _ h)

@[simp] theorem memMove_wf {m : Mem} (src dst n : Nat) (h : Mem.wf m = true) : Mem.wf (memMove m src dst n) = true :=
  foldl_write_wf _ _ _ (memZero_wf _ _ h)

@[simp] theorem moveSpans_wf (toDev : Bool) (spans : List (Nat × Nat)) (host : Nat) {m : Mem} (h : Mem.wf m = true) :
    Mem.wf (moveSpans toDev spans host m) = true := by
  induction spans generalizing host m with
  | nil => exact h
  | cons c r ih =>
    obtain ⟨a, n⟩ := c
    unfold moveSpans
    split
    · exact ih _ (memMove_wf _ _ _ h)
    · exact ih _ (memMove_wf _ _ _ h)

/-! ### Reading what was written -/

/-- Below the first address of a well-formed list nothing is listed. -/
theorem memRead_below {m : Mem} {lo x : Nat} (h : Mem.wfFrom lo m = true) (hx : x < lo) : memRead m x = Mem.unlisted := by
  induction m generalizing lo with
  | nil => rfl
  | cons c r ih =>
    obtain ⟨a, b⟩ := c
    rw [Mem.wfFrom_cons] at h
    simp [memRead, show x ≠ a by omega, ih h.2.2 (by omega)]

theorem memRead_write_same {m : Mem} {lo a : Nat} (b : Byte) (h : Mem.wfFrom lo m = true) :
    memRead (memWrite m a b) a = b := by
  induction m generalizing lo with
  | nil => by_cases hb : b = Mem.unlisted <;> simp [memWrite, hb, memRead]
  | cons c r ih =>
    obtain ⟨x, v⟩ := c
    rw [Mem.wfFrom_cons] at h
    unfold memWrite
    split
    · split
      · subst b; exact memRead_below (Mem.wfFrom_cons.2 ⟨Nat.le_refl x, h.2⟩) (by omega)
      · simp [memRead]
    · split
      · split
        · subst a b; exact memRead_below h.2.2 (by omega)
        · simp [memRead]
      · simp [memRead, show a ≠ x by omega, ih h.2.2]

theorem memRead_write_other (m : Mem) {a y : Nat} (b : Byte) (hy : y ≠ a) : memRead (memWrite m a b) y = memRead m y := by
  induction m with
  | nil => by_cases hb : b = Mem.unlisted <;> simp [memWrite, hb, memRead, hy]
  | cons c r ih =>
    obtain ⟨x, v⟩ := c
    unfold memWrite
    split
    · split
      · rfl
      · simp [memRead, hy]
    · split
      · subst a
        split <;> simp [memRead, hy]
      · by_cases hx : y = x <;> simp [memRead, hx, ih]

/-- Cells written leave every other address as it was. -/
theorem memRead_cells_other (m : Mem) (base : Nat) (cs : List (Nat × Byte)) {y : Nat} (hy : ∀ c ∈ cs, y ≠ base + c.1) :
    memRead (memCells m base cs) y = memRead m y := by
  induction cs generalizing m with
  | nil => rfl
  | cons c r ih =>
    rw [memCells, ih _ fun d hd => hy d (List.mem_cons_of_mem _ hd)]
    exact memRead_write_other m c.2 (hy c (List.mem_cons_self ..))

theorem memRead_writeN_other (m : Mem) (a : Nat) (bs : List Byte) {y : Nat} (hy : y < a ∨ a + bs.length ≤ y) :
    memRead (memWriteN m a bs) y = memRead m y := by
  induction bs generalizing m a with
  | nil => rfl
  | cons b bs ih =>
    simp only [memWriteN, List.length_cons] at hy ⊢
    rw [ih _ _ (by omega), memRead_write_other _ _ (by omega)]

end Sys2Proof.Machine
end

