-- ==== Sys2Proof/Laws/Ops.lean ====
section
/-! SUPPORT. What the shared operations do, each said once: results that land, the checks of an issue, traps, kills,
waits, the runners over lanes, and which team acts. -/

namespace Sys2Proof.Machine

/-! ### Lists of units -/

@[simp] theorem upd_length {α : Type} (l : List α) (n : Nat) (f : α → α) : (upd l n f).length = l.length := by
  simp [upd]

theorem upd_getElem? {α : Type} (l : List α) (n k : Nat) (f : α → α) :
    (upd l n f)[k]? = if n = k then l[k]?.map f else l[k]? := by
  simp only [upd, List.getElem?_modify]
  split <;> simp

/-! ### Results that land: the fields of a team that no result is for -/

/-- What no single result changes, the results due by a cycle do not change. -/
theorem landed_keeps {α : Type} (f : Team → α) (hp : ∀ t w, f (t.put w) = f t)
    (hf : ∀ (t : Team) x y, f { t with fix := x, spad := y } = f t) (t : Team) (n : Nat) : f (t.landed n) = f t := by
  have h : ∀ (es : List FixWrite) (u : Team), f (es.foldl (fun t e => t.put e.w) u) = f u := by
    intro es
    induction es with
    | nil => exact fun _ => rfl
    | cons e r ih => exact fun u => (ih (u.put e.w)).trans (hp u e.w)
  simp only [Team.landed, hf, h]

/-- What no write of a system register changes, no result changes, where no other field that results are for counts; a
write of a register also takes the errors from the words it replaces (R240). -/
theorem put_keeps {α : Type} (f : Team → α) (hv : ∀ (t : Team) x y, f { t with v := x, bad := y } = f t)
    (hp : ∀ (t : Team) x y, f { t with p := x, bad := y } = f t) (hs : ∀ (t : Team) x y, f { t with s := x, bad := y } = f t)
    (hf : ∀ (t : Team) x, f { t with fpstat := x } = f t) (hr : ∀ (t : Team) r xs, f (t.sysWrite r xs) = f t)
    (t : Team) (w : RegWrite) : f (t.put w) = f t := by
  cases w with
  | v r c => exact hv _ _ _
  | c r c => exact hv _ _ t.bad
  | p r c => exact hp _ _ _
  | s r x => exact hs _ _ _
  | flags x => exact hf _ _
  | sys r xs => exact hr _ _ _

@[simp] theorem sysWrite_st (t : Team) (r : SysReg) (xs : List (Nat × Word)) : (t.sysWrite r xs).st = t.st := by cases r <;> rfl
@[simp] theorem put_st (t : Team) (w : RegWrite) : (t.put w).st = t.st :=
  put_keeps (·.st) (fun _ _ _ => rfl) (fun _ _ _ => rfl) (fun _ _ _ => rfl) (fun _ _ => rfl) sysWrite_st t w
@[simp] theorem landed_st (t : Team) (n : Nat) : (t.landed n).st = t.st := landed_keeps (·.st) put_st (fun _ _ _ => rfl) t n
@[simp] theorem sysWrite_uid (t : Team) (r : SysReg) (xs : List (Nat × Word)) : (t.sysWrite r xs).uid = t.uid := by cases r <;> rfl
@[simp] theorem put_uid (t : Team) (w : RegWrite) : (t.put w).uid = t.uid :=
  put_keeps (·.uid) (fun _ _ _ => rfl) (fun _ _ _ => rfl) (fun _ _ _ => rfl) (fun _ _ => rfl) sysWrite_uid t w
@[simp] theorem landed_uid (t : Team) (n : Nat) : (t.landed n).uid = t.uid := landed_keeps (·.uid) put_uid (fun _ _ _ => rfl) t n
@[simp] theorem sysWrite_bid (t : Team) (r : SysReg) (xs : List (Nat × Word)) : (t.sysWrite r xs).bid = t.bid := by cases r <;> rfl
@[simp] theorem put_bid (t : Team) (w : RegWrite) : (t.put w).bid = t.bid :=
  put_keeps (·.bid) (fun _ _ _ => rfl) (fun _ _ _ => rfl) (fun _ _ _ => rfl) (fun _ _ => rfl) sysWrite_bid t w
@[simp] theorem landed_bid (t : Team) (n : Nat) : (t.landed n).bid = t.bid := landed_keeps (·.bid) put_bid (fun _ _ _ => rfl) t n
@[simp] theorem sysWrite_lid (t : Team) (r : SysReg) (xs : List (Nat × Word)) : (t.sysWrite r xs).lid = t.lid := by cases r <;> rfl
@[simp] theorem put_lid (t : Team) (w : RegWrite) : (t.put w).lid = t.lid :=
  put_keeps (·.lid) (fun _ _ _ => rfl) (fun _ _ _ => rfl) (fun _ _ _ => rfl) (fun _ _ => rfl) sysWrite_lid t w
@[simp] theorem landed_lid (t : Team) (n : Nat) : (t.landed n).lid = t.lid := landed_keeps (·.lid) put_lid (fun _ _ _ => rfl) t n
@[simp] theorem sysWrite_d (t : Team) (r : SysReg) (xs : List (Nat × Word)) : (t.sysWrite r xs).d = t.d := by cases r <;> rfl
@[simp] theorem put_d (t : Team) (w : RegWrite) : (t.put w).d = t.d :=
  put_keeps (·.d) (fun _ _ _ => rfl) (fun _ _ _ => rfl) (fun _ _ _ => rfl) (fun _ _ => rfl) sysWrite_d t w
@[simp] theorem landed_d (t : Team) (n : Nat) : (t.landed n).d = t.d := landed_keeps (·.d) put_d (fun _ _ _ => rfl) t n
@[simp] theorem sysWrite_tno (t : Team) (r : SysReg) (xs : List (Nat × Word)) : (t.sysWrite r xs).tno = t.tno := by cases r <;> rfl
@[simp] theorem put_tno (t : Team) (w : RegWrite) : (t.put w).tno = t.tno :=
  put_keeps (·.tno) (fun _ _ _ => rfl) (fun _ _ _ => rfl) (fun _ _ _ => rfl) (fun _ _ => rfl) sysWrite_tno t w
@[simp] theorem landed_tno (t : Team) (n : Nat) : (t.landed n).tno = t.tno := landed_keeps (·.tno) put_tno (fun _ _ _ => rfl) t n
@[simp] theorem sysWrite_core (t : Team) (r : SysReg) (xs : List (Nat × Word)) : (t.sysWrite r xs).core = t.core := by cases r <;> rfl
@[simp] theorem put_core (t : Team) (w : RegWrite) : (t.put w).core = t.core :=
  put_keeps (·.core) (fun _ _ _ => rfl) (fun _ _ _ => rfl) (fun _ _ _ => rfl) (fun _ _ => rfl) sysWrite_core t w
@[simp] theorem landed_core (t : Team) (n : Nat) : (t.landed n).core = t.core := landed_keeps (·.core) put_core (fun _ _ _ => rfl) t n
@[simp] theorem sysWrite_quad (t : Team) (r : SysReg) (xs : List (Nat × Word)) : (t.sysWrite r xs).quad = t.quad := by cases r <;> rfl
@[simp] theorem put_quad (t : Team) (w : RegWrite) : (t.put w).quad = t.quad :=
  put_keeps (·.quad) (fun _ _ _ => rfl) (fun _ _ _ => rfl) (fun _ _ _ => rfl) (fun _ _ => rfl) sysWrite_quad t w
@[simp] theorem landed_quad (t : Team) (n : Nat) : (t.landed n).quad = t.quad := landed_keeps (·.quad) put_quad (fun _ _ _ => rfl) t n
@[simp] theorem sysWrite_handler (t : Team) (r : SysReg) (xs : List (Nat × Word)) : (t.sysWrite r xs).handler = t.handler := by cases r <;> rfl
@[simp] theorem put_handler (t : Team) (w : RegWrite) : (t.put w).handler = t.handler :=
  put_keeps (·.handler) (fun _ _ _ => rfl) (fun _ _ _ => rfl) (fun _ _ _ => rfl) (fun _ _ => rfl) sysWrite_handler t w
@[simp] theorem landed_handler (t : Team) (n : Nat) : (t.landed n).handler = t.handler := landed_keeps (·.handler) put_handler (fun _ _ _ => rfl) t n
@[simp] theorem sysWrite_at_ (t : Team) (r : SysReg) (xs : List (Nat × Word)) : (t.sysWrite r xs).at_ = t.at_ := by cases r <;> rfl
@[simp] theorem put_at_ (t : Team) (w : RegWrite) : (t.put w).at_ = t.at_ :=
  put_keeps (·.at_) (fun _ _ _ => rfl) (fun _ _ _ => rfl) (fun _ _ _ => rfl) (fun _ _ => rfl) sysWrite_at_ t w
@[simp] theorem landed_at_ (t : Team) (n : Nat) : (t.landed n).at_ = t.at_ := landed_keeps (·.at_) put_at_ (fun _ _ _ => rfl) t n
@[simp] theorem sysWrite_mask (t : Team) (r : SysReg) (xs : List (Nat × Word)) : (t.sysWrite r xs).mask = t.mask := by cases r <;> rfl
@[simp] theorem put_mask (t : Team) (w : RegWrite) : (t.put w).mask = t.mask :=
  put_keeps (·.mask) (fun _ _ _ => rfl) (fun _ _ _ => rfl) (fun _ _ _ => rfl) (fun _ _ => rfl) sysWrite_mask t w
@[simp] theorem landed_mask (t : Team) (n : Nat) : (t.landed n).mask = t.mask := landed_keeps (·.mask) put_mask (fun _ _ _ => rfl) t n
@[simp] theorem sysWrite_ended (t : Team) (r : SysReg) (xs : List (Nat × Word)) : (t.sysWrite r xs).ended = t.ended := by cases r <;> rfl
@[simp] theorem put_ended (t : Team) (w : RegWrite) : (t.put w).ended = t.ended :=
  put_keeps (·.ended) (fun _ _ _ => rfl) (fun _ _ _ => rfl) (fun _ _ _ => rfl) (fun _ _ => rfl) sysWrite_ended t w
@[simp] theorem landed_ended (t : Team) (n : Nat) : (t.landed n).ended = t.ended := landed_keeps (·.ended) put_ended (fun _ _ _ => rfl) t n
@[simp] theorem sysWrite_tiles (t : Team) (r : SysReg) (xs : List (Nat × Word)) : (t.sysWrite r xs).tiles = t.tiles := by cases r <;> rfl
@[simp] theorem put_tiles (t : Team) (w : RegWrite) : (t.put w).tiles = t.tiles :=
  put_keeps (·.tiles) (fun _ _ _ => rfl) (fun _ _ _ => rfl) (fun _ _ _ => rfl) (fun _ _ => rfl) sysWrite_tiles t w
@[simp] theorem landed_tiles (t : Team) (n : Nat) : (t.landed n).tiles = t.tiles := landed_keeps (·.tiles) put_tiles (fun _ _ _ => rfl) t n
@[simp] theorem sysWrite_tags (t : Team) (r : SysReg) (xs : List (Nat × Word)) : (t.sysWrite r xs).tags = t.tags := by cases r <;> rfl
@[simp] theorem put_tags (t : Team) (w : RegWrite) : (t.put w).tags = t.tags :=
  put_keeps (·.tags) (fun _ _ _ => rfl) (fun _ _ _ => rfl) (fun _ _ _ => rfl) (fun _ _ => rfl) sysWrite_tags t w
@[simp] theorem landed_tags (t : Team) (n : Nat) : (t.landed n).tags = t.tags := landed_keeps (·.tags) put_tags (fun _ _ _ => rfl) t n
@[simp] theorem sysWrite_cpy (t : Team) (r : SysReg) (xs : List (Nat × Word)) : (t.sysWrite r xs).cpy = t.cpy := by cases r <;> rfl
@[simp] theorem put_cpy (t : Team) (w : RegWrite) : (t.put w).cpy = t.cpy :=
  put_keeps (·.cpy) (fun _ _ _ => rfl) (fun _ _ _ => rfl) (fun _ _ _ => rfl) (fun _ _ => rfl) sysWrite_cpy t w
@[simp] theorem landed_cpy (t : Team) (n : Nat) : (t.landed n).cpy = t.cpy := landed_keeps (·.cpy) put_cpy (fun _ _ _ => rfl) t n
@[simp] theorem sysWrite_mtx (t : Team) (r : SysReg) (xs : List (Nat × Word)) : (t.sysWrite r xs).mtx = t.mtx := by cases r <;> rfl
@[simp] theorem put_mtx (t : Team) (w : RegWrite) : (t.put w).mtx = t.mtx :=
  put_keeps (·.mtx) (fun _ _ _ => rfl) (fun _ _ _ => rfl) (fun _ _ _ => rfl) (fun _ _ => rfl) sysWrite_mtx t w
@[simp] theorem landed_mtx (t : Team) (n : Nat) : (t.landed n).mtx = t.mtx := landed_keeps (·.mtx) put_mtx (fun _ _ _ => rfl) t n
@[simp] theorem sysWrite_msg (t : Team) (r : SysReg) (xs : List (Nat × Word)) : (t.sysWrite r xs).msg = t.msg := by cases r <;> rfl
@[simp] theorem put_msg (t : Team) (w : RegWrite) : (t.put w).msg = t.msg :=
  put_keeps (·.msg) (fun _ _ _ => rfl) (fun _ _ _ => rfl) (fun _ _ _ => rfl) (fun _ _ => rfl) sysWrite_msg t w
@[simp] theorem landed_msg (t : Team) (n : Nat) : (t.landed n).msg = t.msg := landed_keeps (·.msg) put_msg (fun _ _ _ => rfl) t n
@[simp] theorem sysWrite_batch (t : Team) (r : SysReg) (xs : List (Nat × Word)) : (t.sysWrite r xs).batch = t.batch := by cases r <;> rfl
@[simp] theorem put_batch (t : Team) (w : RegWrite) : (t.put w).batch = t.batch :=
  put_keeps (·.batch) (fun _ _ _ => rfl) (fun _ _ _ => rfl) (fun _ _ _ => rfl) (fun _ _ => rfl) sysWrite_batch t w
@[simp] theorem landed_batch (t : Team) (n : Nat) : (t.landed n).batch = t.batch := landed_keeps (·.batch) put_batch (fun _ _ _ => rfl) t n
@[simp] theorem sysWrite_mark (t : Team) (r : SysReg) (xs : List (Nat × Word)) : (t.sysWrite r xs).mark = t.mark := by cases r <;> rfl
@[simp] theorem put_mark (t : Team) (w : RegWrite) : (t.put w).mark = t.mark :=
  put_keeps (·.mark) (fun _ _ _ => rfl) (fun _ _ _ => rfl) (fun _ _ _ => rfl) (fun _ _ => rfl) sysWrite_mark t w
@[simp] theorem landed_mark (t : Team) (n : Nat) : (t.landed n).mark = t.mark := landed_keeps (·.mark) put_mark (fun _ _ _ => rfl) t n
@[simp] theorem sysWrite_stack (t : Team) (r : SysReg) (xs : List (Nat × Word)) : (t.sysWrite r xs).stack = t.stack := by cases r <;> rfl
@[simp] theorem put_stack (t : Team) (w : RegWrite) : (t.put w).stack = t.stack :=
  put_keeps (·.stack) (fun _ _ _ => rfl) (fun _ _ _ => rfl) (fun _ _ _ => rfl) (fun _ _ => rfl) sysWrite_stack t w
@[simp] theorem landed_stack (t : Team) (n : Nat) : (t.landed n).stack = t.stack := landed_keeps (·.stack) put_stack (fun _ _ _ => rfl) t n
@[simp] theorem sysWrite_ins (t : Team) (r : SysReg) (xs : List (Nat × Word)) : (t.sysWrite r xs).ins = t.ins := by cases r <;> rfl
@[simp] theorem put_ins (t : Team) (w : RegWrite) : (t.put w).ins = t.ins :=
  put_keeps (·.ins) (fun _ _ _ => rfl) (fun _ _ _ => rfl) (fun _ _ _ => rfl) (fun _ _ => rfl) sysWrite_ins t w
@[simp] theorem landed_ins (t : Team) (n : Nat) : (t.landed n).ins = t.ins := landed_keeps (·.ins) put_ins (fun _ _ _ => rfl) t n
@[simp] theorem sysWrite_stores (t : Team) (r : SysReg) (xs : List (Nat × Word)) : (t.sysWrite r xs).stores = t.stores := by cases r <;> rfl
@[simp] theorem put_stores (t : Team) (w : RegWrite) : (t.put w).stores = t.stores :=
  put_keeps (·.stores) (fun _ _ _ => rfl) (fun _ _ _ => rfl) (fun _ _ _ => rfl) (fun _ _ => rfl) sysWrite_stores t w
@[simp] theorem landed_stores (t : Team) (n : Nat) : (t.landed n).stores = t.stores := landed_keeps (·.stores) put_stores (fun _ _ _ => rfl) t n
@[simp] theorem sysWrite_waiting (t : Team) (r : SysReg) (xs : List (Nat × Word)) : (t.sysWrite r xs).waiting = t.waiting := by cases r <;> rfl
@[simp] theorem put_waiting (t : Team) (w : RegWrite) : (t.put w).waiting = t.waiting :=
  put_keeps (·.waiting) (fun _ _ _ => rfl) (fun _ _ _ => rfl) (fun _ _ _ => rfl) (fun _ _ => rfl) sysWrite_waiting t w
@[simp] theorem landed_waiting (t : Team) (n : Nat) : (t.landed n).waiting = t.waiting := landed_keeps (·.waiting) put_waiting (fun _ _ _ => rfl) t n
@[simp] theorem sysWrite_flight (t : Team) (r : SysReg) (xs : List (Nat × Word)) : (t.sysWrite r xs).flight = t.flight := by cases r <;> rfl
@[simp] theorem put_flight (t : Team) (w : RegWrite) : (t.put w).flight = t.flight :=
  put_keeps (·.flight) (fun _ _ _ => rfl) (fun _ _ _ => rfl) (fun _ _ _ => rfl) (fun _ _ => rfl) sysWrite_flight t w
@[simp] theorem landed_flight (t : Team) (n : Nat) : (t.landed n).flight = t.flight := landed_keeps (·.flight) put_flight (fun _ _ _ => rfl) t n
@[simp] theorem sysWrite_accesses (t : Team) (r : SysReg) (xs : List (Nat × Word)) : (t.sysWrite r xs).accesses = t.accesses := by cases r <;> rfl
@[simp] theorem put_accesses (t : Team) (w : RegWrite) : (t.put w).accesses = t.accesses :=
  put_keeps (·.accesses) (fun _ _ _ => rfl) (fun _ _ _ => rfl) (fun _ _ _ => rfl) (fun _ _ => rfl) sysWrite_accesses t w
@[simp] theorem landed_accesses (t : Team) (n : Nat) : (t.landed n).accesses = t.accesses := landed_keeps (·.accesses) put_accesses (fun _ _ _ => rfl) t n
@[simp] theorem sysWrite_fences (t : Team) (r : SysReg) (xs : List (Nat × Word)) : (t.sysWrite r xs).fences = t.fences := by cases r <;> rfl
@[simp] theorem put_fences (t : Team) (w : RegWrite) : (t.put w).fences = t.fences :=
  put_keeps (·.fences) (fun _ _ _ => rfl) (fun _ _ _ => rfl) (fun _ _ _ => rfl) (fun _ _ => rfl) sysWrite_fences t w
@[simp] theorem landed_fences (t : Team) (n : Nat) : (t.landed n).fences = t.fences := landed_keeps (·.fences) put_fences (fun _ _ _ => rfl) t n
@[simp] theorem sysWrite_tagged (t : Team) (r : SysReg) (xs : List (Nat × Word)) : (t.sysWrite r xs).tagged = t.tagged := by cases r <;> rfl
@[simp] theorem put_tagged (t : Team) (w : RegWrite) : (t.put w).tagged = t.tagged :=
  put_keeps (·.tagged) (fun _ _ _ => rfl) (fun _ _ _ => rfl) (fun _ _ _ => rfl) (fun _ _ => rfl) sysWrite_tagged t w
@[simp] theorem landed_tagged (t : Team) (n : Nat) : (t.landed n).tagged = t.tagged := landed_keeps (·.tagged) put_tagged (fun _ _ _ => rfl) t n
@[simp] theorem sysWrite_spad (t : Team) (r : SysReg) (xs : List (Nat × Word)) : (t.sysWrite r xs).spad = t.spad := by cases r <;> rfl
@[simp] theorem put_spad (t : Team) (w : RegWrite) : (t.put w).spad = t.spad :=
  put_keeps (·.spad) (fun _ _ _ => rfl) (fun _ _ _ => rfl) (fun _ _ _ => rfl) (fun _ _ => rfl) sysWrite_spad t w
@[simp] theorem landed_spad (t : Team) (n : Nat) : (t.landed n).spad = t.spad.map (·.landed n) := rfl
@[simp] theorem sysWrite_held (t : Team) (r : SysReg) (xs : List (Nat × Word)) : (t.sysWrite r xs).held = t.held := by cases r <;> rfl
@[simp] theorem put_held (t : Team) (w : RegWrite) : (t.put w).held = t.held :=
  put_keeps (·.held) (fun _ _ _ => rfl) (fun _ _ _ => rfl) (fun _ _ _ => rfl) (fun _ _ => rfl) sysWrite_held t w
@[simp] theorem landed_held (t : Team) (n : Nat) : (t.landed n).held = t.held := landed_keeps (·.held) put_held (fun _ _ _ => rfl) t n
@[simp] theorem sysWrite_draw (t : Team) (r : SysReg) (xs : List (Nat × Word)) : (t.sysWrite r xs).draw = t.draw := by cases r <;> rfl
@[simp] theorem put_draw (t : Team) (w : RegWrite) : (t.put w).draw = t.draw :=
  put_keeps (·.draw) (fun _ _ _ => rfl) (fun _ _ _ => rfl) (fun _ _ _ => rfl) (fun _ _ => rfl) sysWrite_draw t w
@[simp] theorem landed_draw (t : Team) (n : Nat) : (t.landed n).draw = t.draw := landed_keeps (·.draw) put_draw (fun _ _ _ => rfl) t n
@[simp] theorem sysWrite_recs (t : Team) (r : SysReg) (xs : List (Nat × Word)) : (t.sysWrite r xs).recs = t.recs := by cases r <;> rfl
@[simp] theorem put_recs (t : Team) (w : RegWrite) : (t.put w).recs = t.recs :=
  put_keeps (·.recs) (fun _ _ _ => rfl) (fun _ _ _ => rfl) (fun _ _ _ => rfl) (fun _ _ => rfl) sysWrite_recs t w
@[simp] theorem landed_recs (t : Team) (n : Nat) : (t.landed n).recs = t.recs := landed_keeps (·.recs) put_recs (fun _ _ _ => rfl) t n
@[simp] theorem sysWrite_hmode (t : Team) (r : SysReg) (xs : List (Nat × Word)) : (t.sysWrite r xs).hmode = t.hmode := by cases r <;> rfl
@[simp] theorem put_hmode (t : Team) (w : RegWrite) : (t.put w).hmode = t.hmode :=
  put_keeps (·.hmode) (fun _ _ _ => rfl) (fun _ _ _ => rfl) (fun _ _ _ => rfl) (fun _ _ => rfl) sysWrite_hmode t w
@[simp] theorem landed_hmode (t : Team) (n : Nat) : (t.landed n).hmode = t.hmode := landed_keeps (·.hmode) put_hmode (fun _ _ _ => rfl) t n
@[simp] theorem sysWrite_base (t : Team) (r : SysReg) (xs : List (Nat × Word)) : (t.sysWrite r xs).base = t.base := by cases r <;> rfl
@[simp] theorem put_base (t : Team) (w : RegWrite) : (t.put w).base = t.base :=
  put_keeps (·.base) (fun _ _ _ => rfl) (fun _ _ _ => rfl) (fun _ _ _ => rfl) (fun _ _ => rfl) sysWrite_base t w
@[simp] theorem landed_base (t : Team) (n : Nat) : (t.landed n).base = t.base := landed_keeps (·.base) put_base (fun _ _ _ => rfl) t n
@[simp] theorem sysWrite_window (t : Team) (r : SysReg) (xs : List (Nat × Word)) : (t.sysWrite r xs).window = t.window := by cases r <;> rfl
@[simp] theorem put_window (t : Team) (w : RegWrite) : (t.put w).window = t.window :=
  put_keeps (·.window) (fun _ _ _ => rfl) (fun _ _ _ => rfl) (fun _ _ _ => rfl) (fun _ _ => rfl) sysWrite_window t w
@[simp] theorem landed_window (t : Team) (n : Nat) : (t.landed n).window = t.window := landed_keeps (·.window) put_window (fun _ _ _ => rfl) t n
@[simp] theorem sysWrite_wait (t : Team) (r : SysReg) (xs : List (Nat × Word)) : (t.sysWrite r xs).wait = t.wait := by cases r <;> rfl
@[simp] theorem put_wait (t : Team) (w : RegWrite) : (t.put w).wait = t.wait :=
  put_keeps (·.wait) (fun _ _ _ => rfl) (fun _ _ _ => rfl) (fun _ _ _ => rfl) (fun _ _ => rfl) sysWrite_wait t w
@[simp] theorem landed_wait (t : Team) (n : Nat) : (t.landed n).wait = t.wait := landed_keeps (·.wait) put_wait (fun _ _ _ => rfl) t n
@[simp] theorem sysWrite_readyAt (t : Team) (r : SysReg) (xs : List (Nat × Word)) : (t.sysWrite r xs).readyAt = t.readyAt := by cases r <;> rfl
@[simp] theorem put_readyAt (t : Team) (w : RegWrite) : (t.put w).readyAt = t.readyAt :=
  put_keeps (·.readyAt) (fun _ _ _ => rfl) (fun _ _ _ => rfl) (fun _ _ _ => rfl) (fun _ _ => rfl) sysWrite_readyAt t w
@[simp] theorem landed_readyAt (t : Team) (n : Nat) : (t.landed n).readyAt = t.readyAt := landed_keeps (·.readyAt) put_readyAt (fun _ _ _ => rfl) t n
@[simp] theorem sysWrite_named (t : Team) (r : SysReg) (xs : List (Nat × Word)) : (t.sysWrite r xs).named = t.named := by cases r <;> rfl
@[simp] theorem put_named (t : Team) (w : RegWrite) : (t.put w).named = t.named :=
  put_keeps (·.named) (fun _ _ _ => rfl) (fun _ _ _ => rfl) (fun _ _ _ => rfl) (fun _ _ => rfl) sysWrite_named t w
@[simp] theorem landed_named (t : Team) (n : Nat) : (t.landed n).named = t.named := landed_keeps (·.named) put_named (fun _ _ _ => rfl) t n

theorem landed_of_none {t : Team} (h : t.fix = []) (h' : t.spad = []) (n : Nat) : t.landed n = t := by
  cases t; simp only at h h'; subst h; subst h'; rfl

@[simp] theorem settle_now (s : State) : s.settle.now = s.now := by
  simp only [State.now, State.settle, State.core, landed_core]

/-! ### The checks of an issue -/

@[simp] theorem settle_window (s : State) : s.settle.cur.window = s.cur.window := landed_window _ _

/-- Outside a window the scoreboard sees the team as it is (R93). -/
theorem scored_of_none {t : Team} (h : t.window = none) : t.scored = t := by simp only [Team.scored, h]

/-- Outside a window only the results scheduled are on their way (R145). -/
theorem fixAll_of_none {t : Team} (h : t.window = none) : t.fixAll = t.fix := by simp only [Team.fixAll, h]

/-- An instruction that passes the checks acts, on the state in which what is due has landed. -/
theorem issueIf_of {s : State} {i : Instr} {g : Guard} (h : Issues s i g) {bad : State → Bool} (hb : bad s.settle = false)
    (act : State → State) : s.issueIf i g bad act = act s.settle := by
  obtain ⟨hw, h1, h2, h3, h4, h5, h6, h7⟩ := h
  have hw' := (settle_window s).trans hw
  simp only [State.issueIf, scored_of_none hw', hw', h1, h2, h3, h4, h5, h6, h7, hb, Bool.or_self, Bool.false_eq_true, if_false]

theorem issue_of {s : State} {i : Instr} {g : Guard} (h : Issues s i g) (act : State → State) : s.issue i g act = act s.settle :=
  issueIf_of h rfl act

/-- An instruction that goes on in a window acts, its effects held back by what it does (R144, R145). -/
theorem issueIf_in {s : State} {w : Window} {i : Instr} {g : Guard} (h : IssuesIn s w i g) {bad : State → Bool}
    (hb : bad s.settle = false) (act : State → State) : s.issueIf i g bad act = act s.settle := by
  obtain ⟨hw, hr, h1, h2, h3, h4, h5⟩ := h
  have hw' := (settle_window s).trans hw
  simp only [State.issueIf, hw', hr, Option.isSome_none, h1, h2, h3, h4, h5, hb, Bool.or_self, Bool.false_eq_true, if_false]

/-- A window ends before an instruction that is not for it, and nothing else happens (R144). -/
theorem issueIf_ends {s : State} {w : Window} (hw : s.cur.window = some w) (hr : w.redo = none) {i : Instr}
    (he : s.settle.cur.ends w i = true) (g : Guard) (bad : State → Bool) (act : State → State) :
    s.issueIf i g bad act = s.settle.closeWindow w := by
  have hw' := (settle_window s).trans hw
  simp only [State.issueIf, hw', hr, Option.isSome_none, he, Bool.false_eq_true, if_true, if_false]

/-- Everything that an instruction does at its issue: it reports a copy fault, is killed or trapped, kills its block by an
error it reads, ends a window, takes a record that waits, or acts. -/
theorem issueIf_cases (s : State) (i : Instr) (g : Guard) (bad : State → Bool) (act : State → State) :
    (s.cur.window = none ∧ s.settle.cur.reportsFirst = true ∧ s.issueIf i g bad act = s.settle.reportRetired i)
      ∨ (s.cur.window = none ∧ s.settle.cur.hmode = true ∧ handlerForbids i = true
          ∧ s.issueIf i g bad act = s.settle.killHandler i)
      ∨ ((badOperands s.settle.cur i || illegalUse s.settle.cur s.settle.now i || bad s.settle) = true
          ∧ s.issueIf i g bad act = s.settle.trapAll i 0x03 (encodeWord0 i))
      ∨ (∃ d, scoreboardFault s.settle.cur.scored i g s.settle.now = some d
          ∧ s.issueIf i g bad act = s.settle.trapAll i 0x04 d)
      ∨ (s.cur.window = none ∧ badRead s.settle.cur i g = true ∧ s.issueIf i g bad act = s.settle.killWord)
      ∨ (∃ w, s.cur.window = some w ∧ w.redo = none ∧ s.issueIf i g bad act = s.settle.closeWindow w)
      ∨ (s.cur.window = none ∧ takingPoint i = true ∧ s.settle.cur.hmode = false
          ∧ s.issueIf i g bad act = s.settle.takeTrap)
      ∨ ((s.cur.window = none → Issues s i g) ∧ s.issueIf i g bad act = act s.settle) := by
  have hs := settle_window s
  cases hw : s.cur.window with
  | none =>
    rw [hw] at hs
    simp only [State.issueIf, hs, scored_of_none hs]
    by_cases h1 : s.settle.cur.reportsFirst = true
    · exact .inl ⟨trivial, h1, if_pos h1⟩
    by_cases h2 : (s.settle.cur.hmode && handlerForbids i) = true
    · have h2' := Bool.and_eq_true_iff.1 h2
      exact .inr (.inl ⟨trivial, h2'.1, h2'.2, by rw [if_neg h1, if_pos h2]⟩)
    by_cases h3 : (badOperands s.settle.cur i || illegalUse s.settle.cur s.settle.now i || bad s.settle) = true
    · exact .inr (.inr (.inl ⟨h3, by rw [if_neg h1, if_neg h2, if_pos h3]⟩))
    cases h4 : scoreboardFault s.settle.cur i g s.settle.now with
    | some d => exact .inr (.inr (.inr (.inl ⟨d, rfl, by rw [if_neg h1, if_neg h2, if_neg h3]⟩)))
    | none =>
      by_cases h5 : badRead s.settle.cur i g = true
      · exact .inr (.inr (.inr (.inr (.inl ⟨trivial, h5, by simp only [if_neg h1, if_neg h2, if_neg h3, h5, if_true]⟩))))
      by_cases h6 : (takingPoint i && !s.settle.cur.hmode && !s.settle.cur.recs.isEmpty) = true
      · have h6' := h6
        simp only [Bool.and_eq_true, Bool.not_eq_true'] at h6'
        exact .inr (.inr (.inr (.inr (.inr (.inr (.inl ⟨trivial, h6'.1.1, h6'.1.2, by
          simp only [if_neg h1, if_neg h2, if_neg h3, if_neg h5, h6, if_true]⟩))))))
      · refine .inr (.inr (.inr (.inr (.inr (.inr (.inr ⟨fun _ => ?_, by
          simp only [if_neg h1, if_neg h2, if_neg h3, if_neg h5, if_neg h6]⟩))))))
        simp only [Bool.not_eq_true, Bool.or_eq_false_iff] at h1 h2 h3 h5 h6
        exact ⟨hw, h1, h2, h3.1.1, h3.1.2, h4, h5, h6⟩
  | some w =>
    rw [hw] at hs
    simp only [State.issueIf, hs]
    cases hr : w.redo with
    | some r => simp
    | none =>
      simp only [Option.isSome_none, Bool.false_eq_true, if_false]
      by_cases h1 : s.settle.cur.ends w i = true
      · simp only [h1, if_true]
        exact .inr (.inr (.inr (.inr (.inr (.inl ⟨w, rfl, hr, rfl⟩)))))
      rw [if_neg h1]
      by_cases h3 : (badOperands s.settle.cur i || illegalUse s.settle.cur s.settle.now i || bad s.settle) = true
      · exact .inr (.inr (.inl ⟨h3, if_pos h3⟩))
      rw [if_neg h3]
      cases h4 : scoreboardFault s.settle.cur.scored i g s.settle.now with
      | some d => exact .inr (.inr (.inr (.inl ⟨d, rfl, rfl⟩)))
      | none =>
        by_cases h5 : badRead s.settle.cur i g = true
        · simp only [h5, if_true]
          exact .inr (.inr (.inr (.inr (.inr (.inl ⟨w, rfl, hr, rfl⟩)))))
        · simp only [h5]
          exact .inr (.inr (.inr (.inr (.inr (.inr (.inr ⟨fun h => (Option.some_ne_none w h).elim, rfl⟩))))))

/-! ### Traps and kills -/

/-- Without a trapped lane the instruction acts. -/
@[simp] theorem withHits_nil (s : State) (i : Instr) (act : State → State) : s.withHits i [] act = act s := rfl

/-- In the handler a trapped lane kills the block (R211). -/
theorem withHits_handler {s : State} (i : Instr) (h : Hit) (hs : List Hit) (act : State → State) (hm : s.cur.hmode = true) :
    s.withHits i (h :: hs) act = s.killTrap h.cause s.cur.at_.pc h.datum := by
  simp only [State.withHits, hm, if_true]

/-- Records taken with a handler: it is entered with the oldest, the rest of the path waiting (R207). -/
theorem takeTrap_enters {s : State} {r : TrapRec} {rest : List TrapRec} (h : s.cur.recs = r :: rest) (ht : s.cur.d.traph ≠ 0) :
    s.takeTrap = { s with cur := ({ s.cur with stack := pushPath s.cur.stack s.cur.at_ s.cur.mask } : Team).enter r
                          blk := { s.blk with issued := true }
                          sel := false } := by
  simp only [State.takeTrap, h, ht, if_false]

/-- Records taken without one: the block is killed with the oldest record's cause (R206). -/
theorem takeTrap_kills {s : State} {r : TrapRec} {rest : List TrapRec} (h : s.cur.recs = r :: rest) (ht : s.cur.d.traph = 0) :
    s.takeTrap = s.killTrap r.cause r.start.pc r.datum := by
  simp only [State.takeTrap, h, ht, if_true]

@[simp] theorem pushPath_none (st : List StackEntry) (p : CodePt) : pushPath st p 0 = st := if_pos rfl
theorem pushPath_some (st : List StackEntry) (p : CodePt) {m : LaneMask} (h : m ≠ 0) : pushPath st p m = ⟨false, p, m⟩ :: st :=
  if_neg h

@[simp] theorem stopBlock_mem (s : State) (bid : Nat) : (s.stopBlock bid).mem = s.mem := rfl
@[simp] theorem stopBlock_blk (s : State) (bid : Nat) : (s.stopBlock bid).blk = s.blk := rfl
@[simp] theorem stopBlock_blocks (s : State) (bid : Nat) : (s.stopBlock bid).blocks = s.blocks := rfl
@[simp] theorem onBlock_mem (s : State) (bid : Nat) (f : Block → Block) : (s.onBlock bid f).mem = s.mem := rfl

/-- A kill of the current block, which nothing has killed yet, leaves its record to come (R219). -/
theorem killWith_current {s : State} (k : KillInfo) (hl : s.blk.live = true) (hk : s.blk.kill = none) :
    (s.killWith s.blk.bid k).blk.kill = some k ∧ (s.killWith s.blk.bid k).mem = s.mem := by
  have h : s.block s.blk.bid = some s.blk := by simp [State.block, State.allBlocks, hl]
  have hn : s.killWith s.blk.bid k = (s.onBlock s.blk.bid fun b => { b with kill := some k, killAt := s.clock }).stopBlock s.blk.bid := by
    simp only [State.killWith, h, hk, Option.isSome_none, Bool.false_eq_true, if_false]
  rw [hn]
  exact ⟨by simp [State.onBlock, State.mapBlocks, hl], rfl⟩

/-- A kill of a block that is killed already, or is none, changes nothing. -/
theorem killWith_again {s : State} {bid : Nat} (k : KillInfo) (h : ∀ b, s.block bid = some b → b.kill.isSome = true) :
    s.killWith bid k = s := by
  unfold State.killWith
  split
  · rfl
  · rename_i b hb
    simp only [h b hb, if_true]

/-! ### Which team acts -/

theorem focusBlock_current {s : State} {bid : Nat} (hl : s.blk.live = true) (hb : s.blk.bid = bid) : s.focusBlock bid = s := by
  simp [State.focusBlock, hl, hb]

/-- An event at the current team finds it, with its block, as they are. -/
theorem focus_current {s : State} (ht : s.cur.st ≠ .vacant) (hl : s.blk.live = true) (hb : s.blk.bid = s.cur.bid) :
    s.focus s.cur.uid = s := by
  simp [State.focus, ht, focusBlock_current hl hb]

/-! ### The runners over lanes -/

/-- A fixed-latency instruction's results are scheduled, pass by pass (R103). -/
theorem receive_fixed {i : Instr} (h : tagOf i = none) (t : Team) (ps : List WinPass) :
    t.receive i ps = ps.foldl (fun (t : Team) p => t.schedule p.due p.writes) t := by simp only [Team.receive, h]

/-- A tagged instruction's tag is set, and all its results wait for it (R92). -/
theorem receive_tagged {i : Instr} {n : Nat} (h : tagOf i = some n) (t : Team) (ps : List WinPass) :
    t.receive i ps = { t.allocate i with tagged := (t.allocate i).tagged ++ [⟨n, ps.flatMap WinPass.writes⟩] } := by
  simp only [Team.receive, h]

/-- Outside a window and without a trapped lane, the results are received and the instruction retires (R102, R103). -/
theorem deliver_of {s : State} (i : Instr) (lat : Nat) (counts : Bool) {rs : List (Nat × List (Nat × LaneRes))}
    (hw : s.cur.window = none) (hh : passHits rs = []) :
    s.deliver i lat counts rs =
      State.retire
        { s with cur := s.cur.receive i (rs.map fun r => ⟨0, s.now + r.1 + lat, tagOf i, counts, r.2⟩) } i rs.length := by
  simp only [State.deliver, hw, hh, withHits_nil]

/-- In a window they are held in its shadow, and the lanes with a trap go no further in it (R145). -/
theorem deliver_in {s : State} {w : Window} (i : Instr) (lat : Nat) (counts : Bool) (rs : List (Nat × List (Nat × LaneRes)))
    (hw : s.cur.window = some w) :
    s.deliver i lat counts rs =
      s.shadowed { w with passes := w.passes ++ rs.map fun r => ⟨w.item, s.now + r.1 + lat, tagOf i, counts, r.2⟩ } i
        rs.length (hitMask (passHits rs)) := by
  simp only [State.deliver, hw]

/-- A fixed-latency instruction over its lanes, without a trapped lane (R102, R103). -/
theorem lanewise_of {s : State} {i : Instr} {g : Guard} (lat : Nat) (f : Team → Nat → LaneRes) (h : Issues s i g)
    (hh : passHits (runPasses s.settle.cur s.settle.now i g f) = []) :
    s.lanewise i g lat f =
      let rs := runPasses s.settle.cur s.settle.now i g f
      State.retire
        { s.settle with
          cur := s.settle.cur.receive i (rs.map fun r => ⟨0, s.settle.now + r.1 + lat, tagOf i, false, r.2⟩) } i rs.length := by
  simp only [State.lanewise, issue_of h]
  exact deliver_of i lat false ((settle_window s).trans h.noWindow) hh

/-- The uniform form: one result, of one pass (R101, R116). -/
theorem uniform_of {s : State} {i : Instr} (lat : Nat) (f : Team → List RegWrite) (h : Issues s i .pt) :
    s.uniform i lat f =
      State.retire { s.settle with
        cur := s.settle.cur.schedule (s.settle.now + lat) (f (s.settle.cur.view s.settle.now)) } i 1 := by
  simp only [State.uniform, issue_of h]

/-- A tagged instruction of the core, without a trapped lane: its tag is set and its results wait (R92). -/
theorem taggedRun_of {s : State} {i : Instr} {g : Guard} (f : Team → Nat → LaneRes) (h : Issues s i g)
    (hh : passHits (runPasses s.settle.cur s.settle.now i g f) = []) :
    s.taggedRun i g f =
      let rs := runPasses s.settle.cur s.settle.now i g f
      State.retire
        { s.settle with
          cur := s.settle.cur.receive i (rs.map fun r => ⟨0, s.settle.now + r.1 + 0, tagOf i, false, r.2⟩) } i rs.length := by
  simp only [State.taggedRun, issue_of h]
  exact deliver_of i 0 false ((settle_window s).trans h.noWindow) hh

/-- What an instruction issued in a window changes of its team (R144, R145): nothing that its registers, its path or memory
show, but the lanes with a held trap. -/
theorem shadowed_cur (s : State) (w : Window) (i : Instr) (n : Nat) (lost : LaneMask) :
    (s.shadowed w i n lost).cur.v = s.cur.v ∧ (s.shadowed w i n lost).cur.p = s.cur.p ∧ (s.shadowed w i n lost).cur.s = s.cur.s
      ∧ (s.shadowed w i n lost).cur.fix = s.cur.fix ∧ (s.shadowed w i n lost).cur.recs = s.cur.recs
      ∧ (s.shadowed w i n lost).cur.mask = s.cur.mask &&& ~~~ lost ∧ (s.shadowed w i n lost).mem = s.mem := by
  cases hr : w.redo with
  | some r => simp [State.shadowed, State.advance, hr]
  | none =>
    cases ht : tagOf i <;> simp [State.shadowed, State.advance, Team.allocate, hr, ht]

@[simp] theorem schedule_v (t : Team) (n : Nat) (ws : List RegWrite) : (t.schedule n ws).v = t.v := rfl
@[simp] theorem schedule_s (t : Team) (n : Nat) (ws : List RegWrite) : (t.schedule n ws).s = t.s := rfl
@[simp] theorem schedule_p (t : Team) (n : Nat) (ws : List RegWrite) : (t.schedule n ws).p = t.p := rfl

/-- The newest of a register's results is on its way. -/
theorem mem_addFix (fx : List FixWrite) (e : FixWrite) : e ∈ addFix fx e := by simp [addFix]

end Sys2Proof.Machine
end

