-- ==== Sys2Proof/Laws/PerInstr.lean ====
section
/-! SUPPORT. What the words of each instruction look like, one lemma for each constructor: a well-formed instruction
has one word, or two where bit L of its first is set (R95, R97, R98); an event of another agent has no word and is not well-formed. -/

namespace Sys2Proof.Laws.Encoding

/-- The number of words that bit L of word 0 gives (R95, R97). -/
def wordsOf (w0 : Word) : Nat := if w0.getLsbD 25 then 2 else 1

/-- The length of the encoding agrees with bit L of its first word; what has no word is not well-formed. -/
def Statement (i : Instr) : Prop :=
  (wellFormed i = true → (encode i).length = wordsOf (encodeWord0 i)) ∧ (encode i = [] → wellFormed i = false)

theorem long_L (f : Fields) (h : f.l = true) : f.word0.getLsbD 25 = true := by
  unfold Fields.word0; simp only [BitVec.getLsbD_append]; simp [h]
theorem short_L (f : Fields) (h : f.l = false) : f.word0.getLsbD 25 = false := by
  unfold Fields.word0; simp only [BitVec.getLsbD_append]; simp [h]
theorem imm_L (op : BitVec 6) (y : BitVec 3) (d a : Reg) (g : Guard) (k : Bool) : (immWord0 op y d a g k).getLsbD 25 = true := by
  unfold immWord0; simp only [BitVec.getLsbD_append]; simp

/-- Two words whose first has L set. -/
theorem two (i : Instr) (f : Fields) (w : Word) (hl : f.l = true) (h : encode i = [f.word0, w]) : Statement i := by
  have hb := long_L f hl
  simp only [Statement, wordsOf, encodeWord0, h, List.headD_cons, hb]; simp
/-- One word with L clear. -/
theorem one (i : Instr) (f : Fields) (hl : f.l = false) (h : encode i = [f.word0]) : Statement i := by
  have hb := short_L f hl
  simp only [Statement, wordsOf, encodeWord0, h, List.headD_cons, hb]; simp
/-- The immediate form. -/
theorem immForm (i : Instr) (op : BitVec 6) (y : BitVec 3) (d a : Reg) (g : Guard) (k : Bool) (w : Word)
    (h : encode i = [immWord0 op y d a g k, w]) : Statement i := by
  have hb := imm_L op y d a g k
  simp only [Statement, wordsOf, encodeWord0, h, List.headD_cons, hb]; simp
/-- No instruction. -/
theorem none (i : Instr) (h : wellFormed i = false) : Statement i := by simp [Statement, h]

theorem nopShort (dly : BitVec 3) : Statement (.nopShort dly) := one _ _ rfl rfl
theorem nopLong (dly : BitVec 3) (g : Guard) : Statement (.nopLong dly g) := two _ _ _ rfl rfl
theorem iaddShort (dly : BitVec 3) (o : Ops) : Statement (.iaddShort dly o) := one _ _ rfl rfl
theorem iaddLong (dly : BitVec 3) (g : Guard) (o : Ops) (mode : AddMode) (u : Bool) : Statement (.iaddLong dly g o mode u) := two _ _ _ rfl rfl
theorem isubShort (dly : BitVec 3) (o : Ops) : Statement (.isubShort dly o) := one _ _ rfl rfl
theorem isubLong (dly : BitVec 3) (g : Guard) (o : Ops) (mode : AddMode) (u : Bool) : Statement (.isubLong dly g o mode u) := two _ _ _ rfl rfl
theorem imulShort (dly : BitVec 3) (o : Ops) : Statement (.imulShort dly o) := one _ _ rfl rfl
theorem imulLong (dly : BitVec 3) (g : Guard) (o : Ops) (u : Bool) : Statement (.imulLong dly g o u) := two _ _ _ rfl rfl
theorem imad (dly : BitVec 3) (g : Guard) (o : Ops) (c : Reg) (u : Bool) : Statement (.imad dly g o c u) := two _ _ _ rfl rfl
theorem imulh (dly : BitVec 3) (g : Guard) (o : Ops) (uns : Bool) (u : Bool) : Statement (.imulh dly g o uns u) := two _ _ _ rfl rfl
theorem iminShort (dly : BitVec 3) (o : Ops) : Statement (.iminShort dly o) := one _ _ rfl rfl
theorem iminLong (dly : BitVec 3) (g : Guard) (o : Ops) (uns : Bool) (u : Bool) : Statement (.iminLong dly g o uns u) := two _ _ _ rfl rfl
theorem imaxShort (dly : BitVec 3) (o : Ops) : Statement (.imaxShort dly o) := one _ _ rfl rfl
theorem imaxLong (dly : BitVec 3) (g : Guard) (o : Ops) (uns : Bool) (u : Bool) : Statement (.imaxLong dly g o uns u) := two _ _ _ rfl rfl
theorem andShort (dly : BitVec 3) (o : Ops) : Statement (.andShort dly o) := one _ _ rfl rfl
theorem andLong (dly : BitVec 3) (g : Guard) (o : Ops) (u : Bool) : Statement (.andLong dly g o u) := two _ _ _ rfl rfl
theorem orShort (dly : BitVec 3) (o : Ops) : Statement (.orShort dly o) := one _ _ rfl rfl
theorem orLong (dly : BitVec 3) (g : Guard) (o : Ops) (u : Bool) : Statement (.orLong dly g o u) := two _ _ _ rfl rfl
theorem xorShort (dly : BitVec 3) (o : Ops) : Statement (.xorShort dly o) := one _ _ rfl rfl
theorem xorLong (dly : BitVec 3) (g : Guard) (o : Ops) (u : Bool) : Statement (.xorLong dly g o u) := two _ _ _ rfl rfl
theorem shlShort (dly : BitVec 3) (o : Ops) : Statement (.shlShort dly o) := one _ _ rfl rfl
theorem shlLong (dly : BitVec 3) (g : Guard) (o : Ops) (u : Bool) : Statement (.shlLong dly g o u) := two _ _ _ rfl rfl
theorem shrShort (dly : BitVec 3) (o : Ops) : Statement (.shrShort dly o) := one _ _ rfl rfl
theorem shrLong (dly : BitVec 3) (g : Guard) (o : Ops) (u : Bool) : Statement (.shrLong dly g o u) := two _ _ _ rfl rfl
theorem sarShort (dly : BitVec 3) (o : Ops) : Statement (.sarShort dly o) := one _ _ rfl rfl
theorem sarLong (dly : BitVec 3) (g : Guard) (o : Ops) (u : Bool) : Statement (.sarLong dly g o u) := two _ _ _ rfl rfl
theorem popc (dly : BitVec 3) (g : Guard) (o : OpsDA) (u : Bool) : Statement (.popc dly g o u) := two _ _ _ rfl rfl
theorem clz (dly : BitVec 3) (g : Guard) (o : OpsDA) (u : Bool) : Statement (.clz dly g o u) := two _ _ _ rfl rfl
theorem brev (dly : BitVec 3) (g : Guard) (o : OpsDA) (u : Bool) : Statement (.brev dly g o u) := two _ _ _ rfl rfl
theorem bfx (dly : BitVec 3) (g : Guard) (o : Ops) (sgn : Bool) (u : Bool) : Statement (.bfx dly g o sgn u) := two _ _ _ rfl rfl
theorem bfi (dly : BitVec 3) (g : Guard) (o : Ops) (c : Reg) (u : Bool) : Statement (.bfi dly g o c u) := two _ _ _ rfl rfl
theorem rot (dly : BitVec 3) (g : Guard) (o : Ops) (u : Bool) : Statement (.rot dly g o u) := two _ _ _ rfl rfl
theorem notB (dly : BitVec 3) (g : Guard) (o : OpsDA) (u : Bool) : Statement (.notB dly g o u) := two _ _ _ rfl rfl
theorem iabs (dly : BitVec 3) (g : Guard) (o : OpsDA) (u : Bool) : Statement (.iabs dly g o u) := two _ _ _ rfl rfl
theorem ineg (dly : BitVec 3) (g : Guard) (o : OpsDA) (u : Bool) : Statement (.ineg dly g o u) := two _ _ _ rfl rfl
theorem icmp (dly : BitVec 3) (g : Guard) (o : Ops) (cc : ICond) : Statement (.icmp dly g o cc) := two _ _ _ rfl rfl
theorem movShort (dly : BitVec 3) (d : Reg) (b : Reg) (bk : Bool) : Statement (.movShort dly d b bk) := one _ _ rfl rfl
theorem movLong (dly : BitVec 3) (g : Guard) (d : Reg) (b : Reg) (bk : Bool) (u : Bool) : Statement (.movLong dly g d b bk u) := two _ _ _ rfl rfl
theorem li (dly : BitVec 3) (g : Guard) (d : Reg) (u : Bool) (imm : Word) : Statement (.li dly g d u imm) := immForm _ _ _ _ _ _ _ _ rfl
theorem iaddi (dly : BitVec 3) (g : Guard) (o : OpsDA) (u : Bool) (imm : Word) : Statement (.iaddi dly g o u imm) := immForm _ _ _ _ _ _ _ _ rfl
theorem sel (dly : BitVec 3) (g : Guard) (o : Ops) (cp : BitVec 3) (cneg : Bool) : Statement (.sel dly g o cp cneg) := two _ _ _ rfl rfl
theorem lea (dly : BitVec 3) (g : Guard) (o : Ops) (sh : BitVec 3) (sx : Bool) (u : Bool) : Statement (.lea dly g o sh sx u) := two _ _ _ rfl rfl
theorem iaddW (dly : BitVec 3) (g : Guard) (o : Ops) (u : Bool) : Statement (.iaddW dly g o u) := two _ _ _ rfl rfl
theorem isubW (dly : BitVec 3) (g : Guard) (o : Ops) (u : Bool) : Statement (.isubW dly g o u) := two _ _ _ rfl rfl
theorem shlW (dly : BitVec 3) (g : Guard) (o : Ops) (u : Bool) : Statement (.shlW dly g o u) := two _ _ _ rfl rfl
theorem shrW (dly : BitVec 3) (g : Guard) (o : Ops) (u : Bool) : Statement (.shrW dly g o u) := two _ _ _ rfl rfl
theorem imulWl (dly : BitVec 3) (g : Guard) (o : Ops) (uns : Bool) (u : Bool) : Statement (.imulWl dly g o uns u) := two _ _ _ rfl rfl
theorem pand (dly : BitVec 3) (g : Guard) (d a b : Reg) (na nb : Bool) : Statement (.pand dly g d a b na nb) := two _ _ _ rfl rfl
theorem por (dly : BitVec 3) (g : Guard) (d a b : Reg) (na nb : Bool) : Statement (.por dly g d a b na nb) := two _ _ _ rfl rfl
theorem pxor (dly : BitVec 3) (g : Guard) (d a b : Reg) (na nb : Bool) : Statement (.pxor dly g d a b na nb) := two _ _ _ rfl rfl
theorem pnot (dly : BitVec 3) (g : Guard) (d a : Reg) (na : Bool) : Statement (.pnot dly g d a na) := two _ _ _ rfl rfl
theorem pget (dly : BitVec 3) (g : Guard) (d : Reg) : Statement (.pget dly g d) := two _ _ _ rfl rfl
theorem pset (dly : BitVec 3) (g : Guard) (a : Reg) : Statement (.pset dly g a) := two _ _ _ rfl rfl
theorem icvt (dly : BitVec 3) (g : Guard) (o : OpsDA) (src dst : IntTy) (sat : Bool) (u : Bool) : Statement (.icvt dly g o src dst sat u) := two _ _ _ rfl rfl
theorem rnd (dly : BitVec 3) (g : Guard) (d : Reg) (key : Option Reg) : Statement (.rnd dly g d key) := by cases key <;> exact two _ _ _ rfl rfl
theorem faddShort (dly : BitVec 3) (o : Ops) : Statement (.faddShort dly o) := one _ _ rfl rfl
theorem faddLong (dly : BitVec 3) (g : Guard) (o : Ops) (rm : RM) (ftz : Bool) : Statement (.faddLong dly g o rm ftz) := two _ _ _ rfl rfl
theorem fsubShort (dly : BitVec 3) (o : Ops) : Statement (.fsubShort dly o) := one _ _ rfl rfl
theorem fsubLong (dly : BitVec 3) (g : Guard) (o : Ops) (rm : RM) (ftz : Bool) : Statement (.fsubLong dly g o rm ftz) := two _ _ _ rfl rfl
theorem fmulShort (dly : BitVec 3) (o : Ops) : Statement (.fmulShort dly o) := one _ _ rfl rfl
theorem fmulLong (dly : BitVec 3) (g : Guard) (o : Ops) (rm : RM) (ftz : Bool) : Statement (.fmulLong dly g o rm ftz) := two _ _ _ rfl rfl
theorem ffma (dly : BitVec 3) (g : Guard) (o : Ops) (c : Reg) (rm : RM) (ftz : Bool) : Statement (.ffma dly g o c rm ftz) := two _ _ _ rfl rfl
theorem fmin (dly : BitVec 3) (g : Guard) (o : Ops) (ftz : Bool) : Statement (.fmin dly g o ftz) := two _ _ _ rfl rfl
theorem fmax (dly : BitVec 3) (g : Guard) (o : Ops) (ftz : Bool) : Statement (.fmax dly g o ftz) := two _ _ _ rfl rfl
theorem fcmp (dly : BitVec 3) (g : Guard) (o : Ops) (cc : FCond) : Statement (.fcmp dly g o cc) := two _ _ _ rfl rfl
theorem fclass (dly : BitVec 3) (g : Guard) (o : OpsDA) (set : BitVec 10) : Statement (.fclass dly g o set) := two _ _ _ rfl rfl
theorem frnd (dly : BitVec 3) (g : Guard) (o : OpsDA) (rm : RM) (ftz : Bool) : Statement (.frnd dly g o rm ftz) := two _ _ _ rfl rfl
theorem ffrac (dly : BitVec 3) (g : Guard) (o : OpsDA) (rm : RM) (ftz : Bool) : Statement (.ffrac dly g o rm ftz) := two _ _ _ rfl rfl
theorem frcp (dly : BitVec 3) (g : Guard) (tag : Tag) (o : OpsDA) (ftz : Bool) : Statement (.frcp dly g tag o ftz) := two _ _ _ rfl rfl
theorem frsq (dly : BitVec 3) (g : Guard) (tag : Tag) (o : OpsDA) (ftz : Bool) : Statement (.frsq dly g tag o ftz) := two _ _ _ rfl rfl
theorem fsqrt (dly : BitVec 3) (g : Guard) (tag : Tag) (o : OpsDA) (ftz : Bool) : Statement (.fsqrt dly g tag o ftz) := two _ _ _ rfl rfl
theorem fexp2 (dly : BitVec 3) (g : Guard) (tag : Tag) (o : OpsDA) (ftz : Bool) : Statement (.fexp2 dly g tag o ftz) := two _ _ _ rfl rfl
theorem flog2 (dly : BitVec 3) (g : Guard) (tag : Tag) (o : OpsDA) (ftz : Bool) : Statement (.flog2 dly g tag o ftz) := two _ _ _ rfl rfl
theorem fsin (dly : BitVec 3) (g : Guard) (tag : Tag) (o : OpsDA) (ftz : Bool) : Statement (.fsin dly g tag o ftz) := two _ _ _ rfl rfl
theorem fcos (dly : BitVec 3) (g : Guard) (tag : Tag) (o : OpsDA) (ftz : Bool) : Statement (.fcos dly g tag o ftz) := two _ _ _ rfl rfl
theorem dadd (dly : BitVec 3) (g : Guard) (o : Ops) (rm : RM) (ftz : Bool) : Statement (.dadd dly g o rm ftz) := two _ _ _ rfl rfl
theorem dmul (dly : BitVec 3) (g : Guard) (o : Ops) (rm : RM) (ftz : Bool) : Statement (.dmul dly g o rm ftz) := two _ _ _ rfl rfl
theorem dfma (dly : BitVec 3) (g : Guard) (o : Ops) (c : Reg) (rm : RM) (ftz : Bool) : Statement (.dfma dly g o c rm ftz) := two _ _ _ rfl rfl
theorem dmin (dly : BitVec 3) (g : Guard) (o : Ops) (ftz : Bool) : Statement (.dmin dly g o ftz) := two _ _ _ rfl rfl
theorem dmax (dly : BitVec 3) (g : Guard) (o : Ops) (ftz : Bool) : Statement (.dmax dly g o ftz) := two _ _ _ rfl rfl
theorem dcmp (dly : BitVec 3) (g : Guard) (o : Ops) (cc : FCond) (ftz : Bool) : Statement (.dcmp dly g o cc ftz) := two _ _ _ rfl rfl
theorem hadd2 (dly : BitVec 3) (g : Guard) (o : Ops) (bf : Bool) : Statement (.hadd2 dly g o bf) := two _ _ _ rfl rfl
theorem hmul2 (dly : BitVec 3) (g : Guard) (o : Ops) (bf : Bool) : Statement (.hmul2 dly g o bf) := two _ _ _ rfl rfl
theorem hfma2 (dly : BitVec 3) (g : Guard) (o : Ops) (c : Reg) (bf : Bool) : Statement (.hfma2 dly g o c bf) := two _ _ _ rfl rfl
theorem hmin2 (dly : BitVec 3) (g : Guard) (o : Ops) (bf : Bool) : Statement (.hmin2 dly g o bf) := two _ _ _ rfl rfl
theorem hmax2 (dly : BitVec 3) (g : Guard) (o : Ops) (bf : Bool) : Statement (.hmax2 dly g o bf) := two _ _ _ rfl rfl
theorem f2i (dly : BitVec 3) (g : Guard) (o : OpsDA) (rm : RM) (src : FTy) (dst : IntTy) : Statement (.f2i dly g o rm src dst) := two _ _ _ rfl rfl
theorem i2f (dly : BitVec 3) (g : Guard) (o : OpsDA) (rm : RM) (src : IntTy) (dst : FTy) : Statement (.i2f dly g o rm src dst) := two _ _ _ rfl rfl
theorem f2f (dly : BitVec 3) (g : Guard) (o : OpsDA) (rm : RM) (src dst : FTy) : Statement (.f2f dly g o rm src dst) := two _ _ _ rfl rfl
theorem pack (dly : BitVec 3) (g : Guard) (o : OpsDA) (c : Reg) (dst : FTy) (slot : BitVec 3) : Statement (.pack dly g o c dst slot) := two _ _ _ rfl rfl
theorem unpk (dly : BitVec 3) (g : Guard) (o : OpsDA) (src : FTy) (slot : BitVec 3) : Statement (.unpk dly g o src slot) := two _ _ _ rfl rfl
theorem dp2 (dly : BitVec 3) (g : Guard) (o : Ops) (c : Reg) (bf : Bool) : Statement (.dp2 dly g o c bf) := two _ _ _ rfl rfl
theorem dp4 (dly : BitVec 3) (g : Guard) (o : Ops) (c : Reg) (ty : Dp4Ty) : Statement (.dp4 dly g o c ty) := two _ _ _ rfl rfl
theorem dp8 (dly : BitVec 3) (g : Guard) (o : Ops) (c : Reg) (f4 : Bool) : Statement (.dp8 dly g o c f4) := two _ _ _ rfl rfl
theorem getsb (dly : BitVec 3) (g : Guard) (o : OpsDA) : Statement (.getsb dly g o) := two _ _ _ rfl rfl
theorem setsb (dly : BitVec 3) (g : Guard) (d : Reg) (b : Reg) (bk : Bool) : Statement (.setsb dly g d b bk) := two _ _ _ rfl rfl
theorem sbcmp (dly : BitVec 3) (g : Guard) (o : Ops) (cc : SCond) : Statement (.sbcmp dly g o cc) := two _ _ _ rfl rfl
theorem shfl (dly : BitVec 3) (g : Guard) (tag : Tag) (o : Ops) (m : ShflMode) : Statement (.shfl dly g tag o m) := two _ _ _ rfl rfl
theorem voteAll (dly : BitVec 3) (g : Guard) (tag : Tag) (o : OpsDA) : Statement (.voteAll dly g tag o) := two _ _ _ rfl rfl
theorem voteAny (dly : BitVec 3) (g : Guard) (tag : Tag) (o : OpsDA) : Statement (.voteAny dly g tag o) := two _ _ _ rfl rfl
theorem voteBallot (dly : BitVec 3) (g : Guard) (tag : Tag) (o : OpsDA) : Statement (.voteBallot dly g tag o) := two _ _ _ rfl rfl
theorem voteEq (dly : BitVec 3) (g : Guard) (tag : Tag) (o : OpsDA) : Statement (.voteEq dly g tag o) := two _ _ _ rfl rfl
theorem gred (dly : BitVec 3) (g : Guard) (tag : Tag) (o : OpsDA) (op : GredOp) (rm : RM) : Statement (.gred dly g tag o op rm) := two _ _ _ rfl rfl
theorem gscan (dly : BitVec 3) (g : Guard) (tag : Tag) (o : OpsDA) (op : GredOp) (excl : Bool) (rm : RM) : Statement (.gscan dly g tag o op excl rm) := two _ _ _ rfl rfl
theorem reorder (dly : BitVec 3) (a b : Reg) : Statement (.reorder dly a b) := two _ _ _ rfl rfl
theorem ld (dly : BitVec 3) (g : Guard) (tag : Tag) (o : OpsDA) (size : LdSize) (ord : MemOrd) (scope : Scope) (off : BitVec 10) : Statement (.ld dly g tag o size ord scope off) := two _ _ _ rfl rfl
theorem st (dly : BitVec 3) (g : Guard) (tag : Tag) (a b : Reg) (size : StSize) (ord : MemOrd) (scope : Scope) (off : BitVec 10) : Statement (.st dly g tag a b size ord scope off) := two _ _ _ rfl rfl
theorem lds (dly : BitVec 3) (g : Guard) (tag : Tag) (o : OpsDA) (size : LdSize) (off : BitVec 15) : Statement (.lds dly g tag o size off) := two _ _ _ rfl rfl
theorem sts (dly : BitVec 3) (g : Guard) (tag : Tag) (a b : Reg) (size : StSize) (off : BitVec 15) : Statement (.sts dly g tag a b size off) := two _ _ _ rfl rfl
theorem atom (dly : BitVec 3) (g : Guard) (tag : Tag) (d a b : Reg) (op : AOp) (w64 : Bool) (ord : MemOrd) (scope : Scope) (off : BitVec 10) : Statement (.atom dly g tag d a b op w64 ord scope off) := two _ _ _ rfl rfl
theorem cas (dly : BitVec 3) (g : Guard) (tag : Tag) (d a b c : Reg) (w64 : Bool) (fail : FailOrd) (ord : MemOrd) (scope : Scope) (off : BitVec 10) : Statement (.cas dly g tag d a b c w64 fail ord scope off) := two _ _ _ rfl rfl
theorem atoms (dly : BitVec 3) (g : Guard) (tag : Tag) (d a b : Reg) (op : Option AOp) (w64 : Bool) (ord : MemOrd) (off : BitVec 15) : Statement (.atoms dly g tag d a b op w64 ord off) := two _ _ _ rfl rfl
theorem fence (dly : BitVec 3) (ord : MemOrd) (scope : Scope) : Statement (.fence dly ord scope) := two _ _ _ rfl rfl
theorem mma (dly : BitVec 3) (d a b : Reg) (desc : Option (BitVec 6)) (pm1 : BitVec 3) (af bf : MFmt) (new : Bool) : Statement (.mma dly d a b desc pm1 af bf new) := two _ _ _ rfl rfl
theorem mmas (dly : BitVec 3) (d a b : Reg) (desc : Option (BitVec 6)) (pm1 : BitVec 3) (af bf : MFmt) (new : Bool) (n : SpN) (mreg : BitVec 6) : Statement (.mmas dly d a b desc pm1 af bf new n mreg) := two _ _ _ rfl rfl
theorem azero (dly : BitVec 3) (d : Reg) (int : Bool) : Statement (.azero dly d int) := two _ _ _ rfl rfl
theorem ald (dly : BitVec 3) (tag : Tag) (d a b : Reg) (int : Bool) : Statement (.ald dly tag d a b int) := two _ _ _ rfl rfl
theorem ast (dly : BitVec 3) (tag : Tag) (a b c : Reg) (ofmt : OFmt) (act : Act) (scale bias : Bool) : Statement (.ast dly tag a b c ofmt act scale bias) := two _ _ _ rfl rfl
theorem amov (dly : BitVec 3) (tag : Tag) (d c : Reg) : Statement (.amov dly tag d c) := two _ _ _ rfl rfl
theorem qtile (dly : BitVec 3) (tag : Tag) (a b c : Reg) (fmt : QFmt) (len : BlkLen) : Statement (.qtile dly tag a b c fmt len) := two _ _ _ rfl rfl
theorem copy (dly : BitVec 3) (a b c : Reg) (s2g : Bool) (rec : Option (BitVec 6)) : Statement (.copy dly a b c s2g rec) := by cases rec <;> exact two _ _ _ rfl rfl
theorem waitc (dly : BitVec 3) (cls : CCls) (n : BitVec 6) : Statement (.waitc dly cls n) := two _ _ _ rfl rfl
theorem yieldC (dly : BitVec 3) (cls : CCls) (n : BitVec 6) (off : BitVec 18) : Statement (.yieldC dly cls n off) := two _ _ _ rfl rfl
theorem batch (dly : BitVec 3) : Statement (.batch dly) := two _ _ _ rfl rfl
theorem mark (dly : BitVec 3) (n : BitVec 16) : Statement (.mark dly n) := two _ _ _ rfl rfl
theorem markW (dly : BitVec 3) (n : BitVec 16) : Statement (.markW dly n) := two _ _ _ rfl rfl
theorem send (dly : BitVec 3) (g : Guard) (a b : Reg) (h : BitVec 8) (w : BitVec 4) : Statement (.send dly g a b h w) := two _ _ _ rfl rfl
theorem bra (dly : BitVec 3) (g : Guard) (off : BitVec 18) : Statement (.bra dly g off) := two _ _ _ rfl rfl
theorem jmp (dly : BitVec 3) (a : Reg) : Statement (.jmp dly a) := two _ _ _ rfl rfl
theorem call (dly : BitVec 3) (d : Reg) (off : BitVec 18) : Statement (.call dly d off) := two _ _ _ rfl rfl
theorem ret (dly : BitVec 3) (a : Reg) : Statement (.ret dly a) := two _ _ _ rfl rfl
theorem mjoin (dly : BitVec 3) (off : BitVec 18) : Statement (.mjoin dly off) := two _ _ _ rfl rfl
theorem join (dly : BitVec 3) : Statement (.join dly) := two _ _ _ rfl rfl
theorem exit (dly : BitVec 3) (g : Guard) : Statement (.exit dly g) := two _ _ _ rfl rfl
theorem barArr (dly : BitVec 3) (b : BitVec 4) (want : BarWant) : Statement (.barArr dly b want) := two _ _ _ rfl rfl
theorem barWait (dly : BitVec 3) (b : BitVec 4) : Statement (.barWait dly b) := two _ _ _ rfl rfl
theorem barSync (dly : BitVec 3) (b : BitVec 4) (want : BarWant) : Statement (.barSync dly b want) := two _ _ _ rfl rfl
theorem balBurn (dly : BitVec 3) (lvl : BitVec 4) (len : BurnLen) : Statement (.balBurn dly lvl len) := by cases len <;> exact two _ _ _ rfl rfl
theorem balShunt (dly : BitVec 3) : Statement (.balShunt dly) := two _ _ _ rfl rfl
theorem balHold (dly : BitVec 3) (lvl : BitVec 4) : Statement (.balHold dly lvl) := two _ _ _ rfl rfl
theorem trap (dly : BitVec 3) (g : Guard) (code : BitVec 8) : Statement (.trap dly g code) := two _ _ _ rfl rfl
theorem rttRes (dly : BitVec 3) : Statement (.rttRes dly) := two _ _ _ rfl rfl
theorem rttSkip (dly : BitVec 3) : Statement (.rttSkip dly) := two _ _ _ rfl rfl
theorem rttKill (dly : BitVec 3) : Statement (.rttKill dly) := two _ _ _ rfl rfl
theorem getsr (dly : BitVec 3) (g : Guard) (d : Reg) (k : Bool) (r : SysReg) : Statement (.getsr dly g d k r) := two _ _ _ rfl rfl
theorem setsr (dly : BitVec 3) (b : Reg) (bk : Bool) (r : SysReg) : Statement (.setsr dly b bk r) := two _ _ _ rfl rfl
theorem qend (dly : BitVec 3) : Statement (.qend dly) := two _ _ _ rfl rfl
theorem clauseHeader (w : Word) : Statement (.clauseHeader w) := none _ rfl
theorem issueCycle (core quad : Nat) : Statement (.issueCycle core quad) := none _ rfl
theorem greedyLimit (core quad : Nat) : Statement (.greedyLimit core quad) := none _ rfl
theorem starvationOverride (core quad : Nat) : Statement (.starvationOverride core quad) := none _ rfl
theorem resultWriteback (uid : Nat) : Statement (.resultWriteback uid) := none _ rfl
theorem taggedResultWrite (uid : Nat) (tag : Tag) : Statement (.taggedResultWrite uid tag) := none _ rfl
theorem scratchpadAccessComplete (uid : Nat) : Statement (.scratchpadAccessComplete uid) := none _ rfl
theorem maskPredictionResolve (uid : Nat) : Statement (.maskPredictionResolve uid) := none _ rfl
theorem blockEnd (bid : Nat) : Statement (.blockEnd bid) := none _ rfl
theorem trapTake (uid : Nat) : Statement (.trapTake uid) := none _ rfl
theorem windowEnd : Statement .windowEnd := none _ rfl
theorem t3Trip (pier joint : Nat) (mismatch : Int) (voltageOnly : Bool) : Statement (.t3Trip pier joint mismatch voltageOnly) := none _ rfl
theorem clampEnd (pier : Nat) : Statement (.clampEnd pier) := none _ rfl
theorem boostEnd (pier joint : Nat) : Statement (.boostEnd pier joint) := none _ rfl
theorem coolDownEnd (pier joint : Nat) : Statement (.coolDownEnd pier joint) := none _ rfl
theorem burnExpire (uid : Nat) : Statement (.burnExpire uid) := none _ rfl
theorem qtailWrite (f q : Nat) (v : Word) : Statement (.qtailWrite f q v) := none _ rfl
theorem qcheadWrite (f q : Nat) (v : Word) : Statement (.qcheadWrite f q v) := none _ rfl
theorem qctlEnable (f q : Nat) : Statement (.qctlEnable f q) := none _ rfl
theorem qctlStop (f q : Nat) : Statement (.qctlStop f q) := none _ rfl
theorem qctlReset (f q : Nat) : Statement (.qctlReset f q) := none _ rfl
theorem queueResetComplete (f q : Nat) : Statement (.queueResetComplete f q) := none _ rfl
theorem cmdNop (f q : Nat) : Statement (.cmdNop f q) := none _ rfl
theorem cmdLaunch (f q : Nat) : Statement (.cmdLaunch f q) := none _ rfl
theorem cmdWait (f q : Nat) : Statement (.cmdWait f q) := none _ rfl
theorem cmdSignal (f q : Nat) : Statement (.cmdSignal f q) := none _ rfl
theorem launchComplete (lid : Nat) : Statement (.launchComplete lid) := none _ rfl
theorem coalescingTimer (f q : Nat) : Statement (.coalescingTimer f q) := none _ rfl
theorem idleFlush (f q : Nat) : Statement (.idleFlush f q) := none _ rfl
theorem dispatch (part : Nat) : Statement (.dispatch part) := none _ rfl
theorem restore (bid pier : Nat) : Statement (.restore bid pier) := none _ rfl
theorem preempt (core : Nat) (why : PreemptReason) : Statement (.preempt core why) := none _ rfl
theorem cancel (pier lid : Nat) : Statement (.cancel pier lid) := none _ rfl
theorem done (pier lid : Nat) : Statement (.done pier lid) := none _ rfl
theorem killed (bid : Nat) : Statement (.killed bid) := none _ rfl
theorem saved (bid : Nat) : Statement (.saved bid) := none _ rfl
theorem blockPlace (pier part : Nat) : Statement (.blockPlace pier part) := none _ rfl
theorem stealRequest (pier part : Nat) : Statement (.stealRequest pier part) := none _ rfl
theorem stealAnswer (pier part : Nat) : Statement (.stealAnswer pier part) := none _ rfl
theorem stealBackoffEnd (pier part : Nat) : Statement (.stealBackoffEnd pier part) := none _ rfl
theorem lowestClassRestore (part : Nat) : Statement (.lowestClassRestore part) := none _ rfl
theorem messageAccept (idx : Nat) : Statement (.messageAccept idx) := none _ rfl
theorem handlerSpawn (core : Nat) : Statement (.handlerSpawn core) := none _ rfl
theorem sliceEnd (part : Nat) : Statement (.sliceEnd part) := none _ rfl
theorem blockSave (bid : Nat) : Statement (.blockSave bid) := none _ rfl
theorem blockRestore (pier part : Nat) : Statement (.blockRestore pier part) := none _ rfl
theorem watchdog (bid : Nat) : Statement (.watchdog bid) := none _ rfl
theorem energyLimit (part : Nat) : Statement (.energyLimit part) := none _ rfl
theorem storeSend (uid seq : Nat) : Statement (.storeSend uid seq) := none _ rfl
theorem loadSend (uid seq : Nat) : Statement (.loadSend uid seq) := none _ rfl
theorem requestPerform (uid seq : Nat) : Statement (.requestPerform uid seq) := none _ rfl
theorem storeAck (uid seq : Nat) : Statement (.storeAck uid seq) := none _ rfl
theorem loadResponse (uid seq : Nat) : Statement (.loadResponse uid seq) := none _ rfl
theorem ackForward (uid seq : Nat) : Statement (.ackForward uid seq) := none _ rfl
theorem tableWalk (asid : Nat) (va : DWord) (kind : AccKind) : Statement (.tableWalk asid va kind) := none _ rfl
theorem prespRetry (f : Nat) (token : Nat) : Statement (.prespRetry f token) := none _ rfl
theorem prespFail (f : Nat) (token : Nat) : Statement (.prespFail f token) := none _ rfl
theorem inval (f : Nat) (va : DWord) (scope : BitVec 2) (asid : Nat) : Statement (.inval f va scope asid) := none _ rfl
theorem invalComplete (f : Nat) : Statement (.invalComplete f) := none _ rfl
theorem asidctlWrite (f : Nat) (v : Word) : Statement (.asidctlWrite f v) := none _ rfl
theorem copyBeat (bid : Nat) : Statement (.copyBeat bid) := none _ rfl
theorem copyComplete (bid : Nat) : Statement (.copyComplete bid) := none _ rfl
theorem batchComplete (uid : Nat) : Statement (.batchComplete uid) := none _ rfl
theorem setoutEntryStart (bid idx : Nat) : Statement (.setoutEntryStart bid idx) := none _ rfl
theorem setoutEntryComplete (bid idx : Nat) : Statement (.setoutEntryComplete bid idx) := none _ rfl
theorem dmodeCommit (lid : Nat) : Statement (.dmodeCommit lid) := none _ rfl
theorem pcmdEnable (p : Nat) : Statement (.pcmdEnable p) := none _ rfl
theorem pcmdDrain (p : Nat) : Statement (.pcmdDrain p) := none _ rfl
theorem pcmdReset (p : Nat) : Statement (.pcmdReset p) := none _ rfl
theorem pcmdRelease (p : Nat) : Statement (.pcmdRelease p) := none _ rfl
theorem partitionDrained (p : Nat) : Statement (.partitionDrained p) := none _ rfl
theorem perrRead (p : Nat) : Statement (.perrRead p) := none _ rfl
theorem fltlostRead (r : LostReg) : Statement (.fltlostRead r) := none _ rfl
theorem registerWrite (pa : Nat) (bytes : Nat) (v : Nat) : Statement (.registerWrite pa bytes v) := none _ rfl
theorem devnoWrite (v : Nat) : Statement (.devnoWrite v) := none _ rfl
theorem ckctlGo (p : Nat) (toDev : Bool) : Statement (.ckctlGo p toDev) := none _ rfl
theorem checkpointDone : Statement .checkpointDone := none _ rfl
theorem hostApertureAccess (f : Nat) (off : HostAddr) (bytes : Nat) (wr : Option Nat) : Statement (.hostApertureAccess f off bytes wr) := none _ rfl
theorem censusRefresh : Statement .censusRefresh := none _ rfl
theorem flitReplay (ash : Bool) (r : PortReplay) : Statement (.flitReplay ash r) := none _ rfl
theorem portRetrain (ash : Bool) (port : Nat) : Statement (.portRetrain ash port) := none _ rfl
theorem portDown (ash : Bool) (port : Nat) : Statement (.portDown ash port) := none _ rfl
theorem portUp (ash : Bool) (port lanes : Nat) : Statement (.portUp ash port lanes) := none _ rfl
theorem authenticationFailure (r : KeyUse) : Statement (.authenticationFailure r) := none _ rfl
theorem ashlarRequestArrival (port : Nat) (r : AshReq) : Statement (.ashlarRequestArrival port r) := none _ rfl
theorem lockInterfaceRequest (f : Nat) : Statement (.lockInterfaceRequest f) := none _ rfl
theorem startInterfaceRequest (f : Nat) : Statement (.startInterfaceRequest f) := none _ rfl
theorem stopInterfaceRequest (f : Nat) : Statement (.stopInterfaceRequest f) := none _ rfl
theorem getDeviceInterfaceReport (f : Nat) : Statement (.getDeviceInterfaceReport f) := none _ rfl
theorem spdmMeasurementRequest (r : SpdmReq) : Statement (.spdmMeasurementRequest r) := none _ rfl
theorem firmwareLoad (img : FwImage) : Statement (.firmwareLoad img) := none _ rfl
theorem rowActivationAlert (ch bank row : Nat) : Statement (.rowActivationAlert ch bank row) := none _ rfl
theorem bankHoldEnd (ch bank : Nat) : Statement (.bankHoldEnd ch bank) := none _ rfl
theorem rowRefresh (ch bank row : Nat) : Statement (.rowRefresh ch bank row) := none _ rfl
theorem scrub (place : EccPlace) (corrected uncorrectable : Nat) : Statement (.scrub place corrected uncorrectable) := none _ rfl
theorem deviceReset (bad : List UnitName) : Statement (.deviceReset bad) := none _ rfl
theorem keyExchange (f : Nat) (keys : Nat × Nat) : Statement (.keyExchange f keys) := none _ rfl

end Sys2Proof.Laws.Encoding
end

