-- ==== Sys2Proof/Laws/State.lean ====
section
/-! SUPPORT. What each named update of the state does to each field: one lemma for a field and an update, true by
unfolding, so that no later proof opens a record update. -/

namespace Sys2Proof.Machine

/-! ### `State.mapTeams` -/

@[simp] theorem State.mapTeams_agenda (s : State) (f : Team → Team) : (s.mapTeams f).agenda = s.agenda := rfl
@[simp] theorem State.mapTeams_sel (s : State) (f : Team → Team) : (s.mapTeams f).sel = s.sel := rfl
@[simp] theorem State.mapTeams_free (s : State) (f : Team → Team) : (s.mapTeams f).free = s.free := rfl
@[simp] theorem State.mapTeams_clock (s : State) (f : Team → Team) : (s.mapTeams f).clock = s.clock := rfl
@[simp] theorem State.mapTeams_wins (s : State) (f : Team → Team) : (s.mapTeams f).wins = s.wins := rfl
@[simp] theorem State.mapTeams_mem (s : State) (f : Team → Team) : (s.mapTeams f).mem = s.mem := rfl
@[simp] theorem State.mapTeams_cur (s : State) (f : Team → Team) : (s.mapTeams f).cur = f s.cur := rfl
@[simp] theorem State.mapTeams_blk (s : State) (f : Team → Team) : (s.mapTeams f).blk = s.blk := rfl
@[simp] theorem State.mapTeams_teams (s : State) (f : Team → Team) : (s.mapTeams f).teams = s.teams.map f := rfl
@[simp] theorem State.mapTeams_blocks (s : State) (f : Team → Team) : (s.mapTeams f).blocks = s.blocks := rfl
@[simp] theorem State.mapTeams_saved (s : State) (f : Team → Team) : (s.mapTeams f).saved = s.saved := rfl
@[simp] theorem State.mapTeams_launches (s : State) (f : Team → Team) : (s.mapTeams f).launches = s.launches := rfl
@[simp] theorem State.mapTeams_nextId (s : State) (f : Team → Team) : (s.mapTeams f).nextId = s.nextId := rfl
@[simp] theorem State.mapTeams_nextToken (s : State) (f : Team → Team) : (s.mapTeams f).nextToken = s.nextToken := rfl
@[simp] theorem State.mapTeams_ages (s : State) (f : Team → Team) : (s.mapTeams f).ages = s.ages := rfl
@[simp] theorem State.mapTeams_cores (s : State) (f : Team → Team) : (s.mapTeams f).cores = s.cores := rfl
@[simp] theorem State.mapTeams_piers (s : State) (f : Team → Team) : (s.mapTeams f).piers = s.piers := rfl
@[simp] theorem State.mapTeams_funcs (s : State) (f : Team → Team) : (s.mapTeams f).funcs = s.funcs := rfl
@[simp] theorem State.mapTeams_parts (s : State) (f : Team → Team) : (s.mapTeams f).parts = s.parts := rfl
@[simp] theorem State.mapTeams_asids (s : State) (f : Team → Team) : (s.mapTeams f).asids = s.asids := rfl
@[simp] theorem State.mapTeams_tlb (s : State) (f : Team → Team) : (s.mapTeams f).tlb = s.tlb := rfl
@[simp] theorem State.mapTeams_holders (s : State) (f : Team → Team) : (s.mapTeams f).holders = s.holders := rfl
@[simp] theorem State.mapTeams_invals (s : State) (f : Team → Team) : (s.mapTeams f).invals = s.invals := rfl
@[simp] theorem State.mapTeams_invalHeld (s : State) (f : Team → Team) : (s.mapTeams f).invalHeld = s.invalHeld := rfl
@[simp] theorem State.mapTeams_channel (s : State) (f : Team → Team) : (s.mapTeams f).channel = s.channel := rfl
@[simp] theorem State.mapTeams_devno (s : State) (f : Team → Team) : (s.mapTeams f).devno = s.devno := rfl
@[simp] theorem State.mapTeams_numvf (s : State) (f : Team → Team) : (s.mapTeams f).numvf = s.numvf := rfl
@[simp] theorem State.mapTeams_raathr (s : State) (f : Team → Team) : (s.mapTeams f).raathr = s.raathr := rfl
@[simp] theorem State.mapTeams_ckhost (s : State) (f : Team → Team) : (s.mapTeams f).ckhost = s.ckhost := rfl
@[simp] theorem State.mapTeams_ckstat (s : State) (f : Team → Team) : (s.mapTeams f).ckstat = s.ckstat := rfl
@[simp] theorem State.mapTeams_ckdir (s : State) (f : Team → Team) : (s.mapTeams f).ckdir = s.ckdir := rfl
@[simp] theorem State.mapTeams_ckpart (s : State) (f : Team → Team) : (s.mapTeams f).ckpart = s.ckpart := rfl
@[simp] theorem State.mapTeams_ckrun (s : State) (f : Team → Team) : (s.mapTeams f).ckrun = s.ckrun := rfl
@[simp] theorem State.mapTeams_qports (s : State) (f : Team → Team) : (s.mapTeams f).qports = s.qports := rfl
@[simp] theorem State.mapTeams_aports (s : State) (f : Team → Team) : (s.mapTeams f).aports = s.aports := rfl
@[simp] theorem State.mapTeams_rows (s : State) (f : Team → Team) : (s.mapTeams f).rows = s.rows := rfl
@[simp] theorem State.mapTeams_bankHolds (s : State) (f : Team → Team) : (s.mapTeams f).bankHolds = s.bankHolds := rfl
@[simp] theorem State.mapTeams_slices (s : State) (f : Team → Team) : (s.mapTeams f).slices = s.slices := rfl
@[simp] theorem State.mapTeams_channels (s : State) (f : Team → Team) : (s.mapTeams f).channels = s.channels := rfl
@[simp] theorem State.mapTeams_recent (s : State) (f : Team → Team) : (s.mapTeams f).recent = s.recent := rfl
@[simp] theorem State.mapTeams_frozen (s : State) (f : Team → Team) : (s.mapTeams f).frozen = s.frozen := rfl
@[simp] theorem State.mapTeams_census (s : State) (f : Team → Team) : (s.mapTeams f).census = s.census := rfl
@[simp] theorem State.mapTeams_gen (s : State) (f : Team → Team) : (s.mapTeams f).gen = s.gen := rfl
@[simp] theorem State.mapTeams_genEnd (s : State) (f : Team → Team) : (s.mapTeams f).genEnd = s.genEnd := rfl
@[simp] theorem State.mapTeams_owedLink (s : State) (f : Team → Team) : (s.mapTeams f).owedLink = s.owedLink := rfl
@[simp] theorem State.mapTeams_hostData (s : State) (f : Team → Team) : (s.mapTeams f).hostData = s.hostData := rfl
@[simp] theorem State.mapTeams_fw (s : State) (f : Team → Team) : (s.mapTeams f).fw = s.fw := rfl

/-! ### `State.mapBlocks` -/

@[simp] theorem State.mapBlocks_agenda (s : State) (f : Block → Block) : (s.mapBlocks f).agenda = s.agenda := rfl
@[simp] theorem State.mapBlocks_sel (s : State) (f : Block → Block) : (s.mapBlocks f).sel = s.sel := rfl
@[simp] theorem State.mapBlocks_free (s : State) (f : Block → Block) : (s.mapBlocks f).free = s.free := rfl
@[simp] theorem State.mapBlocks_clock (s : State) (f : Block → Block) : (s.mapBlocks f).clock = s.clock := rfl
@[simp] theorem State.mapBlocks_wins (s : State) (f : Block → Block) : (s.mapBlocks f).wins = s.wins := rfl
@[simp] theorem State.mapBlocks_mem (s : State) (f : Block → Block) : (s.mapBlocks f).mem = s.mem := rfl
@[simp] theorem State.mapBlocks_cur (s : State) (f : Block → Block) : (s.mapBlocks f).cur = s.cur := rfl
@[simp] theorem State.mapBlocks_blk (s : State) (f : Block → Block) : (s.mapBlocks f).blk = f s.blk := rfl
@[simp] theorem State.mapBlocks_teams (s : State) (f : Block → Block) : (s.mapBlocks f).teams = s.teams := rfl
@[simp] theorem State.mapBlocks_blocks (s : State) (f : Block → Block) : (s.mapBlocks f).blocks = s.blocks.map f := rfl
@[simp] theorem State.mapBlocks_saved (s : State) (f : Block → Block) : (s.mapBlocks f).saved = s.saved := rfl
@[simp] theorem State.mapBlocks_launches (s : State) (f : Block → Block) : (s.mapBlocks f).launches = s.launches := rfl
@[simp] theorem State.mapBlocks_nextId (s : State) (f : Block → Block) : (s.mapBlocks f).nextId = s.nextId := rfl
@[simp] theorem State.mapBlocks_nextToken (s : State) (f : Block → Block) : (s.mapBlocks f).nextToken = s.nextToken := rfl
@[simp] theorem State.mapBlocks_ages (s : State) (f : Block → Block) : (s.mapBlocks f).ages = s.ages := rfl
@[simp] theorem State.mapBlocks_cores (s : State) (f : Block → Block) : (s.mapBlocks f).cores = s.cores := rfl
@[simp] theorem State.mapBlocks_piers (s : State) (f : Block → Block) : (s.mapBlocks f).piers = s.piers := rfl
@[simp] theorem State.mapBlocks_funcs (s : State) (f : Block → Block) : (s.mapBlocks f).funcs = s.funcs := rfl
@[simp] theorem State.mapBlocks_parts (s : State) (f : Block → Block) : (s.mapBlocks f).parts = s.parts := rfl
@[simp] theorem State.mapBlocks_asids (s : State) (f : Block → Block) : (s.mapBlocks f).asids = s.asids := rfl
@[simp] theorem State.mapBlocks_tlb (s : State) (f : Block → Block) : (s.mapBlocks f).tlb = s.tlb := rfl
@[simp] theorem State.mapBlocks_holders (s : State) (f : Block → Block) : (s.mapBlocks f).holders = s.holders := rfl
@[simp] theorem State.mapBlocks_invals (s : State) (f : Block → Block) : (s.mapBlocks f).invals = s.invals := rfl
@[simp] theorem State.mapBlocks_invalHeld (s : State) (f : Block → Block) : (s.mapBlocks f).invalHeld = s.invalHeld := rfl
@[simp] theorem State.mapBlocks_channel (s : State) (f : Block → Block) : (s.mapBlocks f).channel = s.channel := rfl
@[simp] theorem State.mapBlocks_devno (s : State) (f : Block → Block) : (s.mapBlocks f).devno = s.devno := rfl
@[simp] theorem State.mapBlocks_numvf (s : State) (f : Block → Block) : (s.mapBlocks f).numvf = s.numvf := rfl
@[simp] theorem State.mapBlocks_raathr (s : State) (f : Block → Block) : (s.mapBlocks f).raathr = s.raathr := rfl
@[simp] theorem State.mapBlocks_ckhost (s : State) (f : Block → Block) : (s.mapBlocks f).ckhost = s.ckhost := rfl
@[simp] theorem State.mapBlocks_ckstat (s : State) (f : Block → Block) : (s.mapBlocks f).ckstat = s.ckstat := rfl
@[simp] theorem State.mapBlocks_ckdir (s : State) (f : Block → Block) : (s.mapBlocks f).ckdir = s.ckdir := rfl
@[simp] theorem State.mapBlocks_ckpart (s : State) (f : Block → Block) : (s.mapBlocks f).ckpart = s.ckpart := rfl
@[simp] theorem State.mapBlocks_ckrun (s : State) (f : Block → Block) : (s.mapBlocks f).ckrun = s.ckrun := rfl
@[simp] theorem State.mapBlocks_qports (s : State) (f : Block → Block) : (s.mapBlocks f).qports = s.qports := rfl
@[simp] theorem State.mapBlocks_aports (s : State) (f : Block → Block) : (s.mapBlocks f).aports = s.aports := rfl
@[simp] theorem State.mapBlocks_rows (s : State) (f : Block → Block) : (s.mapBlocks f).rows = s.rows := rfl
@[simp] theorem State.mapBlocks_bankHolds (s : State) (f : Block → Block) : (s.mapBlocks f).bankHolds = s.bankHolds := rfl
@[simp] theorem State.mapBlocks_slices (s : State) (f : Block → Block) : (s.mapBlocks f).slices = s.slices := rfl
@[simp] theorem State.mapBlocks_channels (s : State) (f : Block → Block) : (s.mapBlocks f).channels = s.channels := rfl
@[simp] theorem State.mapBlocks_recent (s : State) (f : Block → Block) : (s.mapBlocks f).recent = s.recent := rfl
@[simp] theorem State.mapBlocks_frozen (s : State) (f : Block → Block) : (s.mapBlocks f).frozen = s.frozen := rfl
@[simp] theorem State.mapBlocks_census (s : State) (f : Block → Block) : (s.mapBlocks f).census = s.census := rfl
@[simp] theorem State.mapBlocks_gen (s : State) (f : Block → Block) : (s.mapBlocks f).gen = s.gen := rfl
@[simp] theorem State.mapBlocks_genEnd (s : State) (f : Block → Block) : (s.mapBlocks f).genEnd = s.genEnd := rfl
@[simp] theorem State.mapBlocks_owedLink (s : State) (f : Block → Block) : (s.mapBlocks f).owedLink = s.owedLink := rfl
@[simp] theorem State.mapBlocks_hostData (s : State) (f : Block → Block) : (s.mapBlocks f).hostData = s.hostData := rfl
@[simp] theorem State.mapBlocks_fw (s : State) (f : Block → Block) : (s.mapBlocks f).fw = s.fw := rfl

/-! ### `State.onCore` -/

@[simp] theorem State.onCore_agenda (s : State) (c : Nat) (f : Core → Core) : (s.onCore c f).agenda = s.agenda := rfl
@[simp] theorem State.onCore_sel (s : State) (c : Nat) (f : Core → Core) : (s.onCore c f).sel = s.sel := rfl
@[simp] theorem State.onCore_free (s : State) (c : Nat) (f : Core → Core) : (s.onCore c f).free = s.free := rfl
@[simp] theorem State.onCore_clock (s : State) (c : Nat) (f : Core → Core) : (s.onCore c f).clock = s.clock := rfl
@[simp] theorem State.onCore_wins (s : State) (c : Nat) (f : Core → Core) : (s.onCore c f).wins = s.wins := rfl
@[simp] theorem State.onCore_mem (s : State) (c : Nat) (f : Core → Core) : (s.onCore c f).mem = s.mem := rfl
@[simp] theorem State.onCore_cur (s : State) (c : Nat) (f : Core → Core) : (s.onCore c f).cur = s.cur := rfl
@[simp] theorem State.onCore_blk (s : State) (c : Nat) (f : Core → Core) : (s.onCore c f).blk = s.blk := rfl
@[simp] theorem State.onCore_teams (s : State) (c : Nat) (f : Core → Core) : (s.onCore c f).teams = s.teams := rfl
@[simp] theorem State.onCore_blocks (s : State) (c : Nat) (f : Core → Core) : (s.onCore c f).blocks = s.blocks := rfl
@[simp] theorem State.onCore_saved (s : State) (c : Nat) (f : Core → Core) : (s.onCore c f).saved = s.saved := rfl
@[simp] theorem State.onCore_launches (s : State) (c : Nat) (f : Core → Core) : (s.onCore c f).launches = s.launches := rfl
@[simp] theorem State.onCore_nextId (s : State) (c : Nat) (f : Core → Core) : (s.onCore c f).nextId = s.nextId := rfl
@[simp] theorem State.onCore_nextToken (s : State) (c : Nat) (f : Core → Core) : (s.onCore c f).nextToken = s.nextToken := rfl
@[simp] theorem State.onCore_ages (s : State) (c : Nat) (f : Core → Core) : (s.onCore c f).ages = s.ages := rfl
@[simp] theorem State.onCore_cores (s : State) (c : Nat) (f : Core → Core) : (s.onCore c f).cores = upd s.cores c f := rfl
@[simp] theorem State.onCore_piers (s : State) (c : Nat) (f : Core → Core) : (s.onCore c f).piers = s.piers := rfl
@[simp] theorem State.onCore_funcs (s : State) (c : Nat) (f : Core → Core) : (s.onCore c f).funcs = s.funcs := rfl
@[simp] theorem State.onCore_parts (s : State) (c : Nat) (f : Core → Core) : (s.onCore c f).parts = s.parts := rfl
@[simp] theorem State.onCore_asids (s : State) (c : Nat) (f : Core → Core) : (s.onCore c f).asids = s.asids := rfl
@[simp] theorem State.onCore_tlb (s : State) (c : Nat) (f : Core → Core) : (s.onCore c f).tlb = s.tlb := rfl
@[simp] theorem State.onCore_holders (s : State) (c : Nat) (f : Core → Core) : (s.onCore c f).holders = s.holders := rfl
@[simp] theorem State.onCore_invals (s : State) (c : Nat) (f : Core → Core) : (s.onCore c f).invals = s.invals := rfl
@[simp] theorem State.onCore_invalHeld (s : State) (c : Nat) (f : Core → Core) : (s.onCore c f).invalHeld = s.invalHeld := rfl
@[simp] theorem State.onCore_channel (s : State) (c : Nat) (f : Core → Core) : (s.onCore c f).channel = s.channel := rfl
@[simp] theorem State.onCore_devno (s : State) (c : Nat) (f : Core → Core) : (s.onCore c f).devno = s.devno := rfl
@[simp] theorem State.onCore_numvf (s : State) (c : Nat) (f : Core → Core) : (s.onCore c f).numvf = s.numvf := rfl
@[simp] theorem State.onCore_raathr (s : State) (c : Nat) (f : Core → Core) : (s.onCore c f).raathr = s.raathr := rfl
@[simp] theorem State.onCore_ckhost (s : State) (c : Nat) (f : Core → Core) : (s.onCore c f).ckhost = s.ckhost := rfl
@[simp] theorem State.onCore_ckstat (s : State) (c : Nat) (f : Core → Core) : (s.onCore c f).ckstat = s.ckstat := rfl
@[simp] theorem State.onCore_ckdir (s : State) (c : Nat) (f : Core → Core) : (s.onCore c f).ckdir = s.ckdir := rfl
@[simp] theorem State.onCore_ckpart (s : State) (c : Nat) (f : Core → Core) : (s.onCore c f).ckpart = s.ckpart := rfl
@[simp] theorem State.onCore_ckrun (s : State) (c : Nat) (f : Core → Core) : (s.onCore c f).ckrun = s.ckrun := rfl
@[simp] theorem State.onCore_qports (s : State) (c : Nat) (f : Core → Core) : (s.onCore c f).qports = s.qports := rfl
@[simp] theorem State.onCore_aports (s : State) (c : Nat) (f : Core → Core) : (s.onCore c f).aports = s.aports := rfl
@[simp] theorem State.onCore_rows (s : State) (c : Nat) (f : Core → Core) : (s.onCore c f).rows = s.rows := rfl
@[simp] theorem State.onCore_bankHolds (s : State) (c : Nat) (f : Core → Core) : (s.onCore c f).bankHolds = s.bankHolds := rfl
@[simp] theorem State.onCore_slices (s : State) (c : Nat) (f : Core → Core) : (s.onCore c f).slices = s.slices := rfl
@[simp] theorem State.onCore_channels (s : State) (c : Nat) (f : Core → Core) : (s.onCore c f).channels = s.channels := rfl
@[simp] theorem State.onCore_recent (s : State) (c : Nat) (f : Core → Core) : (s.onCore c f).recent = s.recent := rfl
@[simp] theorem State.onCore_frozen (s : State) (c : Nat) (f : Core → Core) : (s.onCore c f).frozen = s.frozen := rfl
@[simp] theorem State.onCore_census (s : State) (c : Nat) (f : Core → Core) : (s.onCore c f).census = s.census := rfl
@[simp] theorem State.onCore_gen (s : State) (c : Nat) (f : Core → Core) : (s.onCore c f).gen = s.gen := rfl
@[simp] theorem State.onCore_genEnd (s : State) (c : Nat) (f : Core → Core) : (s.onCore c f).genEnd = s.genEnd := rfl
@[simp] theorem State.onCore_owedLink (s : State) (c : Nat) (f : Core → Core) : (s.onCore c f).owedLink = s.owedLink := rfl
@[simp] theorem State.onCore_hostData (s : State) (c : Nat) (f : Core → Core) : (s.onCore c f).hostData = s.hostData := rfl
@[simp] theorem State.onCore_fw (s : State) (c : Nat) (f : Core → Core) : (s.onCore c f).fw = s.fw := rfl

/-! ### `State.onPier` -/

@[simp] theorem State.onPier_agenda (s : State) (n : Nat) (f : Pier → Pier) : (s.onPier n f).agenda = s.agenda := rfl
@[simp] theorem State.onPier_sel (s : State) (n : Nat) (f : Pier → Pier) : (s.onPier n f).sel = s.sel := rfl
@[simp] theorem State.onPier_free (s : State) (n : Nat) (f : Pier → Pier) : (s.onPier n f).free = s.free := rfl
@[simp] theorem State.onPier_clock (s : State) (n : Nat) (f : Pier → Pier) : (s.onPier n f).clock = s.clock := rfl
@[simp] theorem State.onPier_wins (s : State) (n : Nat) (f : Pier → Pier) : (s.onPier n f).wins = s.wins := rfl
@[simp] theorem State.onPier_mem (s : State) (n : Nat) (f : Pier → Pier) : (s.onPier n f).mem = s.mem := rfl
@[simp] theorem State.onPier_cur (s : State) (n : Nat) (f : Pier → Pier) : (s.onPier n f).cur = s.cur := rfl
@[simp] theorem State.onPier_blk (s : State) (n : Nat) (f : Pier → Pier) : (s.onPier n f).blk = s.blk := rfl
@[simp] theorem State.onPier_teams (s : State) (n : Nat) (f : Pier → Pier) : (s.onPier n f).teams = s.teams := rfl
@[simp] theorem State.onPier_blocks (s : State) (n : Nat) (f : Pier → Pier) : (s.onPier n f).blocks = s.blocks := rfl
@[simp] theorem State.onPier_saved (s : State) (n : Nat) (f : Pier → Pier) : (s.onPier n f).saved = s.saved := rfl
@[simp] theorem State.onPier_launches (s : State) (n : Nat) (f : Pier → Pier) : (s.onPier n f).launches = s.launches := rfl
@[simp] theorem State.onPier_nextId (s : State) (n : Nat) (f : Pier → Pier) : (s.onPier n f).nextId = s.nextId := rfl
@[simp] theorem State.onPier_nextToken (s : State) (n : Nat) (f : Pier → Pier) : (s.onPier n f).nextToken = s.nextToken := rfl
@[simp] theorem State.onPier_ages (s : State) (n : Nat) (f : Pier → Pier) : (s.onPier n f).ages = s.ages := rfl
@[simp] theorem State.onPier_cores (s : State) (n : Nat) (f : Pier → Pier) : (s.onPier n f).cores = s.cores := rfl
@[simp] theorem State.onPier_piers (s : State) (n : Nat) (f : Pier → Pier) : (s.onPier n f).piers = upd s.piers n f := rfl
@[simp] theorem State.onPier_funcs (s : State) (n : Nat) (f : Pier → Pier) : (s.onPier n f).funcs = s.funcs := rfl
@[simp] theorem State.onPier_parts (s : State) (n : Nat) (f : Pier → Pier) : (s.onPier n f).parts = s.parts := rfl
@[simp] theorem State.onPier_asids (s : State) (n : Nat) (f : Pier → Pier) : (s.onPier n f).asids = s.asids := rfl
@[simp] theorem State.onPier_tlb (s : State) (n : Nat) (f : Pier → Pier) : (s.onPier n f).tlb = s.tlb := rfl
@[simp] theorem State.onPier_holders (s : State) (n : Nat) (f : Pier → Pier) : (s.onPier n f).holders = s.holders := rfl
@[simp] theorem State.onPier_invals (s : State) (n : Nat) (f : Pier → Pier) : (s.onPier n f).invals = s.invals := rfl
@[simp] theorem State.onPier_invalHeld (s : State) (n : Nat) (f : Pier → Pier) : (s.onPier n f).invalHeld = s.invalHeld := rfl
@[simp] theorem State.onPier_channel (s : State) (n : Nat) (f : Pier → Pier) : (s.onPier n f).channel = s.channel := rfl
@[simp] theorem State.onPier_devno (s : State) (n : Nat) (f : Pier → Pier) : (s.onPier n f).devno = s.devno := rfl
@[simp] theorem State.onPier_numvf (s : State) (n : Nat) (f : Pier → Pier) : (s.onPier n f).numvf = s.numvf := rfl
@[simp] theorem State.onPier_raathr (s : State) (n : Nat) (f : Pier → Pier) : (s.onPier n f).raathr = s.raathr := rfl
@[simp] theorem State.onPier_ckhost (s : State) (n : Nat) (f : Pier → Pier) : (s.onPier n f).ckhost = s.ckhost := rfl
@[simp] theorem State.onPier_ckstat (s : State) (n : Nat) (f : Pier → Pier) : (s.onPier n f).ckstat = s.ckstat := rfl
@[simp] theorem State.onPier_ckdir (s : State) (n : Nat) (f : Pier → Pier) : (s.onPier n f).ckdir = s.ckdir := rfl
@[simp] theorem State.onPier_ckpart (s : State) (n : Nat) (f : Pier → Pier) : (s.onPier n f).ckpart = s.ckpart := rfl
@[simp] theorem State.onPier_ckrun (s : State) (n : Nat) (f : Pier → Pier) : (s.onPier n f).ckrun = s.ckrun := rfl
@[simp] theorem State.onPier_qports (s : State) (n : Nat) (f : Pier → Pier) : (s.onPier n f).qports = s.qports := rfl
@[simp] theorem State.onPier_aports (s : State) (n : Nat) (f : Pier → Pier) : (s.onPier n f).aports = s.aports := rfl
@[simp] theorem State.onPier_rows (s : State) (n : Nat) (f : Pier → Pier) : (s.onPier n f).rows = s.rows := rfl
@[simp] theorem State.onPier_bankHolds (s : State) (n : Nat) (f : Pier → Pier) : (s.onPier n f).bankHolds = s.bankHolds := rfl
@[simp] theorem State.onPier_slices (s : State) (n : Nat) (f : Pier → Pier) : (s.onPier n f).slices = s.slices := rfl
@[simp] theorem State.onPier_channels (s : State) (n : Nat) (f : Pier → Pier) : (s.onPier n f).channels = s.channels := rfl
@[simp] theorem State.onPier_recent (s : State) (n : Nat) (f : Pier → Pier) : (s.onPier n f).recent = s.recent := rfl
@[simp] theorem State.onPier_frozen (s : State) (n : Nat) (f : Pier → Pier) : (s.onPier n f).frozen = s.frozen := rfl
@[simp] theorem State.onPier_census (s : State) (n : Nat) (f : Pier → Pier) : (s.onPier n f).census = s.census := rfl
@[simp] theorem State.onPier_gen (s : State) (n : Nat) (f : Pier → Pier) : (s.onPier n f).gen = s.gen := rfl
@[simp] theorem State.onPier_genEnd (s : State) (n : Nat) (f : Pier → Pier) : (s.onPier n f).genEnd = s.genEnd := rfl
@[simp] theorem State.onPier_owedLink (s : State) (n : Nat) (f : Pier → Pier) : (s.onPier n f).owedLink = s.owedLink := rfl
@[simp] theorem State.onPier_hostData (s : State) (n : Nat) (f : Pier → Pier) : (s.onPier n f).hostData = s.hostData := rfl
@[simp] theorem State.onPier_fw (s : State) (n : Nat) (f : Pier → Pier) : (s.onPier n f).fw = s.fw := rfl

/-! ### `State.onFunc` -/

@[simp] theorem State.onFunc_agenda (s : State) (n : Nat) (f : Func → Func) : (s.onFunc n f).agenda = s.agenda := rfl
@[simp] theorem State.onFunc_sel (s : State) (n : Nat) (f : Func → Func) : (s.onFunc n f).sel = s.sel := rfl
@[simp] theorem State.onFunc_free (s : State) (n : Nat) (f : Func → Func) : (s.onFunc n f).free = s.free := rfl
@[simp] theorem State.onFunc_clock (s : State) (n : Nat) (f : Func → Func) : (s.onFunc n f).clock = s.clock := rfl
@[simp] theorem State.onFunc_wins (s : State) (n : Nat) (f : Func → Func) : (s.onFunc n f).wins = s.wins := rfl
@[simp] theorem State.onFunc_mem (s : State) (n : Nat) (f : Func → Func) : (s.onFunc n f).mem = s.mem := rfl
@[simp] theorem State.onFunc_cur (s : State) (n : Nat) (f : Func → Func) : (s.onFunc n f).cur = s.cur := rfl
@[simp] theorem State.onFunc_blk (s : State) (n : Nat) (f : Func → Func) : (s.onFunc n f).blk = s.blk := rfl
@[simp] theorem State.onFunc_teams (s : State) (n : Nat) (f : Func → Func) : (s.onFunc n f).teams = s.teams := rfl
@[simp] theorem State.onFunc_blocks (s : State) (n : Nat) (f : Func → Func) : (s.onFunc n f).blocks = s.blocks := rfl
@[simp] theorem State.onFunc_saved (s : State) (n : Nat) (f : Func → Func) : (s.onFunc n f).saved = s.saved := rfl
@[simp] theorem State.onFunc_launches (s : State) (n : Nat) (f : Func → Func) : (s.onFunc n f).launches = s.launches := rfl
@[simp] theorem State.onFunc_nextId (s : State) (n : Nat) (f : Func → Func) : (s.onFunc n f).nextId = s.nextId := rfl
@[simp] theorem State.onFunc_nextToken (s : State) (n : Nat) (f : Func → Func) : (s.onFunc n f).nextToken = s.nextToken := rfl
@[simp] theorem State.onFunc_ages (s : State) (n : Nat) (f : Func → Func) : (s.onFunc n f).ages = s.ages := rfl
@[simp] theorem State.onFunc_cores (s : State) (n : Nat) (f : Func → Func) : (s.onFunc n f).cores = s.cores := rfl
@[simp] theorem State.onFunc_piers (s : State) (n : Nat) (f : Func → Func) : (s.onFunc n f).piers = s.piers := rfl
@[simp] theorem State.onFunc_funcs (s : State) (n : Nat) (f : Func → Func) : (s.onFunc n f).funcs = upd s.funcs n f := rfl
@[simp] theorem State.onFunc_parts (s : State) (n : Nat) (f : Func → Func) : (s.onFunc n f).parts = s.parts := rfl
@[simp] theorem State.onFunc_asids (s : State) (n : Nat) (f : Func → Func) : (s.onFunc n f).asids = s.asids := rfl
@[simp] theorem State.onFunc_tlb (s : State) (n : Nat) (f : Func → Func) : (s.onFunc n f).tlb = s.tlb := rfl
@[simp] theorem State.onFunc_holders (s : State) (n : Nat) (f : Func → Func) : (s.onFunc n f).holders = s.holders := rfl
@[simp] theorem State.onFunc_invals (s : State) (n : Nat) (f : Func → Func) : (s.onFunc n f).invals = s.invals := rfl
@[simp] theorem State.onFunc_invalHeld (s : State) (n : Nat) (f : Func → Func) : (s.onFunc n f).invalHeld = s.invalHeld := rfl
@[simp] theorem State.onFunc_channel (s : State) (n : Nat) (f : Func → Func) : (s.onFunc n f).channel = s.channel := rfl
@[simp] theorem State.onFunc_devno (s : State) (n : Nat) (f : Func → Func) : (s.onFunc n f).devno = s.devno := rfl
@[simp] theorem State.onFunc_numvf (s : State) (n : Nat) (f : Func → Func) : (s.onFunc n f).numvf = s.numvf := rfl
@[simp] theorem State.onFunc_raathr (s : State) (n : Nat) (f : Func → Func) : (s.onFunc n f).raathr = s.raathr := rfl
@[simp] theorem State.onFunc_ckhost (s : State) (n : Nat) (f : Func → Func) : (s.onFunc n f).ckhost = s.ckhost := rfl
@[simp] theorem State.onFunc_ckstat (s : State) (n : Nat) (f : Func → Func) : (s.onFunc n f).ckstat = s.ckstat := rfl
@[simp] theorem State.onFunc_ckdir (s : State) (n : Nat) (f : Func → Func) : (s.onFunc n f).ckdir = s.ckdir := rfl
@[simp] theorem State.onFunc_ckpart (s : State) (n : Nat) (f : Func → Func) : (s.onFunc n f).ckpart = s.ckpart := rfl
@[simp] theorem State.onFunc_ckrun (s : State) (n : Nat) (f : Func → Func) : (s.onFunc n f).ckrun = s.ckrun := rfl
@[simp] theorem State.onFunc_qports (s : State) (n : Nat) (f : Func → Func) : (s.onFunc n f).qports = s.qports := rfl
@[simp] theorem State.onFunc_aports (s : State) (n : Nat) (f : Func → Func) : (s.onFunc n f).aports = s.aports := rfl
@[simp] theorem State.onFunc_rows (s : State) (n : Nat) (f : Func → Func) : (s.onFunc n f).rows = s.rows := rfl
@[simp] theorem State.onFunc_bankHolds (s : State) (n : Nat) (f : Func → Func) : (s.onFunc n f).bankHolds = s.bankHolds := rfl
@[simp] theorem State.onFunc_slices (s : State) (n : Nat) (f : Func → Func) : (s.onFunc n f).slices = s.slices := rfl
@[simp] theorem State.onFunc_channels (s : State) (n : Nat) (f : Func → Func) : (s.onFunc n f).channels = s.channels := rfl
@[simp] theorem State.onFunc_recent (s : State) (n : Nat) (f : Func → Func) : (s.onFunc n f).recent = s.recent := rfl
@[simp] theorem State.onFunc_frozen (s : State) (n : Nat) (f : Func → Func) : (s.onFunc n f).frozen = s.frozen := rfl
@[simp] theorem State.onFunc_census (s : State) (n : Nat) (f : Func → Func) : (s.onFunc n f).census = s.census := rfl
@[simp] theorem State.onFunc_gen (s : State) (n : Nat) (f : Func → Func) : (s.onFunc n f).gen = s.gen := rfl
@[simp] theorem State.onFunc_genEnd (s : State) (n : Nat) (f : Func → Func) : (s.onFunc n f).genEnd = s.genEnd := rfl
@[simp] theorem State.onFunc_owedLink (s : State) (n : Nat) (f : Func → Func) : (s.onFunc n f).owedLink = s.owedLink := rfl
@[simp] theorem State.onFunc_hostData (s : State) (n : Nat) (f : Func → Func) : (s.onFunc n f).hostData = s.hostData := rfl
@[simp] theorem State.onFunc_fw (s : State) (n : Nat) (f : Func → Func) : (s.onFunc n f).fw = s.fw := rfl

/-! ### `State.onPart` -/

@[simp] theorem State.onPart_agenda (s : State) (p : Nat) (f : Partition → Partition) : (s.onPart p f).agenda = s.agenda := rfl
@[simp] theorem State.onPart_sel (s : State) (p : Nat) (f : Partition → Partition) : (s.onPart p f).sel = s.sel := rfl
@[simp] theorem State.onPart_free (s : State) (p : Nat) (f : Partition → Partition) : (s.onPart p f).free = s.free := rfl
@[simp] theorem State.onPart_clock (s : State) (p : Nat) (f : Partition → Partition) : (s.onPart p f).clock = s.clock := rfl
@[simp] theorem State.onPart_wins (s : State) (p : Nat) (f : Partition → Partition) : (s.onPart p f).wins = s.wins := rfl
@[simp] theorem State.onPart_mem (s : State) (p : Nat) (f : Partition → Partition) : (s.onPart p f).mem = s.mem := rfl
@[simp] theorem State.onPart_cur (s : State) (p : Nat) (f : Partition → Partition) : (s.onPart p f).cur = s.cur := rfl
@[simp] theorem State.onPart_blk (s : State) (p : Nat) (f : Partition → Partition) : (s.onPart p f).blk = s.blk := rfl
@[simp] theorem State.onPart_teams (s : State) (p : Nat) (f : Partition → Partition) : (s.onPart p f).teams = s.teams := rfl
@[simp] theorem State.onPart_blocks (s : State) (p : Nat) (f : Partition → Partition) : (s.onPart p f).blocks = s.blocks := rfl
@[simp] theorem State.onPart_saved (s : State) (p : Nat) (f : Partition → Partition) : (s.onPart p f).saved = s.saved := rfl
@[simp] theorem State.onPart_launches (s : State) (p : Nat) (f : Partition → Partition) : (s.onPart p f).launches = s.launches := rfl
@[simp] theorem State.onPart_nextId (s : State) (p : Nat) (f : Partition → Partition) : (s.onPart p f).nextId = s.nextId := rfl
@[simp] theorem State.onPart_nextToken (s : State) (p : Nat) (f : Partition → Partition) : (s.onPart p f).nextToken = s.nextToken := rfl
@[simp] theorem State.onPart_ages (s : State) (p : Nat) (f : Partition → Partition) : (s.onPart p f).ages = s.ages := rfl
@[simp] theorem State.onPart_cores (s : State) (p : Nat) (f : Partition → Partition) : (s.onPart p f).cores = s.cores := rfl
@[simp] theorem State.onPart_piers (s : State) (p : Nat) (f : Partition → Partition) : (s.onPart p f).piers = s.piers := rfl
@[simp] theorem State.onPart_funcs (s : State) (p : Nat) (f : Partition → Partition) : (s.onPart p f).funcs = s.funcs := rfl
@[simp] theorem State.onPart_parts (s : State) (p : Nat) (f : Partition → Partition) : (s.onPart p f).parts = upd s.parts p f := rfl
@[simp] theorem State.onPart_asids (s : State) (p : Nat) (f : Partition → Partition) : (s.onPart p f).asids = s.asids := rfl
@[simp] theorem State.onPart_tlb (s : State) (p : Nat) (f : Partition → Partition) : (s.onPart p f).tlb = s.tlb := rfl
@[simp] theorem State.onPart_holders (s : State) (p : Nat) (f : Partition → Partition) : (s.onPart p f).holders = s.holders := rfl
@[simp] theorem State.onPart_invals (s : State) (p : Nat) (f : Partition → Partition) : (s.onPart p f).invals = s.invals := rfl
@[simp] theorem State.onPart_invalHeld (s : State) (p : Nat) (f : Partition → Partition) : (s.onPart p f).invalHeld = s.invalHeld := rfl
@[simp] theorem State.onPart_channel (s : State) (p : Nat) (f : Partition → Partition) : (s.onPart p f).channel = s.channel := rfl
@[simp] theorem State.onPart_devno (s : State) (p : Nat) (f : Partition → Partition) : (s.onPart p f).devno = s.devno := rfl
@[simp] theorem State.onPart_numvf (s : State) (p : Nat) (f : Partition → Partition) : (s.onPart p f).numvf = s.numvf := rfl
@[simp] theorem State.onPart_raathr (s : State) (p : Nat) (f : Partition → Partition) : (s.onPart p f).raathr = s.raathr := rfl
@[simp] theorem State.onPart_ckhost (s : State) (p : Nat) (f : Partition → Partition) : (s.onPart p f).ckhost = s.ckhost := rfl
@[simp] theorem State.onPart_ckstat (s : State) (p : Nat) (f : Partition → Partition) : (s.onPart p f).ckstat = s.ckstat := rfl
@[simp] theorem State.onPart_ckdir (s : State) (p : Nat) (f : Partition → Partition) : (s.onPart p f).ckdir = s.ckdir := rfl
@[simp] theorem State.onPart_ckpart (s : State) (p : Nat) (f : Partition → Partition) : (s.onPart p f).ckpart = s.ckpart := rfl
@[simp] theorem State.onPart_ckrun (s : State) (p : Nat) (f : Partition → Partition) : (s.onPart p f).ckrun = s.ckrun := rfl
@[simp] theorem State.onPart_qports (s : State) (p : Nat) (f : Partition → Partition) : (s.onPart p f).qports = s.qports := rfl
@[simp] theorem State.onPart_aports (s : State) (p : Nat) (f : Partition → Partition) : (s.onPart p f).aports = s.aports := rfl
@[simp] theorem State.onPart_rows (s : State) (p : Nat) (f : Partition → Partition) : (s.onPart p f).rows = s.rows := rfl
@[simp] theorem State.onPart_bankHolds (s : State) (p : Nat) (f : Partition → Partition) : (s.onPart p f).bankHolds = s.bankHolds := rfl
@[simp] theorem State.onPart_slices (s : State) (p : Nat) (f : Partition → Partition) : (s.onPart p f).slices = s.slices := rfl
@[simp] theorem State.onPart_channels (s : State) (p : Nat) (f : Partition → Partition) : (s.onPart p f).channels = s.channels := rfl
@[simp] theorem State.onPart_recent (s : State) (p : Nat) (f : Partition → Partition) : (s.onPart p f).recent = s.recent := rfl
@[simp] theorem State.onPart_frozen (s : State) (p : Nat) (f : Partition → Partition) : (s.onPart p f).frozen = s.frozen := rfl
@[simp] theorem State.onPart_census (s : State) (p : Nat) (f : Partition → Partition) : (s.onPart p f).census = s.census := rfl
@[simp] theorem State.onPart_gen (s : State) (p : Nat) (f : Partition → Partition) : (s.onPart p f).gen = s.gen := rfl
@[simp] theorem State.onPart_genEnd (s : State) (p : Nat) (f : Partition → Partition) : (s.onPart p f).genEnd = s.genEnd := rfl
@[simp] theorem State.onPart_owedLink (s : State) (p : Nat) (f : Partition → Partition) : (s.onPart p f).owedLink = s.owedLink := rfl
@[simp] theorem State.onPart_hostData (s : State) (p : Nat) (f : Partition → Partition) : (s.onPart p f).hostData = s.hostData := rfl
@[simp] theorem State.onPart_fw (s : State) (p : Nat) (f : Partition → Partition) : (s.onPart p f).fw = s.fw := rfl

/-! ### `State.onLaunch` -/

@[simp] theorem State.onLaunch_agenda (s : State) (lid : Nat) (f : Launch → Launch) : (s.onLaunch lid f).agenda = s.agenda := rfl
@[simp] theorem State.onLaunch_sel (s : State) (lid : Nat) (f : Launch → Launch) : (s.onLaunch lid f).sel = s.sel := rfl
@[simp] theorem State.onLaunch_free (s : State) (lid : Nat) (f : Launch → Launch) : (s.onLaunch lid f).free = s.free := rfl
@[simp] theorem State.onLaunch_clock (s : State) (lid : Nat) (f : Launch → Launch) : (s.onLaunch lid f).clock = s.clock := rfl
@[simp] theorem State.onLaunch_wins (s : State) (lid : Nat) (f : Launch → Launch) : (s.onLaunch lid f).wins = s.wins := rfl
@[simp] theorem State.onLaunch_mem (s : State) (lid : Nat) (f : Launch → Launch) : (s.onLaunch lid f).mem = s.mem := rfl
@[simp] theorem State.onLaunch_cur (s : State) (lid : Nat) (f : Launch → Launch) : (s.onLaunch lid f).cur = s.cur := rfl
@[simp] theorem State.onLaunch_blk (s : State) (lid : Nat) (f : Launch → Launch) : (s.onLaunch lid f).blk = s.blk := rfl
@[simp] theorem State.onLaunch_teams (s : State) (lid : Nat) (f : Launch → Launch) : (s.onLaunch lid f).teams = s.teams := rfl
@[simp] theorem State.onLaunch_blocks (s : State) (lid : Nat) (f : Launch → Launch) : (s.onLaunch lid f).blocks = s.blocks := rfl
@[simp] theorem State.onLaunch_saved (s : State) (lid : Nat) (f : Launch → Launch) : (s.onLaunch lid f).saved = s.saved := rfl
@[simp] theorem State.onLaunch_launches (s : State) (lid : Nat) (f : Launch → Launch) : (s.onLaunch lid f).launches = s.launches.map fun l => if l.lid = lid then f l else l := rfl
@[simp] theorem State.onLaunch_nextId (s : State) (lid : Nat) (f : Launch → Launch) : (s.onLaunch lid f).nextId = s.nextId := rfl
@[simp] theorem State.onLaunch_nextToken (s : State) (lid : Nat) (f : Launch → Launch) : (s.onLaunch lid f).nextToken = s.nextToken := rfl
@[simp] theorem State.onLaunch_ages (s : State) (lid : Nat) (f : Launch → Launch) : (s.onLaunch lid f).ages = s.ages := rfl
@[simp] theorem State.onLaunch_cores (s : State) (lid : Nat) (f : Launch → Launch) : (s.onLaunch lid f).cores = s.cores := rfl
@[simp] theorem State.onLaunch_piers (s : State) (lid : Nat) (f : Launch → Launch) : (s.onLaunch lid f).piers = s.piers := rfl
@[simp] theorem State.onLaunch_funcs (s : State) (lid : Nat) (f : Launch → Launch) : (s.onLaunch lid f).funcs = s.funcs := rfl
@[simp] theorem State.onLaunch_parts (s : State) (lid : Nat) (f : Launch → Launch) : (s.onLaunch lid f).parts = s.parts := rfl
@[simp] theorem State.onLaunch_asids (s : State) (lid : Nat) (f : Launch → Launch) : (s.onLaunch lid f).asids = s.asids := rfl
@[simp] theorem State.onLaunch_tlb (s : State) (lid : Nat) (f : Launch → Launch) : (s.onLaunch lid f).tlb = s.tlb := rfl
@[simp] theorem State.onLaunch_holders (s : State) (lid : Nat) (f : Launch → Launch) : (s.onLaunch lid f).holders = s.holders := rfl
@[simp] theorem State.onLaunch_invals (s : State) (lid : Nat) (f : Launch → Launch) : (s.onLaunch lid f).invals = s.invals := rfl
@[simp] theorem State.onLaunch_invalHeld (s : State) (lid : Nat) (f : Launch → Launch) : (s.onLaunch lid f).invalHeld = s.invalHeld := rfl
@[simp] theorem State.onLaunch_channel (s : State) (lid : Nat) (f : Launch → Launch) : (s.onLaunch lid f).channel = s.channel := rfl
@[simp] theorem State.onLaunch_devno (s : State) (lid : Nat) (f : Launch → Launch) : (s.onLaunch lid f).devno = s.devno := rfl
@[simp] theorem State.onLaunch_numvf (s : State) (lid : Nat) (f : Launch → Launch) : (s.onLaunch lid f).numvf = s.numvf := rfl
@[simp] theorem State.onLaunch_raathr (s : State) (lid : Nat) (f : Launch → Launch) : (s.onLaunch lid f).raathr = s.raathr := rfl
@[simp] theorem State.onLaunch_ckhost (s : State) (lid : Nat) (f : Launch → Launch) : (s.onLaunch lid f).ckhost = s.ckhost := rfl
@[simp] theorem State.onLaunch_ckstat (s : State) (lid : Nat) (f : Launch → Launch) : (s.onLaunch lid f).ckstat = s.ckstat := rfl
@[simp] theorem State.onLaunch_ckdir (s : State) (lid : Nat) (f : Launch → Launch) : (s.onLaunch lid f).ckdir = s.ckdir := rfl
@[simp] theorem State.onLaunch_ckpart (s : State) (lid : Nat) (f : Launch → Launch) : (s.onLaunch lid f).ckpart = s.ckpart := rfl
@[simp] theorem State.onLaunch_ckrun (s : State) (lid : Nat) (f : Launch → Launch) : (s.onLaunch lid f).ckrun = s.ckrun := rfl
@[simp] theorem State.onLaunch_qports (s : State) (lid : Nat) (f : Launch → Launch) : (s.onLaunch lid f).qports = s.qports := rfl
@[simp] theorem State.onLaunch_aports (s : State) (lid : Nat) (f : Launch → Launch) : (s.onLaunch lid f).aports = s.aports := rfl
@[simp] theorem State.onLaunch_rows (s : State) (lid : Nat) (f : Launch → Launch) : (s.onLaunch lid f).rows = s.rows := rfl
@[simp] theorem State.onLaunch_bankHolds (s : State) (lid : Nat) (f : Launch → Launch) : (s.onLaunch lid f).bankHolds = s.bankHolds := rfl
@[simp] theorem State.onLaunch_slices (s : State) (lid : Nat) (f : Launch → Launch) : (s.onLaunch lid f).slices = s.slices := rfl
@[simp] theorem State.onLaunch_channels (s : State) (lid : Nat) (f : Launch → Launch) : (s.onLaunch lid f).channels = s.channels := rfl
@[simp] theorem State.onLaunch_recent (s : State) (lid : Nat) (f : Launch → Launch) : (s.onLaunch lid f).recent = s.recent := rfl
@[simp] theorem State.onLaunch_frozen (s : State) (lid : Nat) (f : Launch → Launch) : (s.onLaunch lid f).frozen = s.frozen := rfl
@[simp] theorem State.onLaunch_census (s : State) (lid : Nat) (f : Launch → Launch) : (s.onLaunch lid f).census = s.census := rfl
@[simp] theorem State.onLaunch_gen (s : State) (lid : Nat) (f : Launch → Launch) : (s.onLaunch lid f).gen = s.gen := rfl
@[simp] theorem State.onLaunch_genEnd (s : State) (lid : Nat) (f : Launch → Launch) : (s.onLaunch lid f).genEnd = s.genEnd := rfl
@[simp] theorem State.onLaunch_owedLink (s : State) (lid : Nat) (f : Launch → Launch) : (s.onLaunch lid f).owedLink = s.owedLink := rfl
@[simp] theorem State.onLaunch_hostData (s : State) (lid : Nat) (f : Launch → Launch) : (s.onLaunch lid f).hostData = s.hostData := rfl
@[simp] theorem State.onLaunch_fw (s : State) (lid : Nat) (f : Launch → Launch) : (s.onLaunch lid f).fw = s.fw := rfl

/-! ### `State.store` -/

@[simp] theorem State.store_agenda (s : State) (pa : Nat) (bs : List Byte) : (s.store pa bs).agenda = s.agenda := rfl
@[simp] theorem State.store_sel (s : State) (pa : Nat) (bs : List Byte) : (s.store pa bs).sel = s.sel := rfl
@[simp] theorem State.store_free (s : State) (pa : Nat) (bs : List Byte) : (s.store pa bs).free = s.free := rfl
@[simp] theorem State.store_clock (s : State) (pa : Nat) (bs : List Byte) : (s.store pa bs).clock = s.clock := rfl
@[simp] theorem State.store_wins (s : State) (pa : Nat) (bs : List Byte) : (s.store pa bs).wins = s.wins := rfl
@[simp] theorem State.store_mem (s : State) (pa : Nat) (bs : List Byte) : (s.store pa bs).mem = memWriteN s.mem (homeOf s.devno pa) bs := rfl
@[simp] theorem State.store_cur (s : State) (pa : Nat) (bs : List Byte) : (s.store pa bs).cur = s.cur := rfl
@[simp] theorem State.store_blk (s : State) (pa : Nat) (bs : List Byte) : (s.store pa bs).blk = s.blk := rfl
@[simp] theorem State.store_teams (s : State) (pa : Nat) (bs : List Byte) : (s.store pa bs).teams = s.teams := rfl
@[simp] theorem State.store_blocks (s : State) (pa : Nat) (bs : List Byte) : (s.store pa bs).blocks = s.blocks := rfl
@[simp] theorem State.store_saved (s : State) (pa : Nat) (bs : List Byte) : (s.store pa bs).saved = s.saved := rfl
@[simp] theorem State.store_launches (s : State) (pa : Nat) (bs : List Byte) : (s.store pa bs).launches = s.launches := rfl
@[simp] theorem State.store_nextId (s : State) (pa : Nat) (bs : List Byte) : (s.store pa bs).nextId = s.nextId := rfl
@[simp] theorem State.store_nextToken (s : State) (pa : Nat) (bs : List Byte) : (s.store pa bs).nextToken = s.nextToken := rfl
@[simp] theorem State.store_ages (s : State) (pa : Nat) (bs : List Byte) : (s.store pa bs).ages = s.ages := rfl
@[simp] theorem State.store_cores (s : State) (pa : Nat) (bs : List Byte) : (s.store pa bs).cores = s.cores := rfl
@[simp] theorem State.store_piers (s : State) (pa : Nat) (bs : List Byte) : (s.store pa bs).piers = s.piers := rfl
@[simp] theorem State.store_funcs (s : State) (pa : Nat) (bs : List Byte) : (s.store pa bs).funcs = s.funcs := rfl
@[simp] theorem State.store_parts (s : State) (pa : Nat) (bs : List Byte) : (s.store pa bs).parts = s.parts := rfl
@[simp] theorem State.store_asids (s : State) (pa : Nat) (bs : List Byte) : (s.store pa bs).asids = s.asids := rfl
@[simp] theorem State.store_tlb (s : State) (pa : Nat) (bs : List Byte) : (s.store pa bs).tlb = s.tlb := rfl
@[simp] theorem State.store_holders (s : State) (pa : Nat) (bs : List Byte) : (s.store pa bs).holders = s.holders := rfl
@[simp] theorem State.store_invals (s : State) (pa : Nat) (bs : List Byte) : (s.store pa bs).invals = s.invals := rfl
@[simp] theorem State.store_invalHeld (s : State) (pa : Nat) (bs : List Byte) : (s.store pa bs).invalHeld = s.invalHeld := rfl
@[simp] theorem State.store_channel (s : State) (pa : Nat) (bs : List Byte) : (s.store pa bs).channel = s.channel := rfl
@[simp] theorem State.store_devno (s : State) (pa : Nat) (bs : List Byte) : (s.store pa bs).devno = s.devno := rfl
@[simp] theorem State.store_numvf (s : State) (pa : Nat) (bs : List Byte) : (s.store pa bs).numvf = s.numvf := rfl
@[simp] theorem State.store_raathr (s : State) (pa : Nat) (bs : List Byte) : (s.store pa bs).raathr = s.raathr := rfl
@[simp] theorem State.store_ckhost (s : State) (pa : Nat) (bs : List Byte) : (s.store pa bs).ckhost = s.ckhost := rfl
@[simp] theorem State.store_ckstat (s : State) (pa : Nat) (bs : List Byte) : (s.store pa bs).ckstat = s.ckstat := rfl
@[simp] theorem State.store_ckdir (s : State) (pa : Nat) (bs : List Byte) : (s.store pa bs).ckdir = s.ckdir := rfl
@[simp] theorem State.store_ckpart (s : State) (pa : Nat) (bs : List Byte) : (s.store pa bs).ckpart = s.ckpart := rfl
@[simp] theorem State.store_ckrun (s : State) (pa : Nat) (bs : List Byte) : (s.store pa bs).ckrun = s.ckrun := rfl
@[simp] theorem State.store_qports (s : State) (pa : Nat) (bs : List Byte) : (s.store pa bs).qports = s.qports := rfl
@[simp] theorem State.store_aports (s : State) (pa : Nat) (bs : List Byte) : (s.store pa bs).aports = s.aports := rfl
@[simp] theorem State.store_rows (s : State) (pa : Nat) (bs : List Byte) : (s.store pa bs).rows = s.rows := rfl
@[simp] theorem State.store_bankHolds (s : State) (pa : Nat) (bs : List Byte) : (s.store pa bs).bankHolds = s.bankHolds := rfl
@[simp] theorem State.store_slices (s : State) (pa : Nat) (bs : List Byte) : (s.store pa bs).slices = s.slices := rfl
@[simp] theorem State.store_channels (s : State) (pa : Nat) (bs : List Byte) : (s.store pa bs).channels = s.channels := rfl
@[simp] theorem State.store_recent (s : State) (pa : Nat) (bs : List Byte) : (s.store pa bs).recent = s.recent := rfl
@[simp] theorem State.store_frozen (s : State) (pa : Nat) (bs : List Byte) : (s.store pa bs).frozen = s.frozen := rfl
@[simp] theorem State.store_census (s : State) (pa : Nat) (bs : List Byte) : (s.store pa bs).census = s.census := rfl
@[simp] theorem State.store_gen (s : State) (pa : Nat) (bs : List Byte) : (s.store pa bs).gen = s.gen := rfl
@[simp] theorem State.store_genEnd (s : State) (pa : Nat) (bs : List Byte) : (s.store pa bs).genEnd = s.genEnd := rfl
@[simp] theorem State.store_owedLink (s : State) (pa : Nat) (bs : List Byte) : (s.store pa bs).owedLink = s.owedLink := rfl
@[simp] theorem State.store_hostData (s : State) (pa : Nat) (bs : List Byte) : (s.store pa bs).hostData = s.hostData := rfl
@[simp] theorem State.store_fw (s : State) (pa : Nat) (bs : List Byte) : (s.store pa bs).fw = s.fw := rfl

/-! ### `State.retire` -/

@[simp] theorem State.retire_agenda (s : State) (i : Instr) (n : Nat) : (s.retire i n).agenda = s.agenda := rfl
@[simp] theorem State.retire_sel (s : State) (i : Instr) (n : Nat) : (s.retire i n).sel = false := rfl
@[simp] theorem State.retire_free (s : State) (i : Instr) (n : Nat) : (s.retire i n).free = s.free := rfl
@[simp] theorem State.retire_clock (s : State) (i : Instr) (n : Nat) : (s.retire i n).clock = s.clock := rfl
@[simp] theorem State.retire_wins (s : State) (i : Instr) (n : Nat) : (s.retire i n).wins = s.wins := rfl
@[simp] theorem State.retire_mem (s : State) (i : Instr) (n : Nat) : (s.retire i n).mem = s.mem := rfl
@[simp] theorem State.retire_teams (s : State) (i : Instr) (n : Nat) : (s.retire i n).teams = s.teams := rfl
@[simp] theorem State.retire_blocks (s : State) (i : Instr) (n : Nat) : (s.retire i n).blocks = s.blocks := rfl
@[simp] theorem State.retire_saved (s : State) (i : Instr) (n : Nat) : (s.retire i n).saved = s.saved := rfl
@[simp] theorem State.retire_launches (s : State) (i : Instr) (n : Nat) : (s.retire i n).launches = s.launches := rfl
@[simp] theorem State.retire_nextId (s : State) (i : Instr) (n : Nat) : (s.retire i n).nextId = s.nextId := rfl
@[simp] theorem State.retire_nextToken (s : State) (i : Instr) (n : Nat) : (s.retire i n).nextToken = s.nextToken := rfl
@[simp] theorem State.retire_ages (s : State) (i : Instr) (n : Nat) : (s.retire i n).ages = s.ages := rfl
@[simp] theorem State.retire_piers (s : State) (i : Instr) (n : Nat) : (s.retire i n).piers = s.piers := rfl
@[simp] theorem State.retire_funcs (s : State) (i : Instr) (n : Nat) : (s.retire i n).funcs = s.funcs := rfl
@[simp] theorem State.retire_parts (s : State) (i : Instr) (n : Nat) : (s.retire i n).parts = s.parts := rfl
@[simp] theorem State.retire_asids (s : State) (i : Instr) (n : Nat) : (s.retire i n).asids = s.asids := rfl
@[simp] theorem State.retire_tlb (s : State) (i : Instr) (n : Nat) : (s.retire i n).tlb = s.tlb := rfl
@[simp] theorem State.retire_holders (s : State) (i : Instr) (n : Nat) : (s.retire i n).holders = s.holders := rfl
@[simp] theorem State.retire_invals (s : State) (i : Instr) (n : Nat) : (s.retire i n).invals = s.invals := rfl
@[simp] theorem State.retire_invalHeld (s : State) (i : Instr) (n : Nat) : (s.retire i n).invalHeld = s.invalHeld := rfl
@[simp] theorem State.retire_channel (s : State) (i : Instr) (n : Nat) : (s.retire i n).channel = s.channel := rfl
@[simp] theorem State.retire_devno (s : State) (i : Instr) (n : Nat) : (s.retire i n).devno = s.devno := rfl
@[simp] theorem State.retire_numvf (s : State) (i : Instr) (n : Nat) : (s.retire i n).numvf = s.numvf := rfl
@[simp] theorem State.retire_raathr (s : State) (i : Instr) (n : Nat) : (s.retire i n).raathr = s.raathr := rfl
@[simp] theorem State.retire_ckhost (s : State) (i : Instr) (n : Nat) : (s.retire i n).ckhost = s.ckhost := rfl
@[simp] theorem State.retire_ckstat (s : State) (i : Instr) (n : Nat) : (s.retire i n).ckstat = s.ckstat := rfl
@[simp] theorem State.retire_ckdir (s : State) (i : Instr) (n : Nat) : (s.retire i n).ckdir = s.ckdir := rfl
@[simp] theorem State.retire_ckpart (s : State) (i : Instr) (n : Nat) : (s.retire i n).ckpart = s.ckpart := rfl
@[simp] theorem State.retire_ckrun (s : State) (i : Instr) (n : Nat) : (s.retire i n).ckrun = s.ckrun := rfl
@[simp] theorem State.retire_qports (s : State) (i : Instr) (n : Nat) : (s.retire i n).qports = s.qports := rfl
@[simp] theorem State.retire_aports (s : State) (i : Instr) (n : Nat) : (s.retire i n).aports = s.aports := rfl
@[simp] theorem State.retire_rows (s : State) (i : Instr) (n : Nat) : (s.retire i n).rows = s.rows := rfl
@[simp] theorem State.retire_bankHolds (s : State) (i : Instr) (n : Nat) : (s.retire i n).bankHolds = s.bankHolds := rfl
@[simp] theorem State.retire_slices (s : State) (i : Instr) (n : Nat) : (s.retire i n).slices = s.slices := rfl
@[simp] theorem State.retire_channels (s : State) (i : Instr) (n : Nat) : (s.retire i n).channels = s.channels := rfl
@[simp] theorem State.retire_recent (s : State) (i : Instr) (n : Nat) : (s.retire i n).recent = s.recent := rfl
@[simp] theorem State.retire_frozen (s : State) (i : Instr) (n : Nat) : (s.retire i n).frozen = s.frozen := rfl
@[simp] theorem State.retire_census (s : State) (i : Instr) (n : Nat) : (s.retire i n).census = s.census := rfl
@[simp] theorem State.retire_gen (s : State) (i : Instr) (n : Nat) : (s.retire i n).gen = s.gen := rfl
@[simp] theorem State.retire_genEnd (s : State) (i : Instr) (n : Nat) : (s.retire i n).genEnd = s.genEnd := rfl
@[simp] theorem State.retire_owedLink (s : State) (i : Instr) (n : Nat) : (s.retire i n).owedLink = s.owedLink := rfl
@[simp] theorem State.retire_hostData (s : State) (i : Instr) (n : Nat) : (s.retire i n).hostData = s.hostData := rfl
@[simp] theorem State.retire_fw (s : State) (i : Instr) (n : Nat) : (s.retire i n).fw = s.fw := rfl

/-! ### `State.stall` -/

@[simp] theorem State.stall_agenda (s : State) (w : Wait) : (s.stall w).agenda = s.agenda := rfl
@[simp] theorem State.stall_sel (s : State) (w : Wait) : (s.stall w).sel = false := rfl
@[simp] theorem State.stall_free (s : State) (w : Wait) : (s.stall w).free = s.free := rfl
@[simp] theorem State.stall_clock (s : State) (w : Wait) : (s.stall w).clock = s.clock := rfl
@[simp] theorem State.stall_wins (s : State) (w : Wait) : (s.stall w).wins = s.wins := rfl
@[simp] theorem State.stall_mem (s : State) (w : Wait) : (s.stall w).mem = s.mem := rfl
@[simp] theorem State.stall_blk (s : State) (w : Wait) : (s.stall w).blk = s.blk := rfl
@[simp] theorem State.stall_teams (s : State) (w : Wait) : (s.stall w).teams = s.teams := rfl
@[simp] theorem State.stall_blocks (s : State) (w : Wait) : (s.stall w).blocks = s.blocks := rfl
@[simp] theorem State.stall_saved (s : State) (w : Wait) : (s.stall w).saved = s.saved := rfl
@[simp] theorem State.stall_launches (s : State) (w : Wait) : (s.stall w).launches = s.launches := rfl
@[simp] theorem State.stall_nextId (s : State) (w : Wait) : (s.stall w).nextId = s.nextId := rfl
@[simp] theorem State.stall_nextToken (s : State) (w : Wait) : (s.stall w).nextToken = s.nextToken := rfl
@[simp] theorem State.stall_ages (s : State) (w : Wait) : (s.stall w).ages = s.ages := rfl
@[simp] theorem State.stall_cores (s : State) (w : Wait) : (s.stall w).cores = s.cores := rfl
@[simp] theorem State.stall_piers (s : State) (w : Wait) : (s.stall w).piers = s.piers := rfl
@[simp] theorem State.stall_funcs (s : State) (w : Wait) : (s.stall w).funcs = s.funcs := rfl
@[simp] theorem State.stall_parts (s : State) (w : Wait) : (s.stall w).parts = s.parts := rfl
@[simp] theorem State.stall_asids (s : State) (w : Wait) : (s.stall w).asids = s.asids := rfl
@[simp] theorem State.stall_tlb (s : State) (w : Wait) : (s.stall w).tlb = s.tlb := rfl
@[simp] theorem State.stall_holders (s : State) (w : Wait) : (s.stall w).holders = s.holders := rfl
@[simp] theorem State.stall_invals (s : State) (w : Wait) : (s.stall w).invals = s.invals := rfl
@[simp] theorem State.stall_invalHeld (s : State) (w : Wait) : (s.stall w).invalHeld = s.invalHeld := rfl
@[simp] theorem State.stall_channel (s : State) (w : Wait) : (s.stall w).channel = s.channel := rfl
@[simp] theorem State.stall_devno (s : State) (w : Wait) : (s.stall w).devno = s.devno := rfl
@[simp] theorem State.stall_numvf (s : State) (w : Wait) : (s.stall w).numvf = s.numvf := rfl
@[simp] theorem State.stall_raathr (s : State) (w : Wait) : (s.stall w).raathr = s.raathr := rfl
@[simp] theorem State.stall_ckhost (s : State) (w : Wait) : (s.stall w).ckhost = s.ckhost := rfl
@[simp] theorem State.stall_ckstat (s : State) (w : Wait) : (s.stall w).ckstat = s.ckstat := rfl
@[simp] theorem State.stall_ckdir (s : State) (w : Wait) : (s.stall w).ckdir = s.ckdir := rfl
@[simp] theorem State.stall_ckpart (s : State) (w : Wait) : (s.stall w).ckpart = s.ckpart := rfl
@[simp] theorem State.stall_ckrun (s : State) (w : Wait) : (s.stall w).ckrun = s.ckrun := rfl
@[simp] theorem State.stall_qports (s : State) (w : Wait) : (s.stall w).qports = s.qports := rfl
@[simp] theorem State.stall_aports (s : State) (w : Wait) : (s.stall w).aports = s.aports := rfl
@[simp] theorem State.stall_rows (s : State) (w : Wait) : (s.stall w).rows = s.rows := rfl
@[simp] theorem State.stall_bankHolds (s : State) (w : Wait) : (s.stall w).bankHolds = s.bankHolds := rfl
@[simp] theorem State.stall_slices (s : State) (w : Wait) : (s.stall w).slices = s.slices := rfl
@[simp] theorem State.stall_channels (s : State) (w : Wait) : (s.stall w).channels = s.channels := rfl
@[simp] theorem State.stall_recent (s : State) (w : Wait) : (s.stall w).recent = s.recent := rfl
@[simp] theorem State.stall_frozen (s : State) (w : Wait) : (s.stall w).frozen = s.frozen := rfl
@[simp] theorem State.stall_census (s : State) (w : Wait) : (s.stall w).census = s.census := rfl
@[simp] theorem State.stall_gen (s : State) (w : Wait) : (s.stall w).gen = s.gen := rfl
@[simp] theorem State.stall_genEnd (s : State) (w : Wait) : (s.stall w).genEnd = s.genEnd := rfl
@[simp] theorem State.stall_owedLink (s : State) (w : Wait) : (s.stall w).owedLink = s.owedLink := rfl
@[simp] theorem State.stall_hostData (s : State) (w : Wait) : (s.stall w).hostData = s.hostData := rfl
@[simp] theorem State.stall_fw (s : State) (w : Wait) : (s.stall w).fw = s.fw := rfl

/-! ### `State.settle` -/

@[simp] theorem State.settle_agenda (s : State) : (s.settle ).agenda = s.agenda := rfl
@[simp] theorem State.settle_sel (s : State) : (s.settle ).sel = s.sel := rfl
@[simp] theorem State.settle_free (s : State) : (s.settle ).free = s.free := rfl
@[simp] theorem State.settle_clock (s : State) : (s.settle ).clock = s.clock := rfl
@[simp] theorem State.settle_wins (s : State) : (s.settle ).wins = s.wins := rfl
@[simp] theorem State.settle_mem (s : State) : (s.settle ).mem = s.mem := rfl
@[simp] theorem State.settle_cur (s : State) : (s.settle ).cur = s.cur.landed (s.landAt s.cur.core) := rfl
@[simp] theorem State.settle_blk (s : State) : (s.settle ).blk = landBalctl s.blk (s.cur.due (s.landAt s.cur.core)) := rfl
@[simp] theorem State.settle_teams (s : State) : (s.settle ).teams = s.teams := rfl
@[simp] theorem State.settle_blocks (s : State) : (s.settle ).blocks = s.blocks := rfl
@[simp] theorem State.settle_saved (s : State) : (s.settle ).saved = s.saved := rfl
@[simp] theorem State.settle_launches (s : State) : (s.settle ).launches = s.launches := rfl
@[simp] theorem State.settle_nextId (s : State) : (s.settle ).nextId = s.nextId := rfl
@[simp] theorem State.settle_nextToken (s : State) : (s.settle ).nextToken = s.nextToken := rfl
@[simp] theorem State.settle_ages (s : State) : (s.settle ).ages = s.ages := rfl
@[simp] theorem State.settle_cores (s : State) : (s.settle ).cores = s.cores := rfl
@[simp] theorem State.settle_piers (s : State) : (s.settle ).piers = s.piers := rfl
@[simp] theorem State.settle_funcs (s : State) : (s.settle ).funcs = s.funcs := rfl
@[simp] theorem State.settle_parts (s : State) : (s.settle ).parts = s.parts := rfl
@[simp] theorem State.settle_asids (s : State) : (s.settle ).asids = s.asids := rfl
@[simp] theorem State.settle_tlb (s : State) : (s.settle ).tlb = s.tlb := rfl
@[simp] theorem State.settle_holders (s : State) : (s.settle ).holders = s.holders := rfl
@[simp] theorem State.settle_invals (s : State) : (s.settle ).invals = s.invals := rfl
@[simp] theorem State.settle_invalHeld (s : State) : (s.settle ).invalHeld = s.invalHeld := rfl
@[simp] theorem State.settle_channel (s : State) : (s.settle ).channel = s.channel := rfl
@[simp] theorem State.settle_devno (s : State) : (s.settle ).devno = s.devno := rfl
@[simp] theorem State.settle_numvf (s : State) : (s.settle ).numvf = s.numvf := rfl
@[simp] theorem State.settle_raathr (s : State) : (s.settle ).raathr = s.raathr := rfl
@[simp] theorem State.settle_ckhost (s : State) : (s.settle ).ckhost = s.ckhost := rfl
@[simp] theorem State.settle_ckstat (s : State) : (s.settle ).ckstat = s.ckstat := rfl
@[simp] theorem State.settle_ckdir (s : State) : (s.settle ).ckdir = s.ckdir := rfl
@[simp] theorem State.settle_ckpart (s : State) : (s.settle ).ckpart = s.ckpart := rfl
@[simp] theorem State.settle_ckrun (s : State) : (s.settle ).ckrun = s.ckrun := rfl
@[simp] theorem State.settle_qports (s : State) : (s.settle ).qports = s.qports := rfl
@[simp] theorem State.settle_aports (s : State) : (s.settle ).aports = s.aports := rfl
@[simp] theorem State.settle_rows (s : State) : (s.settle ).rows = s.rows := rfl
@[simp] theorem State.settle_bankHolds (s : State) : (s.settle ).bankHolds = s.bankHolds := rfl
@[simp] theorem State.settle_slices (s : State) : (s.settle ).slices = s.slices := rfl
@[simp] theorem State.settle_channels (s : State) : (s.settle ).channels = s.channels := rfl
@[simp] theorem State.settle_recent (s : State) : (s.settle ).recent = s.recent := rfl
@[simp] theorem State.settle_frozen (s : State) : (s.settle ).frozen = s.frozen := rfl
@[simp] theorem State.settle_census (s : State) : (s.settle ).census = s.census := rfl
@[simp] theorem State.settle_gen (s : State) : (s.settle ).gen = s.gen := rfl
@[simp] theorem State.settle_genEnd (s : State) : (s.settle ).genEnd = s.genEnd := rfl
@[simp] theorem State.settle_owedLink (s : State) : (s.settle ).owedLink = s.owedLink := rfl
@[simp] theorem State.settle_hostData (s : State) : (s.settle ).hostData = s.hostData := rfl
@[simp] theorem State.settle_fw (s : State) : (s.settle ).fw = s.fw := rfl

/-! ### `State.advance` -/

@[simp] theorem State.advance_agenda (s : State) (i : Instr) (n : Nat) : (s.advance i n).agenda = s.agenda := rfl
@[simp] theorem State.advance_free (s : State) (i : Instr) (n : Nat) : (s.advance i n).free = s.free := rfl
@[simp] theorem State.advance_clock (s : State) (i : Instr) (n : Nat) : (s.advance i n).clock = s.clock := rfl
@[simp] theorem State.advance_wins (s : State) (i : Instr) (n : Nat) : (s.advance i n).wins = s.wins := rfl
@[simp] theorem State.advance_mem (s : State) (i : Instr) (n : Nat) : (s.advance i n).mem = s.mem := rfl
@[simp] theorem State.advance_teams (s : State) (i : Instr) (n : Nat) : (s.advance i n).teams = s.teams := rfl
@[simp] theorem State.advance_blocks (s : State) (i : Instr) (n : Nat) : (s.advance i n).blocks = s.blocks := rfl
@[simp] theorem State.advance_saved (s : State) (i : Instr) (n : Nat) : (s.advance i n).saved = s.saved := rfl
@[simp] theorem State.advance_launches (s : State) (i : Instr) (n : Nat) : (s.advance i n).launches = s.launches := rfl
@[simp] theorem State.advance_nextId (s : State) (i : Instr) (n : Nat) : (s.advance i n).nextId = s.nextId := rfl
@[simp] theorem State.advance_nextToken (s : State) (i : Instr) (n : Nat) : (s.advance i n).nextToken = s.nextToken := rfl
@[simp] theorem State.advance_ages (s : State) (i : Instr) (n : Nat) : (s.advance i n).ages = s.ages := rfl
@[simp] theorem State.advance_piers (s : State) (i : Instr) (n : Nat) : (s.advance i n).piers = s.piers := rfl
@[simp] theorem State.advance_funcs (s : State) (i : Instr) (n : Nat) : (s.advance i n).funcs = s.funcs := rfl
@[simp] theorem State.advance_parts (s : State) (i : Instr) (n : Nat) : (s.advance i n).parts = s.parts := rfl
@[simp] theorem State.advance_asids (s : State) (i : Instr) (n : Nat) : (s.advance i n).asids = s.asids := rfl
@[simp] theorem State.advance_tlb (s : State) (i : Instr) (n : Nat) : (s.advance i n).tlb = s.tlb := rfl
@[simp] theorem State.advance_holders (s : State) (i : Instr) (n : Nat) : (s.advance i n).holders = s.holders := rfl
@[simp] theorem State.advance_invals (s : State) (i : Instr) (n : Nat) : (s.advance i n).invals = s.invals := rfl
@[simp] theorem State.advance_invalHeld (s : State) (i : Instr) (n : Nat) : (s.advance i n).invalHeld = s.invalHeld := rfl
@[simp] theorem State.advance_channel (s : State) (i : Instr) (n : Nat) : (s.advance i n).channel = s.channel := rfl
@[simp] theorem State.advance_devno (s : State) (i : Instr) (n : Nat) : (s.advance i n).devno = s.devno := rfl
@[simp] theorem State.advance_numvf (s : State) (i : Instr) (n : Nat) : (s.advance i n).numvf = s.numvf := rfl
@[simp] theorem State.advance_raathr (s : State) (i : Instr) (n : Nat) : (s.advance i n).raathr = s.raathr := rfl
@[simp] theorem State.advance_ckhost (s : State) (i : Instr) (n : Nat) : (s.advance i n).ckhost = s.ckhost := rfl
@[simp] theorem State.advance_ckstat (s : State) (i : Instr) (n : Nat) : (s.advance i n).ckstat = s.ckstat := rfl
@[simp] theorem State.advance_ckdir (s : State) (i : Instr) (n : Nat) : (s.advance i n).ckdir = s.ckdir := rfl
@[simp] theorem State.advance_ckpart (s : State) (i : Instr) (n : Nat) : (s.advance i n).ckpart = s.ckpart := rfl
@[simp] theorem State.advance_ckrun (s : State) (i : Instr) (n : Nat) : (s.advance i n).ckrun = s.ckrun := rfl
@[simp] theorem State.advance_qports (s : State) (i : Instr) (n : Nat) : (s.advance i n).qports = s.qports := rfl
@[simp] theorem State.advance_aports (s : State) (i : Instr) (n : Nat) : (s.advance i n).aports = s.aports := rfl
@[simp] theorem State.advance_rows (s : State) (i : Instr) (n : Nat) : (s.advance i n).rows = s.rows := rfl
@[simp] theorem State.advance_bankHolds (s : State) (i : Instr) (n : Nat) : (s.advance i n).bankHolds = s.bankHolds := rfl
@[simp] theorem State.advance_slices (s : State) (i : Instr) (n : Nat) : (s.advance i n).slices = s.slices := rfl
@[simp] theorem State.advance_channels (s : State) (i : Instr) (n : Nat) : (s.advance i n).channels = s.channels := rfl
@[simp] theorem State.advance_recent (s : State) (i : Instr) (n : Nat) : (s.advance i n).recent = s.recent := rfl
@[simp] theorem State.advance_frozen (s : State) (i : Instr) (n : Nat) : (s.advance i n).frozen = s.frozen := rfl
@[simp] theorem State.advance_census (s : State) (i : Instr) (n : Nat) : (s.advance i n).census = s.census := rfl
@[simp] theorem State.advance_gen (s : State) (i : Instr) (n : Nat) : (s.advance i n).gen = s.gen := rfl
@[simp] theorem State.advance_genEnd (s : State) (i : Instr) (n : Nat) : (s.advance i n).genEnd = s.genEnd := rfl
@[simp] theorem State.advance_owedLink (s : State) (i : Instr) (n : Nat) : (s.advance i n).owedLink = s.owedLink := rfl
@[simp] theorem State.advance_hostData (s : State) (i : Instr) (n : Nat) : (s.advance i n).hostData = s.hostData := rfl
@[simp] theorem State.advance_fw (s : State) (i : Instr) (n : Nat) : (s.advance i n).fw = s.fw := rfl
@[simp] theorem State.advance_sel (s : State) (i : Instr) (n : Nat) : (s.advance i n).sel = false := rfl
@[simp] theorem State.advance_cur_st (s : State) (i : Instr) (n : Nat) : (s.advance i n).cur.st = s.cur.st := rfl
@[simp] theorem State.advance_cur_uid (s : State) (i : Instr) (n : Nat) : (s.advance i n).cur.uid = s.cur.uid := rfl
@[simp] theorem State.advance_cur_bid (s : State) (i : Instr) (n : Nat) : (s.advance i n).cur.bid = s.cur.bid := rfl
@[simp] theorem State.advance_cur_lid (s : State) (i : Instr) (n : Nat) : (s.advance i n).cur.lid = s.cur.lid := rfl
@[simp] theorem State.advance_cur_d (s : State) (i : Instr) (n : Nat) : (s.advance i n).cur.d = s.cur.d := rfl
@[simp] theorem State.advance_cur_tno (s : State) (i : Instr) (n : Nat) : (s.advance i n).cur.tno = s.cur.tno := rfl
@[simp] theorem State.advance_cur_bx (s : State) (i : Instr) (n : Nat) : (s.advance i n).cur.bx = s.cur.bx := rfl
@[simp] theorem State.advance_cur_byy (s : State) (i : Instr) (n : Nat) : (s.advance i n).cur.byy = s.cur.byy := rfl
@[simp] theorem State.advance_cur_bz (s : State) (i : Instr) (n : Nat) : (s.advance i n).cur.bz = s.cur.bz := rfl
@[simp] theorem State.advance_cur_core (s : State) (i : Instr) (n : Nat) : (s.advance i n).cur.core = s.cur.core := rfl
@[simp] theorem State.advance_cur_quad (s : State) (i : Instr) (n : Nat) : (s.advance i n).cur.quad = s.cur.quad := rfl
@[simp] theorem State.advance_cur_slot (s : State) (i : Instr) (n : Nat) : (s.advance i n).cur.slot = s.cur.slot := rfl
@[simp] theorem State.advance_cur_handler (s : State) (i : Instr) (n : Nat) : (s.advance i n).cur.handler = s.cur.handler := rfl
@[simp] theorem State.advance_cur_age (s : State) (i : Instr) (n : Nat) : (s.advance i n).cur.age = s.cur.age := rfl
@[simp] theorem State.advance_cur_mask (s : State) (i : Instr) (n : Nat) : (s.advance i n).cur.mask = s.cur.mask := rfl
@[simp] theorem State.advance_cur_ended (s : State) (i : Instr) (n : Nat) : (s.advance i n).cur.ended = s.cur.ended := rfl
@[simp] theorem State.advance_cur_v (s : State) (i : Instr) (n : Nat) : (s.advance i n).cur.v = s.cur.v := rfl
@[simp] theorem State.advance_cur_p (s : State) (i : Instr) (n : Nat) : (s.advance i n).cur.p = s.cur.p := rfl
@[simp] theorem State.advance_cur_s (s : State) (i : Instr) (n : Nat) : (s.advance i n).cur.s = s.cur.s := rfl
@[simp] theorem State.advance_cur_origin (s : State) (i : Instr) (n : Nat) : (s.advance i n).cur.origin = s.cur.origin := rfl
@[simp] theorem State.advance_cur_tiles (s : State) (i : Instr) (n : Nat) : (s.advance i n).cur.tiles = s.cur.tiles := rfl
@[simp] theorem State.advance_cur_tags (s : State) (i : Instr) (n : Nat) : (s.advance i n).cur.tags = s.cur.tags := rfl
@[simp] theorem State.advance_cur_cpy (s : State) (i : Instr) (n : Nat) : (s.advance i n).cur.cpy = s.cur.cpy := rfl
@[simp] theorem State.advance_cur_mtx (s : State) (i : Instr) (n : Nat) : (s.advance i n).cur.mtx = s.cur.mtx := rfl
@[simp] theorem State.advance_cur_opened (s : State) (i : Instr) (n : Nat) : (s.advance i n).cur.opened = s.cur.opened := rfl
@[simp] theorem State.advance_cur_msg (s : State) (i : Instr) (n : Nat) : (s.advance i n).cur.msg = s.cur.msg := rfl
@[simp] theorem State.advance_cur_unreported (s : State) (i : Instr) (n : Nat) : (s.advance i n).cur.unreported = s.cur.unreported := rfl
@[simp] theorem State.advance_cur_batch (s : State) (i : Instr) (n : Nat) : (s.advance i n).cur.batch = s.cur.batch := rfl
@[simp] theorem State.advance_cur_pins (s : State) (i : Instr) (n : Nat) : (s.advance i n).cur.pins = s.cur.pins := rfl
@[simp] theorem State.advance_cur_mark (s : State) (i : Instr) (n : Nat) : (s.advance i n).cur.mark = s.cur.mark := rfl
@[simp] theorem State.advance_cur_late (s : State) (i : Instr) (n : Nat) : (s.advance i n).cur.late = s.cur.late := rfl
@[simp] theorem State.advance_cur_stack (s : State) (i : Instr) (n : Nat) : (s.advance i n).cur.stack = s.cur.stack := rfl
@[simp] theorem State.advance_cur_ins (s : State) (i : Instr) (n : Nat) : (s.advance i n).cur.ins = s.cur.ins := rfl
@[simp] theorem State.advance_cur_stores (s : State) (i : Instr) (n : Nat) : (s.advance i n).cur.stores = s.cur.stores := rfl
@[simp] theorem State.advance_cur_waiting (s : State) (i : Instr) (n : Nat) : (s.advance i n).cur.waiting = s.cur.waiting := rfl
@[simp] theorem State.advance_cur_flight (s : State) (i : Instr) (n : Nat) : (s.advance i n).cur.flight = s.cur.flight := rfl
@[simp] theorem State.advance_cur_uloc (s : State) (i : Instr) (n : Nat) : (s.advance i n).cur.uloc = s.cur.uloc := rfl
@[simp] theorem State.advance_cur_urem (s : State) (i : Instr) (n : Nat) : (s.advance i n).cur.urem = s.cur.urem := rfl
@[simp] theorem State.advance_cur_accesses (s : State) (i : Instr) (n : Nat) : (s.advance i n).cur.accesses = s.cur.accesses := rfl
@[simp] theorem State.advance_cur_fences (s : State) (i : Instr) (n : Nat) : (s.advance i n).cur.fences = s.cur.fences := rfl
@[simp] theorem State.advance_cur_fix (s : State) (i : Instr) (n : Nat) : (s.advance i n).cur.fix = s.cur.fix := rfl
@[simp] theorem State.advance_cur_tagged (s : State) (i : Instr) (n : Nat) : (s.advance i n).cur.tagged = s.cur.tagged := rfl
@[simp] theorem State.advance_cur_spad (s : State) (i : Instr) (n : Nat) : (s.advance i n).cur.spad = s.cur.spad := rfl
@[simp] theorem State.advance_cur_held (s : State) (i : Instr) (n : Nat) : (s.advance i n).cur.held = s.cur.held := rfl
@[simp] theorem State.advance_cur_draw (s : State) (i : Instr) (n : Nat) : (s.advance i n).cur.draw = s.cur.draw := rfl
@[simp] theorem State.advance_cur_rndkey (s : State) (i : Instr) (n : Nat) : (s.advance i n).cur.rndkey = s.cur.rndkey := rfl
@[simp] theorem State.advance_cur_fpctl (s : State) (i : Instr) (n : Nat) : (s.advance i n).cur.fpctl = s.cur.fpctl := rfl
@[simp] theorem State.advance_cur_fpstat (s : State) (i : Instr) (n : Nat) : (s.advance i n).cur.fpstat = s.cur.fpstat := rfl
@[simp] theorem State.advance_cur_sbthr (s : State) (i : Instr) (n : Nat) : (s.advance i n).cur.sbthr = s.cur.sbthr := rfl
@[simp] theorem State.advance_cur_replays (s : State) (i : Instr) (n : Nat) : (s.advance i n).cur.replays = s.cur.replays := rfl
@[simp] theorem State.advance_cur_quant (s : State) (i : Instr) (n : Nat) : (s.advance i n).cur.quant = s.cur.quant := rfl
@[simp] theorem State.advance_cur_cpyerr (s : State) (i : Instr) (n : Nat) : (s.advance i n).cur.cpyerr = s.cur.cpyerr := rfl
@[simp] theorem State.advance_cur_amask (s : State) (i : Instr) (n : Nat) : (s.advance i n).cur.amask = s.cur.amask := rfl
@[simp] theorem State.advance_cur_hmode (s : State) (i : Instr) (n : Nat) : (s.advance i n).cur.hmode = s.cur.hmode := rfl
@[simp] theorem State.advance_cur_nopre (s : State) (i : Instr) (n : Nat) : (s.advance i n).cur.nopre = s.cur.nopre := rfl
@[simp] theorem State.advance_cur_apend (s : State) (i : Instr) (n : Nat) : (s.advance i n).cur.apend = s.cur.apend := rfl
@[simp] theorem State.advance_cur_recs (s : State) (i : Instr) (n : Nat) : (s.advance i n).cur.recs = s.cur.recs := rfl
@[simp] theorem State.advance_cur_cause (s : State) (i : Instr) (n : Nat) : (s.advance i n).cur.cause = s.cur.cause := rfl
@[simp] theorem State.advance_cur_datum (s : State) (i : Instr) (n : Nat) : (s.advance i n).cur.datum = s.cur.datum := rfl
@[simp] theorem State.advance_cur_trapmask (s : State) (i : Instr) (n : Nat) : (s.advance i n).cur.trapmask = s.cur.trapmask := rfl
@[simp] theorem State.advance_cur_trappc (s : State) (i : Instr) (n : Nat) : (s.advance i n).cur.trappc = s.cur.trappc := rfl
@[simp] theorem State.advance_cur_trappcHi (s : State) (i : Instr) (n : Nat) : (s.advance i n).cur.trappcHi = s.cur.trappcHi := rfl
@[simp] theorem State.advance_cur_clockHi (s : State) (i : Instr) (n : Nat) : (s.advance i n).cur.clockHi = s.cur.clockHi := rfl
@[simp] theorem State.advance_cur_rndkeyHi (s : State) (i : Instr) (n : Nat) : (s.advance i n).cur.rndkeyHi = s.cur.rndkeyHi := rfl
@[simp] theorem State.advance_cur_base (s : State) (i : Instr) (n : Nat) : (s.advance i n).cur.base = s.cur.base := rfl
@[simp] theorem State.advance_cur_savedAmask (s : State) (i : Instr) (n : Nat) : (s.advance i n).cur.savedAmask = s.cur.savedAmask := rfl
@[simp] theorem State.advance_cur_last (s : State) (i : Instr) (n : Nat) : (s.advance i n).cur.last = s.cur.last := rfl
@[simp] theorem State.advance_cur_synced (s : State) (i : Instr) (n : Nat) : (s.advance i n).cur.synced = s.cur.synced := rfl
@[simp] theorem State.advance_cur_kept (s : State) (i : Instr) (n : Nat) : (s.advance i n).cur.kept = s.cur.kept := rfl
@[simp] theorem State.advance_cur_yieldAt (s : State) (i : Instr) (n : Nat) : (s.advance i n).cur.yieldAt = s.cur.yieldAt := rfl
@[simp] theorem State.advance_cur_burn (s : State) (i : Instr) (n : Nat) : (s.advance i n).cur.burn = s.cur.burn := rfl
@[simp] theorem State.advance_cur_burnFrom (s : State) (i : Instr) (n : Nat) : (s.advance i n).cur.burnFrom = s.cur.burnFrom := rfl
@[simp] theorem State.advance_cur_window (s : State) (i : Instr) (n : Nat) : (s.advance i n).cur.window = s.cur.window := rfl
@[simp] theorem State.advance_cur_named (s : State) (i : Instr) (n : Nat) : (s.advance i n).cur.named = s.cur.named := rfl
@[simp] theorem State.advance_cur_tagRegs (s : State) (i : Instr) (n : Nat) : (s.advance i n).cur.tagRegs = s.cur.tagRegs := rfl
@[simp] theorem State.advance_cur_retired (s : State) (i : Instr) (n : Nat) : (s.advance i n).cur.retired = s.cur.retired := rfl
@[simp] theorem State.advance_cur_qdone (s : State) (i : Instr) (n : Nat) : (s.advance i n).cur.qdone = s.cur.qdone := rfl
@[simp] theorem State.advance_cur_dheld (s : State) (i : Instr) (n : Nat) : (s.advance i n).cur.dheld = s.cur.dheld := rfl
@[simp] theorem State.advance_cur_qacted (s : State) (i : Instr) (n : Nat) :
    (s.advance i n).cur.qacted = (s.cur.qacted || s.cur.d.dmode) := rfl
@[simp] theorem State.advance_cur_dkill (s : State) (i : Instr) (n : Nat) : (s.advance i n).cur.dkill = s.cur.dkill := rfl
@[simp] theorem State.advance_cur_laid (s : State) (i : Instr) (n : Nat) : (s.advance i n).cur.laid = s.cur.laid := rfl
@[simp] theorem State.advance_cur_srReads (s : State) (i : Instr) (n : Nat) : (s.advance i n).cur.srReads = s.cur.srReads := rfl
@[simp] theorem State.advance_cur_bad (s : State) (i : Instr) (n : Nat) : (s.advance i n).cur.bad = s.cur.bad := rfl
@[simp] theorem State.advance_cur_at_ (s : State) (i : Instr) (n : Nat) : (s.advance i n).cur.at_ = nextPt s.cur.at_ i := rfl
@[simp] theorem State.advance_cur_wait (s : State) (i : Instr) (n : Nat) : (s.advance i n).cur.wait = .none := rfl
@[simp] theorem State.advance_cur_begun (s : State) (i : Instr) (n : Nat) : (s.advance i n).cur.begun = none := rfl
@[simp] theorem State.advance_cur_starve (s : State) (i : Instr) (n : Nat) : (s.advance i n).cur.starve = if s.cur.paid then s.cur.starve else 0 := rfl
@[simp] theorem State.advance_cur_drainFirst (s : State) (i : Instr) (n : Nat) : (s.advance i n).cur.drainFirst = (dlyOf i == 7) := rfl

/-! ### `Team.schedule` -/

@[simp] theorem Team.schedule_st (t : Team) (n : Nat) (ws : List RegWrite) : (t.schedule n ws).st = t.st := rfl
@[simp] theorem Team.schedule_uid (t : Team) (n : Nat) (ws : List RegWrite) : (t.schedule n ws).uid = t.uid := rfl
@[simp] theorem Team.schedule_bid (t : Team) (n : Nat) (ws : List RegWrite) : (t.schedule n ws).bid = t.bid := rfl
@[simp] theorem Team.schedule_lid (t : Team) (n : Nat) (ws : List RegWrite) : (t.schedule n ws).lid = t.lid := rfl
@[simp] theorem Team.schedule_d (t : Team) (n : Nat) (ws : List RegWrite) : (t.schedule n ws).d = t.d := rfl
@[simp] theorem Team.schedule_tno (t : Team) (n : Nat) (ws : List RegWrite) : (t.schedule n ws).tno = t.tno := rfl
@[simp] theorem Team.schedule_bx (t : Team) (n : Nat) (ws : List RegWrite) : (t.schedule n ws).bx = t.bx := rfl
@[simp] theorem Team.schedule_byy (t : Team) (n : Nat) (ws : List RegWrite) : (t.schedule n ws).byy = t.byy := rfl
@[simp] theorem Team.schedule_bz (t : Team) (n : Nat) (ws : List RegWrite) : (t.schedule n ws).bz = t.bz := rfl
@[simp] theorem Team.schedule_core (t : Team) (n : Nat) (ws : List RegWrite) : (t.schedule n ws).core = t.core := rfl
@[simp] theorem Team.schedule_quad (t : Team) (n : Nat) (ws : List RegWrite) : (t.schedule n ws).quad = t.quad := rfl
@[simp] theorem Team.schedule_slot (t : Team) (n : Nat) (ws : List RegWrite) : (t.schedule n ws).slot = t.slot := rfl
@[simp] theorem Team.schedule_handler (t : Team) (n : Nat) (ws : List RegWrite) : (t.schedule n ws).handler = t.handler := rfl
@[simp] theorem Team.schedule_age (t : Team) (n : Nat) (ws : List RegWrite) : (t.schedule n ws).age = t.age := rfl
@[simp] theorem Team.schedule_starve (t : Team) (n : Nat) (ws : List RegWrite) : (t.schedule n ws).starve = t.starve := rfl
@[simp] theorem Team.schedule_at_ (t : Team) (n : Nat) (ws : List RegWrite) : (t.schedule n ws).at_ = t.at_ := rfl
@[simp] theorem Team.schedule_mask (t : Team) (n : Nat) (ws : List RegWrite) : (t.schedule n ws).mask = t.mask := rfl
@[simp] theorem Team.schedule_ended (t : Team) (n : Nat) (ws : List RegWrite) : (t.schedule n ws).ended = t.ended := rfl
@[simp] theorem Team.schedule_origin (t : Team) (n : Nat) (ws : List RegWrite) : (t.schedule n ws).origin = t.origin := rfl
@[simp] theorem Team.schedule_tiles (t : Team) (n : Nat) (ws : List RegWrite) : (t.schedule n ws).tiles = t.tiles := rfl
@[simp] theorem Team.schedule_tags (t : Team) (n : Nat) (ws : List RegWrite) : (t.schedule n ws).tags = t.tags := rfl
@[simp] theorem Team.schedule_cpy (t : Team) (n : Nat) (ws : List RegWrite) : (t.schedule n ws).cpy = t.cpy := rfl
@[simp] theorem Team.schedule_mtx (t : Team) (n : Nat) (ws : List RegWrite) : (t.schedule n ws).mtx = t.mtx := rfl
@[simp] theorem Team.schedule_opened (t : Team) (n : Nat) (ws : List RegWrite) : (t.schedule n ws).opened = t.opened := rfl
@[simp] theorem Team.schedule_msg (t : Team) (n : Nat) (ws : List RegWrite) : (t.schedule n ws).msg = t.msg := rfl
@[simp] theorem Team.schedule_unreported (t : Team) (n : Nat) (ws : List RegWrite) : (t.schedule n ws).unreported = t.unreported := rfl
@[simp] theorem Team.schedule_batch (t : Team) (n : Nat) (ws : List RegWrite) : (t.schedule n ws).batch = t.batch := rfl
@[simp] theorem Team.schedule_pins (t : Team) (n : Nat) (ws : List RegWrite) : (t.schedule n ws).pins = t.pins := rfl
@[simp] theorem Team.schedule_mark (t : Team) (n : Nat) (ws : List RegWrite) : (t.schedule n ws).mark = t.mark := rfl
@[simp] theorem Team.schedule_late (t : Team) (n : Nat) (ws : List RegWrite) : (t.schedule n ws).late = t.late := rfl
@[simp] theorem Team.schedule_stack (t : Team) (n : Nat) (ws : List RegWrite) : (t.schedule n ws).stack = t.stack := rfl
@[simp] theorem Team.schedule_ins (t : Team) (n : Nat) (ws : List RegWrite) : (t.schedule n ws).ins = t.ins := rfl
@[simp] theorem Team.schedule_stores (t : Team) (n : Nat) (ws : List RegWrite) : (t.schedule n ws).stores = t.stores := rfl
@[simp] theorem Team.schedule_waiting (t : Team) (n : Nat) (ws : List RegWrite) : (t.schedule n ws).waiting = t.waiting := rfl
@[simp] theorem Team.schedule_flight (t : Team) (n : Nat) (ws : List RegWrite) : (t.schedule n ws).flight = t.flight := rfl
@[simp] theorem Team.schedule_uloc (t : Team) (n : Nat) (ws : List RegWrite) : (t.schedule n ws).uloc = t.uloc := rfl
@[simp] theorem Team.schedule_urem (t : Team) (n : Nat) (ws : List RegWrite) : (t.schedule n ws).urem = t.urem := rfl
@[simp] theorem Team.schedule_accesses (t : Team) (n : Nat) (ws : List RegWrite) : (t.schedule n ws).accesses = t.accesses := rfl
@[simp] theorem Team.schedule_fences (t : Team) (n : Nat) (ws : List RegWrite) : (t.schedule n ws).fences = t.fences := rfl
@[simp] theorem Team.schedule_tagged (t : Team) (n : Nat) (ws : List RegWrite) : (t.schedule n ws).tagged = t.tagged := rfl
@[simp] theorem Team.schedule_spad (t : Team) (n : Nat) (ws : List RegWrite) : (t.schedule n ws).spad = t.spad := rfl
@[simp] theorem Team.schedule_held (t : Team) (n : Nat) (ws : List RegWrite) : (t.schedule n ws).held = t.held := rfl
@[simp] theorem Team.schedule_draw (t : Team) (n : Nat) (ws : List RegWrite) : (t.schedule n ws).draw = t.draw := rfl
@[simp] theorem Team.schedule_rndkey (t : Team) (n : Nat) (ws : List RegWrite) : (t.schedule n ws).rndkey = t.rndkey := rfl
@[simp] theorem Team.schedule_fpctl (t : Team) (n : Nat) (ws : List RegWrite) : (t.schedule n ws).fpctl = t.fpctl := rfl
@[simp] theorem Team.schedule_fpstat (t : Team) (n : Nat) (ws : List RegWrite) : (t.schedule n ws).fpstat = t.fpstat := rfl
@[simp] theorem Team.schedule_sbthr (t : Team) (n : Nat) (ws : List RegWrite) : (t.schedule n ws).sbthr = t.sbthr := rfl
@[simp] theorem Team.schedule_replays (t : Team) (n : Nat) (ws : List RegWrite) : (t.schedule n ws).replays = t.replays := rfl
@[simp] theorem Team.schedule_quant (t : Team) (n : Nat) (ws : List RegWrite) : (t.schedule n ws).quant = t.quant := rfl
@[simp] theorem Team.schedule_cpyerr (t : Team) (n : Nat) (ws : List RegWrite) : (t.schedule n ws).cpyerr = t.cpyerr := rfl
@[simp] theorem Team.schedule_amask (t : Team) (n : Nat) (ws : List RegWrite) : (t.schedule n ws).amask = t.amask := rfl
@[simp] theorem Team.schedule_hmode (t : Team) (n : Nat) (ws : List RegWrite) : (t.schedule n ws).hmode = t.hmode := rfl
@[simp] theorem Team.schedule_nopre (t : Team) (n : Nat) (ws : List RegWrite) : (t.schedule n ws).nopre = t.nopre := rfl
@[simp] theorem Team.schedule_apend (t : Team) (n : Nat) (ws : List RegWrite) : (t.schedule n ws).apend = t.apend := rfl
@[simp] theorem Team.schedule_recs (t : Team) (n : Nat) (ws : List RegWrite) : (t.schedule n ws).recs = t.recs := rfl
@[simp] theorem Team.schedule_cause (t : Team) (n : Nat) (ws : List RegWrite) : (t.schedule n ws).cause = t.cause := rfl
@[simp] theorem Team.schedule_datum (t : Team) (n : Nat) (ws : List RegWrite) : (t.schedule n ws).datum = t.datum := rfl
@[simp] theorem Team.schedule_trapmask (t : Team) (n : Nat) (ws : List RegWrite) : (t.schedule n ws).trapmask = t.trapmask := rfl
@[simp] theorem Team.schedule_trappc (t : Team) (n : Nat) (ws : List RegWrite) : (t.schedule n ws).trappc = t.trappc := rfl
@[simp] theorem Team.schedule_trappcHi (t : Team) (n : Nat) (ws : List RegWrite) : (t.schedule n ws).trappcHi = t.trappcHi := rfl
@[simp] theorem Team.schedule_clockHi (t : Team) (n : Nat) (ws : List RegWrite) : (t.schedule n ws).clockHi = t.clockHi := rfl
@[simp] theorem Team.schedule_rndkeyHi (t : Team) (n : Nat) (ws : List RegWrite) : (t.schedule n ws).rndkeyHi = t.rndkeyHi := rfl
@[simp] theorem Team.schedule_base (t : Team) (n : Nat) (ws : List RegWrite) : (t.schedule n ws).base = t.base := rfl
@[simp] theorem Team.schedule_savedAmask (t : Team) (n : Nat) (ws : List RegWrite) : (t.schedule n ws).savedAmask = t.savedAmask := rfl
@[simp] theorem Team.schedule_last (t : Team) (n : Nat) (ws : List RegWrite) : (t.schedule n ws).last = t.last := rfl
@[simp] theorem Team.schedule_synced (t : Team) (n : Nat) (ws : List RegWrite) : (t.schedule n ws).synced = t.synced := rfl
@[simp] theorem Team.schedule_begun (t : Team) (n : Nat) (ws : List RegWrite) : (t.schedule n ws).begun = t.begun := rfl
@[simp] theorem Team.schedule_kept (t : Team) (n : Nat) (ws : List RegWrite) : (t.schedule n ws).kept = t.kept := rfl
@[simp] theorem Team.schedule_yieldAt (t : Team) (n : Nat) (ws : List RegWrite) : (t.schedule n ws).yieldAt = t.yieldAt := rfl
@[simp] theorem Team.schedule_burn (t : Team) (n : Nat) (ws : List RegWrite) : (t.schedule n ws).burn = t.burn := rfl
@[simp] theorem Team.schedule_burnFrom (t : Team) (n : Nat) (ws : List RegWrite) : (t.schedule n ws).burnFrom = t.burnFrom := rfl
@[simp] theorem Team.schedule_window (t : Team) (n : Nat) (ws : List RegWrite) : (t.schedule n ws).window = t.window := rfl
@[simp] theorem Team.schedule_wait (t : Team) (n : Nat) (ws : List RegWrite) : (t.schedule n ws).wait = t.wait := rfl
@[simp] theorem Team.schedule_readyAt (t : Team) (n : Nat) (ws : List RegWrite) : (t.schedule n ws).readyAt = t.readyAt := rfl
@[simp] theorem Team.schedule_drainFirst (t : Team) (n : Nat) (ws : List RegWrite) : (t.schedule n ws).drainFirst = t.drainFirst := rfl
@[simp] theorem Team.schedule_named (t : Team) (n : Nat) (ws : List RegWrite) : (t.schedule n ws).named = t.named := rfl
@[simp] theorem Team.schedule_tagRegs (t : Team) (n : Nat) (ws : List RegWrite) : (t.schedule n ws).tagRegs = t.tagRegs := rfl
@[simp] theorem Team.schedule_retired (t : Team) (n : Nat) (ws : List RegWrite) : (t.schedule n ws).retired = t.retired := rfl
@[simp] theorem Team.schedule_qdone (t : Team) (n : Nat) (ws : List RegWrite) : (t.schedule n ws).qdone = t.qdone := rfl
@[simp] theorem Team.schedule_dheld (t : Team) (n : Nat) (ws : List RegWrite) : (t.schedule n ws).dheld = t.dheld := rfl
@[simp] theorem Team.schedule_qacted (t : Team) (n : Nat) (ws : List RegWrite) : (t.schedule n ws).qacted = t.qacted := rfl
@[simp] theorem Team.schedule_dkill (t : Team) (n : Nat) (ws : List RegWrite) : (t.schedule n ws).dkill = t.dkill := rfl
@[simp] theorem Team.schedule_laid (t : Team) (n : Nat) (ws : List RegWrite) : (t.schedule n ws).laid = t.laid := rfl
@[simp] theorem Team.schedule_srReads (t : Team) (n : Nat) (ws : List RegWrite) : (t.schedule n ws).srReads = t.srReads := rfl
@[simp] theorem Team.schedule_bad (t : Team) (n : Nat) (ws : List RegWrite) : (t.schedule n ws).bad = t.bad := rfl

/-! ### `Team.counted` -/

@[simp] theorem Team.counted_st (t : Team) (i : Instr) : (t.counted i).st = t.st := rfl
@[simp] theorem Team.counted_uid (t : Team) (i : Instr) : (t.counted i).uid = t.uid := rfl
@[simp] theorem Team.counted_bid (t : Team) (i : Instr) : (t.counted i).bid = t.bid := rfl
@[simp] theorem Team.counted_lid (t : Team) (i : Instr) : (t.counted i).lid = t.lid := rfl
@[simp] theorem Team.counted_d (t : Team) (i : Instr) : (t.counted i).d = t.d := rfl
@[simp] theorem Team.counted_tno (t : Team) (i : Instr) : (t.counted i).tno = t.tno := rfl
@[simp] theorem Team.counted_bx (t : Team) (i : Instr) : (t.counted i).bx = t.bx := rfl
@[simp] theorem Team.counted_byy (t : Team) (i : Instr) : (t.counted i).byy = t.byy := rfl
@[simp] theorem Team.counted_bz (t : Team) (i : Instr) : (t.counted i).bz = t.bz := rfl
@[simp] theorem Team.counted_core (t : Team) (i : Instr) : (t.counted i).core = t.core := rfl
@[simp] theorem Team.counted_quad (t : Team) (i : Instr) : (t.counted i).quad = t.quad := rfl
@[simp] theorem Team.counted_slot (t : Team) (i : Instr) : (t.counted i).slot = t.slot := rfl
@[simp] theorem Team.counted_handler (t : Team) (i : Instr) : (t.counted i).handler = t.handler := rfl
@[simp] theorem Team.counted_age (t : Team) (i : Instr) : (t.counted i).age = t.age := rfl
@[simp] theorem Team.counted_starve (t : Team) (i : Instr) : (t.counted i).starve = t.starve := rfl
@[simp] theorem Team.counted_at_ (t : Team) (i : Instr) : (t.counted i).at_ = t.at_ := rfl
@[simp] theorem Team.counted_mask (t : Team) (i : Instr) : (t.counted i).mask = t.mask := rfl
@[simp] theorem Team.counted_ended (t : Team) (i : Instr) : (t.counted i).ended = t.ended := rfl
@[simp] theorem Team.counted_v (t : Team) (i : Instr) : (t.counted i).v = t.v := rfl
@[simp] theorem Team.counted_p (t : Team) (i : Instr) : (t.counted i).p = t.p := rfl
@[simp] theorem Team.counted_s (t : Team) (i : Instr) : (t.counted i).s = t.s := rfl
@[simp] theorem Team.counted_origin (t : Team) (i : Instr) : (t.counted i).origin = t.origin := rfl
@[simp] theorem Team.counted_tiles (t : Team) (i : Instr) : (t.counted i).tiles = t.tiles := rfl
@[simp] theorem Team.counted_tags (t : Team) (i : Instr) : (t.counted i).tags = t.tags := rfl
@[simp] theorem Team.counted_cpy (t : Team) (i : Instr) : (t.counted i).cpy = t.cpy := rfl
@[simp] theorem Team.counted_mtx (t : Team) (i : Instr) : (t.counted i).mtx = t.mtx := rfl
@[simp] theorem Team.counted_opened (t : Team) (i : Instr) : (t.counted i).opened = t.opened := rfl
@[simp] theorem Team.counted_msg (t : Team) (i : Instr) : (t.counted i).msg = t.msg := rfl
@[simp] theorem Team.counted_unreported (t : Team) (i : Instr) : (t.counted i).unreported = t.unreported := rfl
@[simp] theorem Team.counted_batch (t : Team) (i : Instr) : (t.counted i).batch = t.batch := rfl
@[simp] theorem Team.counted_pins (t : Team) (i : Instr) : (t.counted i).pins = t.pins := rfl
@[simp] theorem Team.counted_mark (t : Team) (i : Instr) : (t.counted i).mark = t.mark := rfl
@[simp] theorem Team.counted_late (t : Team) (i : Instr) : (t.counted i).late = t.late := rfl
@[simp] theorem Team.counted_stack (t : Team) (i : Instr) : (t.counted i).stack = t.stack := rfl
@[simp] theorem Team.counted_ins (t : Team) (i : Instr) : (t.counted i).ins = t.ins := rfl
@[simp] theorem Team.counted_stores (t : Team) (i : Instr) : (t.counted i).stores = t.stores := rfl
@[simp] theorem Team.counted_waiting (t : Team) (i : Instr) : (t.counted i).waiting = t.waiting := rfl
@[simp] theorem Team.counted_flight (t : Team) (i : Instr) : (t.counted i).flight = t.flight := rfl
@[simp] theorem Team.counted_uloc (t : Team) (i : Instr) : (t.counted i).uloc = t.uloc := rfl
@[simp] theorem Team.counted_urem (t : Team) (i : Instr) : (t.counted i).urem = t.urem := rfl
@[simp] theorem Team.counted_accesses (t : Team) (i : Instr) : (t.counted i).accesses = t.accesses := rfl
@[simp] theorem Team.counted_fences (t : Team) (i : Instr) : (t.counted i).fences = t.fences := rfl
@[simp] theorem Team.counted_fix (t : Team) (i : Instr) : (t.counted i).fix = t.fix := rfl
@[simp] theorem Team.counted_tagged (t : Team) (i : Instr) : (t.counted i).tagged = t.tagged := rfl
@[simp] theorem Team.counted_spad (t : Team) (i : Instr) : (t.counted i).spad = t.spad := rfl
@[simp] theorem Team.counted_held (t : Team) (i : Instr) : (t.counted i).held = t.held := rfl
@[simp] theorem Team.counted_draw (t : Team) (i : Instr) : (t.counted i).draw = t.draw := rfl
@[simp] theorem Team.counted_rndkey (t : Team) (i : Instr) : (t.counted i).rndkey = t.rndkey := rfl
@[simp] theorem Team.counted_fpctl (t : Team) (i : Instr) : (t.counted i).fpctl = t.fpctl := rfl
@[simp] theorem Team.counted_fpstat (t : Team) (i : Instr) : (t.counted i).fpstat = t.fpstat := rfl
@[simp] theorem Team.counted_sbthr (t : Team) (i : Instr) : (t.counted i).sbthr = t.sbthr := rfl
@[simp] theorem Team.counted_replays (t : Team) (i : Instr) : (t.counted i).replays = t.replays := rfl
@[simp] theorem Team.counted_quant (t : Team) (i : Instr) : (t.counted i).quant = t.quant := rfl
@[simp] theorem Team.counted_cpyerr (t : Team) (i : Instr) : (t.counted i).cpyerr = t.cpyerr := rfl
@[simp] theorem Team.counted_amask (t : Team) (i : Instr) : (t.counted i).amask = t.amask := rfl
@[simp] theorem Team.counted_hmode (t : Team) (i : Instr) : (t.counted i).hmode = t.hmode := rfl
@[simp] theorem Team.counted_nopre (t : Team) (i : Instr) : (t.counted i).nopre = t.nopre := rfl
@[simp] theorem Team.counted_apend (t : Team) (i : Instr) : (t.counted i).apend = t.apend := rfl
@[simp] theorem Team.counted_recs (t : Team) (i : Instr) : (t.counted i).recs = t.recs := rfl
@[simp] theorem Team.counted_cause (t : Team) (i : Instr) : (t.counted i).cause = t.cause := rfl
@[simp] theorem Team.counted_datum (t : Team) (i : Instr) : (t.counted i).datum = t.datum := rfl
@[simp] theorem Team.counted_trapmask (t : Team) (i : Instr) : (t.counted i).trapmask = t.trapmask := rfl
@[simp] theorem Team.counted_trappc (t : Team) (i : Instr) : (t.counted i).trappc = t.trappc := rfl
@[simp] theorem Team.counted_trappcHi (t : Team) (i : Instr) : (t.counted i).trappcHi = t.trappcHi := rfl
@[simp] theorem Team.counted_clockHi (t : Team) (i : Instr) : (t.counted i).clockHi = t.clockHi := rfl
@[simp] theorem Team.counted_rndkeyHi (t : Team) (i : Instr) : (t.counted i).rndkeyHi = t.rndkeyHi := rfl
@[simp] theorem Team.counted_base (t : Team) (i : Instr) : (t.counted i).base = t.base := rfl
@[simp] theorem Team.counted_savedAmask (t : Team) (i : Instr) : (t.counted i).savedAmask = t.savedAmask := rfl
@[simp] theorem Team.counted_last (t : Team) (i : Instr) : (t.counted i).last = t.last := rfl
@[simp] theorem Team.counted_synced (t : Team) (i : Instr) : (t.counted i).synced = t.synced := rfl
@[simp] theorem Team.counted_begun (t : Team) (i : Instr) : (t.counted i).begun = t.begun := rfl
@[simp] theorem Team.counted_kept (t : Team) (i : Instr) : (t.counted i).kept = t.kept := rfl
@[simp] theorem Team.counted_yieldAt (t : Team) (i : Instr) : (t.counted i).yieldAt = t.yieldAt := rfl
@[simp] theorem Team.counted_burn (t : Team) (i : Instr) : (t.counted i).burn = t.burn := rfl
@[simp] theorem Team.counted_burnFrom (t : Team) (i : Instr) : (t.counted i).burnFrom = t.burnFrom := rfl
@[simp] theorem Team.counted_window (t : Team) (i : Instr) : (t.counted i).window = t.window := rfl
@[simp] theorem Team.counted_wait (t : Team) (i : Instr) : (t.counted i).wait = t.wait := rfl
@[simp] theorem Team.counted_readyAt (t : Team) (i : Instr) : (t.counted i).readyAt = t.readyAt := rfl
@[simp] theorem Team.counted_drainFirst (t : Team) (i : Instr) : (t.counted i).drainFirst = t.drainFirst := rfl
@[simp] theorem Team.counted_tagRegs (t : Team) (i : Instr) : (t.counted i).tagRegs = t.tagRegs := rfl
@[simp] theorem Team.counted_dheld (t : Team) (i : Instr) : (t.counted i).dheld = t.dheld := rfl
@[simp] theorem Team.counted_qacted (t : Team) (i : Instr) : (t.counted i).qacted = t.qacted := rfl
@[simp] theorem Team.counted_dkill (t : Team) (i : Instr) : (t.counted i).dkill = t.dkill := rfl
@[simp] theorem Team.counted_laid (t : Team) (i : Instr) : (t.counted i).laid = t.laid.filter fun x => t.held.any fun h => h.ins == x.ins := rfl
@[simp] theorem Team.counted_srReads (t : Team) (i : Instr) : (t.counted i).srReads = t.srReads := rfl
@[simp] theorem Team.counted_bad (t : Team) (i : Instr) : (t.counted i).bad = t.bad := rfl
@[simp] theorem Team.counted_retired (t : Team) (i : Instr) : (t.counted i).retired = t.retired + 1 := rfl

end Sys2Proof.Machine
end

