-- ==== Sys2Proof/Tests/Slice0.lean ====
section
/-! SUPPORT. The model's own tests: words written out bit by bit from R97 to R112, the terms that are no instruction, one
step on small states, and for each statement states that meet its hypotheses. -/

namespace Sys2Proof.Tests

open Sys2Proof.Machine

set_option Elab.async false

/-! ### Words from the spec's tables (R97 to R112): word 0 is OP L DLY D A B BK, word 1 is C G SBT FN -/

theorem test_word_iadd_short : decodeWords 0b000001_0_011_0000010_0000100_0000110_0 0 = .ok (.iaddShort 3 ⟨2, 4, 6, false⟩) := rfl
theorem test_word_isub_ss : decodeWords 0b000010_1_000_0000010_0000100_0000110_1 0b0000000_0001_000_000000000000000001
    = .ok (.isubLong 0 ⟨false, 1⟩ ⟨2, 4, 6, true⟩ .ss false) := rfl
theorem test_word_imad_uniform : decodeWords 0b000100_1_000_0000010_0000100_0000110_1 0b0001000_0111_000_100000000000000000
    = .ok (.imad 0 Guard.pt ⟨2, 4, 6, true⟩ 8 true) := rfl
theorem test_word_bfi : decodeWords 0b001110_1_000_0000010_0000100_0000110_0 0b0001000_0111_000_000000000000000100
    = .ok (.bfi 0 Guard.pt ⟨2, 4, 6, false⟩ 8 false) := rfl
theorem test_word_icmp_geu : decodeWords 0b001111_1_000_0000011_0000100_0000110_0 0b0000000_1010_000_000000000000001001
    = .ok (.icmp 0 ⟨true, 2⟩ ⟨3, 4, 6, false⟩ .geu) := rfl
theorem test_word_li : decodeWords 0b010001_1_000_0000010_0000000_1001_000_0 0x12345678
    = .ok (.li 0 ⟨true, 1⟩ 2 false 0x12345678) := rfl
theorem test_word_iaddi_uniform : decodeWords 0b010010_1_000_0000010_0000100_0111_000_1 0xFFFFFFFF
    = .ok (.iaddi 0 Guard.pt ⟨2, 4⟩ true 0xFFFFFFFF) := rfl
theorem test_word_sel : decodeWords 0b010011_1_000_0000010_0000100_0000110_0 0b0001101_0111_000_000000000000000000
    = .ok (.sel 0 Guard.pt ⟨2, 4, 6, false⟩ 5 true) := rfl
theorem test_word_lea : decodeWords 0b010100_1_000_0000010_0000100_0000110_0 0b0000000_0111_000_000000000000001101
    = .ok (.lea 0 Guard.pt ⟨2, 4, 6, false⟩ 5 true false) := rfl
theorem test_word_imul_wl : decodeWords 0b010101_1_000_0000010_0000100_0000110_0 0b0000000_0111_000_000000000000001100
    = .ok (.imulWl 0 Guard.pt ⟨2, 4, 6, false⟩ true false) := rfl
theorem test_word_por : decodeWords 0b010110_1_000_0000010_0000100_0000111_0 0b0000000_0111_000_000000000000010001
    = .ok (.por 0 Guard.pt 2 4 7 false true) := rfl
theorem test_word_icvt : decodeWords 0b010111_1_000_0000010_0000100_0000000_0 0b0000000_0111_000_0000000_1_01001_01000
    = .ok (.icvt 0 Guard.pt ⟨2, 4⟩ .int8 .uint8 true false) := rfl
theorem test_word_rnd_key : decodeWords 0b101101_1_000_0000010_0000000_0000000_0 0b0000000_0111_000_000000000000000001
    = .ok (.rnd 0 Guard.pt 2 none) := rfl
theorem test_word_fadd_ftz : decodeWords 0b011000_1_000_0000010_0000100_0000110_0 0b0000000_0111_000_000000000000000110
    = .ok (.faddLong 0 Guard.pt ⟨2, 4, 6, false⟩ .ru true) := rfl
theorem test_word_fclass : decodeWords 0b011101_1_000_0000010_0000100_0000000_0 0b0000000_0111_000_0000_0010000001_1000
    = .ok (.fclass 0 Guard.pt ⟨2, 4⟩ 0b0010000001) := rfl
theorem test_word_flog2 : decodeWords 0b011110_1_000_0000010_0000100_0000000_0 0b0000000_0111_110_000000000000000100
    = .ok (.flog2 0 Guard.pt .sb5 ⟨2, 4⟩ false) := rfl
theorem test_word_dfma : decodeWords 0b100000_1_000_0000010_0000100_0000110_0 0b0001000_0111_000_000000000000101010
    = .ok (.dfma 0 Guard.pt ⟨2, 4, 6, false⟩ 8 .rz true) := rfl
theorem test_word_hfma2_bf : decodeWords 0b100001_1_000_0000010_0000100_0000110_0 0b0001000_0111_000_000000000000001010
    = .ok (.hfma2 0 Guard.pt ⟨2, 4, 6, false⟩ 8 true) := rfl
theorem test_word_f2i : decodeWords 0b100010_1_000_0000010_0000100_0000000_0 0b0000000_0111_000_000_01_01100_00001_000
    = .ok (.f2i 0 Guard.pt ⟨2, 4⟩ .rz .fp64 .int32) := rfl
theorem test_word_pack : decodeWords 0b100010_1_000_0000010_0000100_0000000_0 0b0001000_0111_000_011_00_00100_00000_011
    = .ok (.pack 0 Guard.pt ⟨2, 4⟩ 8 .f8a 3) := rfl
theorem test_word_dp4 : decodeWords 0b100011_1_000_0000010_0000100_0000110_0 0b0001000_0111_000_000000000000001101
    = .ok (.dp4 0 Guard.pt ⟨2, 4, 6, false⟩ 8 .uint8) := rfl
theorem test_word_sbcmp : decodeWords 0b100100_1_000_0000010_0000100_0000110_0 0b0000000_0111_000_000000000000010110
    = .ok (.sbcmp 0 Guard.pt ⟨2, 4, 6, false⟩ .ge) := rfl
theorem test_word_shfl : decodeWords 0b101000_1_000_0000010_0000100_0000110_1 0b0000000_0111_001_000000000000000010
    = .ok (.shfl 0 Guard.pt .sb0 ⟨2, 4, 6, true⟩ .down) := rfl
theorem test_word_gscan : decodeWords 0b101011_1_000_0000010_0000100_0000000_0 0b0000000_0111_001_000000000001111000
    = .ok (.gscan 0 Guard.pt .sb0 ⟨2, 4⟩ .fadd true .rd) := rfl
theorem test_word_reorder : decodeWords 0b101100_1_000_0000000_0000100_0001000_1 0b0000000_0111_000_000000000000000000
    = .ok (.reorder 0 4 8) := rfl
theorem test_word_sts : decodeWords 0b110011_1_000_0000000_0000100_0000110_0 0b0000000_0111_001_011_111111111111111
    = .ok (.sts 0 Guard.pt .sb0 4 6 .b64 0x7FFF) := rfl
theorem test_word_cas : decodeWords 0b110101_1_000_0000010_0000100_0000110_0 0b0001000_0111_001_1_01_100_01_0000000100
    = .ok (.cas 0 Guard.pt .sb0 2 4 6 8 true .acq .ar .block 4) := rfl
theorem test_word_atoms_cas : decodeWords 0b110110_1_000_0000010_0000100_0000110_0 0b0011111_0111_001_010_000000000000100
    = .ok (.atoms 0 Guard.pt .sb0 2 4 6 none false .rlx 4) := rfl
theorem test_word_fence : decodeWords 0b110111_1_000_0000000_0000000_0000000_0 0b0000000_0111_000_000_101_11_0000000000
    = .ok (.fence 0 .sc .sys) := rfl
theorem test_word_mma : decodeWords 0b111000_1_000_0000011_0001000_0010000_0 0b1000101_0111_000_000000_0_0_1_010_011_001
    = .ok (.mma 0 3 8 16 (some 5) 1 .f8b .f8a true) := rfl
theorem test_word_mmas : decodeWords 0b111001_1_000_0000011_0001000_0010000_0 0b0000000_0111_000_101000_10_0_100_100_000
    = .ok (.mmas 0 3 8 16 none 0 .int8 .int8 false .n12 40) := rfl
theorem test_word_ast : decodeWords 0b111010_1_000_0000000_0000100_0001000_1 0b0000011_0111_010_010_110_11_1_0_00000000
    = .ok (.ast 0 .sb1 4 8 3 .int8 .reluClamp true false) := rfl
theorem test_word_qtile : decodeWords 0b111011_1_000_0000000_0000100_0001000_1 0b0000011_0111_010_000_110_01_0000000000
    = .ok (.qtile 0 .sb1 4 8 3 .int4 .b16) := rfl
theorem test_word_bra : decodeWords 0b111110_1_000_0000000_0000000_0000000_0 0b0000000_1011_000_111111111111111110
    = .ok (.bra 0 ⟨true, 3⟩ 0x3FFFE) := rfl
theorem test_word_call : decodeWords 0b111110_1_000_0000110_0000000_0000000_0 0b0000010_0111_000_000000000000000101
    = .ok (.call 0 6 5) := rfl
theorem test_word_bar_sync : decodeWords 0b111111_1_000_0000000_0000000_0000000_0 0b0000010_0111_000_00000000_0_00111_0011
    = .ok (.barSync 0 3 (.count 7)) := rfl
theorem test_word_burn : decodeWords 0b111111_1_000_0000000_0000000_0000000_0 0b0000011_0111_000_00000000000101_0100
    = .ok (.balBurn 0 4 (.imm 5)) := rfl
theorem test_word_trap : decodeWords 0b111111_1_000_0000000_0000000_0000000_0 0b0000110_0010_000_000000000011111111
    = .ok (.trap 0 ⟨false, 2⟩ 0xFF) := rfl
theorem test_word_rtt : decodeWords 0b111111_1_000_0000000_0000000_0000000_0 0b0000111_0111_000_000000000000000010
    = .ok (.rttKill 0) := rfl

/-- R96: the header worked out in the chapter: two instructions, class 3, tags 0 and 1, mtx at or below 2. -/
theorem test_header : decodeHeader 0b0010_011_000011_010_000010_0_0_1011_0000 = some ⟨2, 3, 3, some .mtx, 2, false, false⟩ := by decide
theorem test_header_word : (0b0010_011_000011_010_000010_0_0_1011_0000 : Word) = 0x261A08B0 := by decide
theorem test_header_hints : decodeHeader 0b1111_000_100000_000_000000_1_1_1011_0000 = some ⟨15, 0, 0x20, none, 0, true, true⟩ := by
  decide

/-! ### Words that are none (R96, R113) -/

theorem test_no_word_opcode : decodeWords 0b101111_1_000_0000000_0000000_0000000_0 0 = .error .reservedOpcode := rfl
theorem test_no_word_short : decodeWords 0b000100_0_000_0000010_0000100_0000110_0 0 = .error .noShortForm := rfl
theorem test_no_word_tag : decodeWords 0b000001_1_000_0000010_0000100_0000110_0 0b0000000_0111_001_000000000000000000
    = .error .badTag := rfl
theorem test_no_word_tag7 : decodeWords 0b110000_1_000_0000010_0000100_0000000_0 0b0000000_0111_111_010000000000000000
    = .error .badTag := rfl
theorem test_no_word_zero : decodeWords 0b000001_1_000_0000010_0000100_0000110_0 0b0000001_0111_000_000000000000000000
    = .error .mustBeZero := rfl
theorem test_no_word_guard : decodeWords 0b000001_1_000_0000010_0000100_0000110_1 0b0000000_0000_000_100000000000000000
    = .error .guardNotAllowed := rfl
theorem test_no_word_mode : decodeWords 0b000001_1_000_0000010_0000100_0000110_0 0b0000000_0111_000_000000000000000011
    = .error .reservedCode := rfl
theorem test_no_header : decodeHeader 0b0010_011_000011_000_000010_0_0_1011_0000 = none := by decide

/-! ### Terms that are no instruction (R101, R109, R110, R112, R194) -/

theorem test_ill_uniform : wellFormed (.iaddLong 0 ⟨false, 0⟩ ⟨2, 4, 6, true⟩ .wrap true) = false := by decide
theorem test_ill_plain_scope : wellFormed (.ld 0 Guard.pt .sb0 ⟨2, 4⟩ .b32 .plain .dev 0) = false := by decide
theorem test_ill_ld_rel : wellFormed (.ld 0 Guard.pt .sb0 ⟨2, 4⟩ .b32 .rel .dev 0) = false := by decide
theorem test_ill_ld_ar : wellFormed (.ld 0 Guard.pt .sb0 ⟨2, 4⟩ .b32 .ar .dev 0) = false := by decide
theorem test_ill_st_acq : wellFormed (.st 0 Guard.pt .sb0 4 6 .b32 .acq .dev 0) = false := by decide
theorem test_ill_st_ar : wellFormed (.st 0 Guard.pt .sb0 4 6 .b32 .ar .dev 0) = false := by decide
theorem test_ill_atom_plain : wellFormed (.atom 0 Guard.pt .sb0 2 4 6 .add false .plain .team 0) = false := by decide
theorem test_ill_fadd64 : wellFormed (.atom 0 Guard.pt .sb0 2 4 6 .fadd true .rlx .dev 0) = false := by decide
theorem test_ill_atoms : wellFormed (.atoms 0 Guard.pt .sb0 2 4 6 (some .fadd) true .rlx 0) = false := by decide
theorem test_ill_cas_fail : wellFormed (.cas 0 Guard.pt .sb0 2 4 6 8 false .acq .rel .dev 0) = false := by decide
theorem test_ill_cas_plain : wellFormed (.cas 0 Guard.pt .sb0 2 4 6 8 false .rlx .plain .team 0) = false := by decide
theorem test_ill_fence : wellFormed (.fence 0 .rlx .dev) = false := by decide
theorem test_ill_f2i : wellFormed (.f2i 0 Guard.pt ⟨2, 4⟩ .rne .fp16 .int32) = false := by decide
theorem test_ill_i2f : wellFormed (.i2f 0 Guard.pt ⟨2, 4⟩ .rne .int32 .bf16) = false := by decide
theorem test_ill_f2f_same : wellFormed (.f2f 0 Guard.pt ⟨2, 4⟩ .rne .fp32 .fp32) = false := by decide
theorem test_ill_f2f_narrow_src : wellFormed (.f2f 0 Guard.pt ⟨2, 4⟩ .rne .fp16 .fp32) = false := by decide
theorem test_ill_f2f_mode : wellFormed (.f2f 0 Guard.pt ⟨2, 4⟩ .rz .fp32 .fp16) = false := by decide
theorem test_ill_pack_slot : wellFormed (.pack 0 Guard.pt ⟨2, 4⟩ 8 .fp16 2) = false := by decide
theorem test_ill_pack_wide : wellFormed (.pack 0 Guard.pt ⟨2, 4⟩ 8 .fp32 0) = false := by decide
theorem test_ill_unpk_slot : wellFormed (.unpk 0 Guard.pt ⟨2, 4⟩ .f8a 4) = false := by decide
theorem test_ill_unpk_wide : wellFormed (.unpk 0 Guard.pt ⟨2, 4⟩ .fp64 0) = false := by decide
theorem test_ill_gred_mode : wellFormed (.gred 0 Guard.pt .sb0 ⟨2, 4⟩ .iadd .rz) = false := by decide
theorem test_ill_gscan_mode : wellFormed (.gscan 0 Guard.pt .sb0 ⟨2, 4⟩ .fmin false .rz) = false := by decide
theorem test_ill_send_count : wellFormed (.send 0 Guard.pt 2 4 0 9) = false := by decide
theorem test_ill_send_none : wellFormed (.send 0 Guard.pt 2 4 0 0) = false := by decide
theorem test_ill_event : wellFormed (.dispatch 0) = false ∧ wellFormed (.clauseHeader 0) = false := by decide
theorem test_well_send : wellFormed (.send 0 Guard.pt 2 4 0 8) = true := by decide


/-! ### Small states: one team of 32 lanes that issues next, its handler at 0x2000 -/

def team (s : State) (f : Team → Team) : State := { s with cur := f s.cur }
def block (s : State) (f : Block → Block) : State := { s with blk := f s.blk }
def desc (s : State) (f : Desc → Desc) : State :=
  { s with cur := { s.cur with d := f s.cur.d }, blk := { s.blk with d := f s.blk.d } }

def dmode (s : State) : State := desc s fun d => { d with dmode := true }
def ready : State := { State.reset.withTeam with gen := 1, genEnd := 1 }
def small : State := desc ready fun d => { d with regs := 16, traph := 0x2000 }
def lone : State := desc ready fun d => { d with regs := 16 }
def oneLane : State := team small fun t => { t with mask := 1 }

/-- The checks of an issue, as a test runs them. -/
def issuesB (s : State) (i : Instr) (g : Guard) : Bool :=
  s.cur.window.isNone && !s.settle.cur.reportsFirst && !(s.settle.cur.hmode && handlerForbids i) && !badOperands s.settle.cur i
    && !illegalUse s.settle.cur s.settle.now i && (scoreboardFault s.settle.cur i g s.settle.now).isNone
    && !badRead s.settle.cur i g && !(takingPoint i && !s.settle.cur.hmode && !s.settle.cur.recs.isEmpty)
theorem issues_of {s : State} {i : Instr} {g : Guard} (h : issuesB s i g = true) : Issues s i g := by
  simp only [issuesB, Bool.and_eq_true, Bool.not_eq_true', Option.isNone_iff_eq_none] at h
  obtain ⟨⟨⟨⟨⟨⟨⟨a, b⟩, c⟩, d⟩, e⟩, f⟩, g⟩, h⟩ := h
  exact ⟨a, b, c, d, e, f, g, h⟩
def trapsB (s : State) : Bool :=
  s.cur.window.isNone && !s.settle.cur.reportsFirst && !s.settle.cur.hmode && s.settle.cur.recs.isEmpty && s.settle.cur.d.traph != 0
theorem traps_of {s : State} (h : trapsB s = true) : TrapsHere s := by
  simp only [trapsB, Bool.and_eq_true, Bool.not_eq_true', Option.isNone_iff_eq_none, List.isEmpty_iff, bne_iff_ne, ne_eq] at h
  obtain ⟨⟨⟨⟨a, b⟩, c⟩, d⟩, e⟩ := h
  exact ⟨a, b, c, d, e⟩

/-- A step that answers a next state, and what a test looks at of it. -/
def goes : Host.Outcome State Fault Refusal → Bool
  | .next _ => true
  | .fault _ | .refused _ => false
def after (o : Host.Outcome State Fault Refusal) : State :=
  match o with
  | .next t => t
  | .fault _ | .refused _ => State.reset
theorem next_of {o : Host.Outcome State Fault Refusal} (h : goes o = true) : ∃ t, o = .next t := by
  cases o with
  | next t => exact ⟨t, rfl⟩
  | fault f => cases h
  | refused r => cases h

theorem homed_small : Homed small := by decide +kernel

theorem view_self (t : Team) (w : t.window = none) (h : t.fix = []) (p : t.spad = []) (n : Nat) : t.view n = t := by
  cases t; simp only at w h p; subst w h p; rfl

/-- A team without pending results is in one state as every pass reads it. -/
theorem untrapped_of {s : State} (w : s.settle.cur.window = none) (h : s.settle.cur.fix = []) (p : s.settle.cur.spad = [])
    (a : s.settle.cur.fpctl &&& 0x1F = 0) (b : s.settle.cur.sbthr.getLsbD 31 = false) : Untrapped s := by
  intro n
  rw [view_self s.settle.cur w h p n]
  exact ⟨a, b⟩
theorem untrapped_small : Untrapped small :=
  untrapped_of (by decide +kernel) (by decide +kernel) (by decide +kernel) (by decide +kernel) (by decide +kernel)

/-! ### Integer, floating-point and tagged work -/

theorem witness_DecodeGivesBackEncode : wellFormed (.iaddLong 0 Guard.pt ⟨2, 4, 6, false⟩ .ss true) = true := by decide
theorem witness_EncodeGivesBackDecode : decodeWords 0x0601040C 0x00E20000 = .ok (.iaddLong 0 Guard.pt ⟨2, 4, 6, false⟩ .wrap true) :=
  rfl
theorem witness_EncodeGivesBackDecode_header : (⟨15, 6, 0x3F, none, 0, true, true⟩ : Header).count ≠ 0
    ∧ (⟨15, 6, 0x3F, none, 0, true, true⟩ : Header).eng ≠ 7 := by decide
theorem witness_EncodeGivesBackDecode_none : (0x0000_00B0 : Word).extractLsb' 28 4 = 0
    ∧ (0x1E00_00B0 : Word).extractLsb' 25 3 = 7 ∧ 4 ≤ ((0x1004_00B0 : Word).extractLsb' 16 3).toNat
    ∧ (0x1000_00A0 : Word).extractLsb' 4 4 ≠ 0xB ∧ (0x1000_00B1 : Word).extractLsb' 0 4 ≠ 0 := by decide
theorem witness_MemoryStaysCanonical : small.Canonical ∧ ∃ t, step small = .next t :=
  ⟨by decide +kernel, next_of (by decide +kernel)⟩
theorem witness_IntegerLaneResults : (laneSpec (.iaddLong 0 ⟨true, 7⟩ ⟨2, 4, 6, false⟩ .ss false)).isSome = true
    ∧ Issues small (.iaddLong 0 ⟨true, 7⟩ ⟨2, 4, 6, false⟩ .ss false) ⟨true, 7⟩ := ⟨rfl, issues_of (by decide +kernel)⟩
theorem witness_UniformResults : (uniformSpec (.imulWl 0 Guard.pt ⟨62, 63, 127, true⟩ false true)).isSome = true
    ∧ Issues small (.imulWl 0 Guard.pt ⟨62, 63, 127, true⟩ false true) Guard.pt := ⟨rfl, issues_of (by decide +kernel)⟩
theorem witness_RndAndNop : Issues small (.rnd 0 Guard.pt 15 (some 62)) Guard.pt ∧ Issues small (.nopLong 7 ⟨true, 7⟩) ⟨true, 7⟩
    ∧ Issues small (.qend 0) Guard.pt :=
  ⟨issues_of (by decide +kernel), issues_of (by decide +kernel), issues_of (by decide +kernel)⟩
def landing : Team := { small.cur with fix := [⟨4, .v 15 [(31, ⟨7, 9⟩)]⟩] }
theorem witness_ResultsLandInTime : landing.fix = [⟨4, .v 15 [(31, ⟨7, 9⟩)]⟩] ∧ landing.spad = [] ∧ 15 < landing.v.length
    ∧ 31 < (landing.v.getD 15 []).length ∧ 4 ≤ 4 ∧ 3 < 4 := by decide +kernel
/-- An LDS's pass and another result for the same cell. -/
def meeting : Team := { landing with spad := [⟨5, 0, 3, .plain, false, [.v 15 [(31, ⟨8, 63⟩)]]⟩] }
theorem witness_ResultsLandInTime_spad : meeting.fix = [⟨4, .v 15 [(31, ⟨7, 9⟩)]⟩]
    ∧ meeting.spad = [⟨5, 0, 3, .plain, false, [.v 15 [(31, ⟨8, 63⟩)]]⟩] ∧ 15 < meeting.v.length
    ∧ 31 < (meeting.v.getD 15 []).length ∧ 4 ≤ 4 ∧ 3 ≤ 4 := by decide +kernel
theorem test_spad_older_result : (meeting.landed 4).rv 15 31 = ⟨7, 9⟩
    ∧ (({ meeting with spad := [⟨5, 0, 4, .plain, false, [.v 15 [(31, ⟨8, 63⟩)]]⟩] } : Team).landed 4).rv 15 31 = ⟨8, 63⟩ := by
  decide +kernel
theorem witness_ResultsLandInTime_sreg : ({ small.cur with fix := [⟨4, .s 63 7⟩] } : Team).fix = [⟨4, .s 63 7⟩]
    ∧ 63 < ({ small.cur with fix := [⟨4, .s 63 7⟩] } : Team).s.length
    ∧ ({ small.cur with fix := [⟨4, .flags 0x1F⟩] } : Team).fix = [⟨4, .flags 0x1F⟩] := by decide +kernel
theorem witness_ResultsLandInTime_discard : (⟨10, .v 2 [(0, ⟨1, 63⟩)]⟩ : FixWrite) ∈ [(⟨10, .v 2 [(0, ⟨1, 63⟩)]⟩ : FixWrite)] ∧ 4 < 10 := by
  decide
theorem witness_FloatLaneResults : (floatSpec (.dfma 0 ⟨false, 6⟩ ⟨2, 4, 6, false⟩ 14 .rd true)).isSome = true
    ∧ Issues small (.dfma 0 ⟨false, 6⟩ ⟨2, 4, 6, false⟩ 14 .rd true) ⟨false, 6⟩ ∧ Untrapped small :=
  ⟨rfl, issues_of (by decide +kernel), untrapped_small⟩
theorem witness_CompareWritesPredicate : Issues small (.icmp 0 ⟨true, 2⟩ ⟨3, 4, 6, false⟩ .geu) ⟨true, 2⟩ := issues_of (by decide +kernel)
def landingP : Team := { small.cur with fix := [⟨4, .p 6 [(31, true)]⟩] }
theorem witness_CompareWritesPredicate_read : landingP.fix = [⟨4, .p 6 [(31, true)]⟩] ∧ landingP.spad = [] ∧ 6 < landingP.p.length ∧ 4 ≤ 4 ∧ 3 < 4 := by
  decide +kernel
theorem witness_CompareWritesPredicate_code : decodeWords 0x3E01_040C 0x00E0_0009 = .ok (.icmp 0 Guard.pt ⟨2, 4, 6, false⟩ .geu) := rfl
theorem witness_SetsbWritesCounts_word : decodeWords 0b100100_1_000_0000010_0000000_0000110_0 0x00E0_0001 = .ok (.setsb 0 Guard.pt 2 6 false) := rfl
theorem witness_SetsbWritesCounts : Issues small (.setsb 0 Guard.pt 2 63 true) Guard.pt := issues_of (by decide +kernel)
def landingC : Team := { small.cur with fix := [⟨4, .c 15 [(31, 53)]⟩] }
theorem witness_SetsbWritesCounts_landing : landingC.fix = [⟨4, .c 15 [(31, 53)]⟩] ∧ landingC.spad = [] ∧ 15 < landingC.v.length
    ∧ 31 < (landingC.v.getD 15 []).length ∧ 4 ≤ 4 ∧ 3 < 4 := by decide +kernel
/-- Lane 0 adds 1.0 and 2^-24: inexact, with the inexact trap enabled. -/
def inexact : State := team (team small fun t => { t with mask := 3, p := t.p.set 0 1, fpctl := 0x1F }) fun t =>
  { t with v := (t.v.set 4 (List.replicate 32 ⟨0x3F800000, 63⟩)).set 6 (List.replicate 32 ⟨0x33800000, 63⟩) }
def faddP0 : Instr := .faddLong 0 ⟨false, 0⟩ ⟨2, 4, 6, false⟩ .rne false
def fcmpP0 : Instr := .fcmp 0 ⟨false, 0⟩ ⟨3, 4, 6, false⟩ .lt
/-- An instruction of one lane issues, its result meeting a condition. -/
def oneLaneRuns (s : State) (i : Instr) (g : Guard) (l : Nat) (p : Team → LaneRes → Bool) : Bool :=
  issuesB s i g && passWords s.settle.cur i g == [l / 32]
    && (wordLanes s.settle.cur.mask (l / 32)).filter ((s.settle.view i 0).guardOn g) == [l]
    && !s.settle.cur.hmode && s.settle.cur.recs.isEmpty && s.settle.cur.mask != laneBit l
    && (fpSpec i).any fun x => x.1 == g && p (s.settle.view i 0) (x.2.2 (s.settle.view i 0) l)
def frcpP0 : Instr := .frcp 0 ⟨false, 0⟩ .sb0 ⟨2, 8⟩ false
theorem witness_EnabledFlagTraps : (oneLaneRuns inexact faddP0 ⟨false, 0⟩ 0 fun v r =>
      causeSpec v.fpctl r.flags == some 0x0E && r.vs.head?.map (·.1) == some 2) = true
    ∧ (oneLaneRuns inexact frcpP0 ⟨false, 0⟩ 0 fun v r =>
      causeSpec v.fpctl r.flags == some 0x0B && r.vs.head?.map (·.1) == some 2) = true := by decide +kernel
theorem witness_EnabledFlagTraps_compare : (oneLaneRuns inexact fcmpP0 ⟨false, 0⟩ 0 fun _ r => !r.ps.isEmpty) = true := by decide +kernel
/-- The significance check is on: θ is 63, the count of the registers 5; and θ is the count. -/
def significant (θ : Word) : State := team inexact fun t =>
  { t with fpctl := 0, sbthr := 0x80000000 ||| θ, v := t.v.set 4 (List.replicate 32 ⟨0x3F800000, 5⟩) }
def fmaxP0 : Instr := .fmax 0 ⟨false, 0⟩ ⟨2, 4, 6, false⟩ false
theorem witness_EnabledFlagTraps_significance : ∀ i ∈ [faddP0, fmaxP0, .frcp 0 ⟨false, 0⟩ .sb0 ⟨2, 4⟩ false],
    (oneLaneRuns (significant 63) i ⟨false, 0⟩ 0 fun v r => causeSpec v.fpctl r.flags == none && checkedSpec i && v.sbthr.getLsbD 31
      && r.vs.any fun c => decide (c.2.cnt.toNat < v.sbthr.toNat % 64)) = true := by decide +kernel
theorem witness_EnabledFlagTraps_none : (oneLaneRuns (significant 5) fmaxP0 ⟨false, 0⟩ 0 fun v r => causeSpec v.fpctl r.flags == none
      && r.vs.any fun c => c.2.cnt.toNat == v.sbthr.toNat % 64) = true
    ∧ (oneLaneRuns (significant 63) (.dadd 0 ⟨false, 0⟩ ⟨2, 4, 6, false⟩ .rne false) ⟨false, 0⟩ 0 fun v r =>
      causeSpec v.fpctl r.flags == none && !checkedSpec (.dadd 0 ⟨false, 0⟩ ⟨2, 4, 6, false⟩ .rne false)) = true := by decide +kernel
theorem witness_RoundOfExact : (fmt32.decode 0x80000001).isNan = false ∧ (fmt32.decode 0x7F7FFFFF).isNan = false
    ∧ (fmt32.decode 0xFF800000).isNan = false := by decide +kernel
theorem witness_RoundOfExact_sum : numberOf (fmt32.decode 0x40400000) = some 3 ∧ numberOf (fmt32.decode 0x3F000000) = some (1 / 2)
    ∧ numberOf (fmt32.decode 0x40600000) = some (3 + 1 / 2) ∧ numberOf (fmt32.decode 0x3FC00000) = some (3 * (1 / 2))
    ∧ (3 + 1 / 2 : Rat) ≠ 0 ∧ (3 * (1 / 2) : Rat) ≠ 0 := by decide +kernel
theorem witness_RoundOfExact_bounds : numberOf (.fin true 0x1000001 0) = some (-16777217)
    ∧ numberOf (fmt32.decode (fmt32.round .rd false (.fin true 0x1000001 0)).1) = some (-16777218)
    ∧ numberOf (fmt32.decode (fmt32.round .ru false (.fin true 0x1000001 0)).1) = some (-16777216)
    ∧ numberOf (fmt32.decode (fmt32.round .rz false (.fin true 0x1000001 0)).1) = some (-16777216) := by decide +kernel
/-- 3 × 1/2 + 7/2; and the halves 1 and 2 times 1 and 1, with 7/2. -/
theorem witness_RoundOfExact_fused : numberOf (fmt32.decode 0x40600000) = some (7 / 2)
    ∧ (∀ k : Nat, k < 32 / 16 → numberOf (fmt16.decode (0x40003C00 / 2 ^ (16 * k) % 2 ^ 16)) = some ((k : Rat) + 1)
        ∧ numberOf (fmt16.decode (0x3C003C00 / 2 ^ (16 * k) % 2 ^ 16)) = some 1) := by decide +kernel
theorem witness_RoundOfExact_integers : numberOf (fmt32.decode 0xBFC00000) = some (-(3 / 2)) ∧ numberOf (fmt32.decode 0x3FC00000) = some (3 / 2)
    ∧ (fmt32.decode 0x7FC00000).isNan = true ∧ numberOf (fmt32.decode 0xC0400000) = some (-3)
    ∧ numberOf (fmt32.decode 0xBF000000) = some (-(3 / 2) - (-1)) := by decide +kernel
theorem witness_RoundOfExact_special : numberOf (fmt32.decode 0x40800000) = some 4 ∧ numberOf (fmt32.decode 0x3E800000) = some (1 / 4)
    ∧ (4 * (1 / 4) : Rat) = 1 ∧ numberOf (fmt32.decode 0x40000000) = some 2 ∧ (2 * 2 : Rat) = 4
    ∧ numberOf (fmt32.decode 0x3F000000) = some (1 / 2) ∧ (1 / 2 * (1 / 2) * 4 : Rat) = 1 ∧ (4 : Rat) = (2 : Rat) ^ (2 : Int)
    ∧ numberOf (fmt32.decode 0x80000000) = some 0 ∧ numberOf (fmt32.decode 0x00000000) = some 0 := by decide +kernel
theorem witness_RoundOfExact_reduction : gredInt .umax = some (fun a b => if a.toNat < b.toNat then b else a, 0) := rfl
theorem witness_RoundOfExact_tree : (gredFloat .rd .fadd).isSome = true
    ∧ ([some ⟨1, 9⟩, none] : List (Option VCell)).length = 2 ^ 1 ∧ (∃ x ∈ ([some ⟨1, 9⟩, none] : List (Option VCell)), x ≠ none)
    ∧ ∀ y ∈ ([none, none] : List (Option VCell)), y = none := by decide +kernel
theorem witness_TaggedLaneResults : (taggedSpec (.gscan 0 ⟨true, 0⟩ .sb5 ⟨15, 0⟩ .fadd true .rd)).isSome = true
    ∧ Issues small (.gscan 0 ⟨true, 0⟩ .sb5 ⟨15, 0⟩ .fadd true .rd) ⟨true, 0⟩ ∧ sfuForm (.gscan 0 ⟨true, 0⟩ .sb5 ⟨15, 0⟩ .fadd true .rd) = false
    ∧ Issues small (.frcp 0 Guard.pt .sb0 ⟨2, 4⟩ false) Guard.pt ∧ Untrapped small :=
  ⟨rfl, issues_of (by decide +kernel), rfl, issues_of (by decide +kernel), untrapped_small⟩
/-- GRED on a team that traps every flag. -/
theorem witness_TaggedLaneResults_enabled : Issues inexact (.gred 0 Guard.pt .sb0 ⟨2, 4⟩ .fadd .rne) Guard.pt
    ∧ sfuForm (.gred 0 Guard.pt .sb0 ⟨2, 4⟩ .fadd .rne) = false := ⟨issues_of (by decide +kernel), rfl⟩
def answered : State := team small fun t => { t with tags := 0x20, tagged := [⟨5, [.v 15 [(31, ⟨7, 63⟩)]]⟩] }
theorem witness_ResultsLandInTime_tagged : Homed answered ∧ answered.settle.cur.tagged = [⟨tagIndex .sb5, [.v 15 [(31, ⟨7, 63⟩)]]⟩]
    ∧ answered.settle.cur.accesses = [] ∧ answered.settle.cur.waiting = [] ∧ answered.settle.cur.held = []
    ∧ answered.settle.cur.spad = [] ∧ answered.settle.cur.dheld = [] := by decide +kernel
theorem witness_RegisterInstructionsFrame : registerOnly (.iaddShort 0 ⟨2, 4, 6, false⟩) = true
    ∧ registerOnly (.frcp 0 Guard.pt .sb0 ⟨2, 4⟩ false) = true ∧ ∃ t, exec (.iaddShort 0 ⟨2, 4, 6, false⟩) small = .next t :=
  ⟨rfl, rfl, next_of (by decide +kernel)⟩
theorem witness_ReadAfterWrite : Mem.wf [(3, 1), (5, 2)] = true := by decide

/-! ### The step -/

/-- An integer add, one word; SETSR BALCTL, s0, two words; and a header, each at the place of the team. -/
def atShort : State := small.withFetchWord 32 0x0401_040C
def atLong : State := small.withFetchWord 64 0x12E0_0041_FE00_0001
def atHeader : State :=
  { team (small.withFetchWord 32 0x1000_00B0) fun t => { t with at_ := ⟨0x1000, 0⟩ } with sel := false, parts := small.parts.set 0 { small.part 0 with tenants := [], holder := none } }
def atNone : State := small.withFetchWord 32 0x9400_0000
def fetchedWord (s : State) (pc : DWord) : Option Word :=
  match (s.fetch pc).2 with
  | .ok w => some w
  | .error _ => none
theorem witness_StepRunsFetched : atShort.agenda = [] ∧ atShort.issuing = true ∧ fetchedWord atShort atShort.cur.at_.pc = some 0x0401_040C
    ∧ atShort.cur.redoing = false ∧ atShort.cur.at_.left ≠ 0 ∧ (0x0401_040C : Word).getLsbD 25 = false := by decide +kernel
theorem witness_StepRunsFetched_long : atLong.agenda = [] ∧ atLong.issuing = true ∧ fetchedWord atLong atLong.cur.at_.pc = some 0xFE00_0001
    ∧ fetchedWord (atLong.fetch atLong.cur.at_.pc).1 (atLong.cur.at_.pc + 4) = some 0x12E0_0041
    ∧ atLong.cur.at_.left ≠ 0 := by decide +kernel
theorem witness_StepRunsFetched_header : atHeader.agenda = [] ∧ atHeader.issuing = false ∧ atHeader.ownEvent = none
    ∧ (atHeader.firstChange atHeader.deviceEvents).isNone = true ∧ atHeader.headerDue atHeader.cur = true ∧ Homed atHeader
    ∧ fetchedWord { atHeader with sel := false } atHeader.cur.at_.pc = some 0x1000_00B0 := by decide +kernel
/-- An instruction charged before it waited goes on. -/
def atPaid : State := { team (small.withFetchWord 32 0x0401_040C) fun t => { t with begun := some (t.at_.pc, 3) } with sel := false, parts := atHeader.parts }
theorem witness_StepRunsFetched_silent : atPaid.agenda = [] ∧ atPaid.issuing = false ∧ atPaid.ownEvent = none
    ∧ (atPaid.firstChange atPaid.deviceEvents).isNone = true ∧ atPaid.silentDue atPaid.cur = true ∧ Homed atPaid
    ∧ (State.fetchNext { atPaid with sel := false }).2 = .instr (.iaddShort 0 ⟨2, 4, 6, false⟩) := by decide +kernel
theorem test_step_short : (after (step atShort)).cur.fix.length = 1 ∧ (after (step atShort)).cur.at_ = ⟨0x1004, 0⟩ := by decide +kernel
theorem test_first_step : (after (step (State.reset.withFetchWord 32 0x0401_040C))).cur.fix.length = 1
    ∧ (after (step (State.reset.withFetchWord 64 0x00E2_0000_0601_040C))).cur.fix.length = 1 := by decide +kernel
theorem witness_EveryStepGoesOn : ({ small with agenda := [.issueCycle 0 0] } : State).agenda = .issueCycle 0 0 :: []
    ∧ isEvent (.issueCycle 0 0) = true := by decide +kernel
/-- ICMP with code 10, and in the uniform form. -/
def atIcmp (w1 : Nat) : State := small.withFetchWord 64 (w1 * 2 ^ 32 + 0x3E01_040C)
theorem witness_CompareWritesPredicate_illegal : ∀ w1 ∈ [0x00E0_000A, 0x00E2_0001], (atIcmp w1).agenda = [] ∧ (atIcmp w1).issuing = true
    ∧ (atIcmp w1).cur.at_.left ≠ 0 ∧ fetchedWord (atIcmp w1) (atIcmp w1).cur.at_.pc = some 0x3E01_040C
    ∧ fetchedWord ((atIcmp w1).fetch (atIcmp w1).cur.at_.pc).1 ((atIcmp w1).cur.at_.pc + 4) = some (BitVec.ofNat 32 w1)
    ∧ (0x3E01_040C : Word).extractLsb' 26 6 = 0x0F ∧ (0x3E01_040C : Word).getLsbD 25 = true ∧ (atIcmp w1).cur.redoing = false
    ∧ trapsB (((atIcmp w1).fetch (atIcmp w1).cur.at_.pc).1.fetch ((atIcmp w1).cur.at_.pc + 4)).1 = true := by decide +kernel
theorem witness_IllegalWordsTrap : atNone.agenda = [] ∧ atNone.issuing = true ∧ atNone.cur.redoing = false
    ∧ (atNone.fetchNext).2 = .illegal 0x9400_0000 false ∧ TrapsHere (atNone.fetchNext).1 :=
  ⟨by decide +kernel, by decide +kernel, by decide +kernel, by decide +kernel, traps_of (by decide +kernel)⟩
/-- The code stands above the addresses that are mapped, and on no mapped page. -/
def atHigh : State := team small fun t => { t with at_ := ⟨0x100000000000000, 1⟩ }
def atUnmapped : State := team small fun t => { t with at_ := ⟨0x40000000, 1⟩ }
def fetchFails (s : State) (r : XRes → Bool) : Bool :=
  match s.fetchNext with
  | (_, .fault _ x) => r x
  | (_, _) => false
theorem witness_IllegalWordsTrap_fetch : atHigh.agenda = [] ∧ atHigh.issuing = true ∧ atHigh.cur.redoing = false
    ∧ fetchFails atHigh (· == .refused) = true ∧ TrapsHere (atHigh.fetchNext).1 :=
  ⟨by decide +kernel, by decide +kernel, by decide +kernel, by decide +kernel, traps_of (by decide +kernel)⟩
theorem witness_IllegalWordsTrap_map : atUnmapped.issuing = true ∧ fetchFails atUnmapped (· == .fault 0) = true
    ∧ TrapsHere (atUnmapped.fetchNext).1
    ∧ ((atUnmapped.fetchNext).1.asid (atUnmapped.fetchNext).1.cur.d.asid).recov = false :=
  ⟨by decide +kernel, by decide +kernel, traps_of (by decide +kernel), by decide +kernel⟩

/-! ### Clauses and control flow -/

theorem witness_ClauseHeadersEnterOrTrap : decodeHeader 0x1000_00B0 = some ⟨1, 0, 0, none, 0, false, false⟩
    ∧ atHeader.settle.cur.yieldAt = none ∧ (atHeader.settle.firstEng (atHeader.cur.at_.pc + 4)).any (· != 0) = false := by decide +kernel
theorem witness_ClauseHeadersEnterOrTrap_illegal : decodeHeader 0 = none ∧ TrapsHere atHeader := ⟨by decide +kernel, traps_of (by decide +kernel)⟩
/-- The header's first instruction is of another class: SETSR is class 5. -/
def wrongClass : State := team (small.withFetchWord 64 0xFE00_0001_1000_00B0) fun t => { t with at_ := ⟨0x1000, 0⟩ }
theorem witness_ClauseHeadersEnterOrTrap_class : decodeHeader 0x1000_00B0 = some ⟨1, 0, 0, none, 0, false, false⟩
    ∧ wrongClass.settle.firstEng (wrongClass.cur.at_.pc + 4) = some 5 ∧ TrapsHere wrongClass :=
  ⟨by decide +kernel, by decide +kernel, traps_of (by decide +kernel)⟩
theorem witness_BranchesJumpOrPredict : Issues small (.bra 0 ⟨true, 7⟩ 0x3FFFF) ⟨true, 7⟩ ∧ Issues small (.bra 0 Guard.pt 0x20000) Guard.pt
    ∧ small.settle.cur.mask ≠ 0 := ⟨issues_of (by decide +kernel), issues_of (by decide +kernel), by decide +kernel⟩
def deep (n : Nat) : State := team small fun t => { t with stack := List.replicate n ⟨false, ⟨0x40, 0⟩, 1⟩, p := t.p.set 0 3 }
theorem witness_BranchesJumpOrPredict_predicted : Issues (deep 255) (.bra 0 ⟨false, 0⟩ 5) ⟨false, 0⟩ ∧ (⟨false, 0⟩ : Guard).p ≠ 7
    ∧ (deep 255).settle.cur.stack.length < 256 := ⟨issues_of (by decide +kernel), by decide +kernel⟩
/-- The window of a branch at 0x1000 with an empty predicted set, the team on its path in lanes `m`: the true set `taken`, the
items and passes that it holds. -/
def windowOf (taken : LaneMask) (items : List WinItem) (passes : List WinPass) : Window :=
  ⟨0x1000, ⟨0x40, 0⟩, ⟨0x1008, 3⟩, 0, taken, small.cur.mask, 8, false, items, passes, [], [], 0, none⟩
def windowed (w : Window) (pt : CodePt) : State := team small fun t => { t with window := some w, at_ := pt }
theorem openWindow_of {s : State} {w : Window} (h : decide (Homed s ∧ s.cur.window = some w ∧ w.redo = none ∧ w.active ≠ 0
    ∧ w.taken &&& ~~~ w.active = 0 ∧ w.pred &&& ~~~ w.active = 0) = true) : OpenWindow s w := by
  obtain ⟨a, b, c, d, e, f⟩ := of_decide_eq_true h
  exact ⟨a, b, c, d, e, f⟩
def inWindow : State := windowed (windowOf 0 [] []) ⟨0x1008, 3⟩
def iaddInWindow : Instr := .iaddLong 0 ⟨true, 7⟩ ⟨2, 4, 6, false⟩ .ss false
def addedItem : WinItem := ⟨.instr iaddInWindow, ⟨0x1008, 3⟩, false⟩
theorem witness_BranchesJumpOrPredict_window : IssuesIn inWindow (windowOf 0 [] []) iaddInWindow ⟨true, 7⟩
    ∧ (laneSpec iaddInWindow).isSome = true :=
  ⟨⟨by decide +kernel, by decide +kernel, by decide +kernel, by decide +kernel, by decide +kernel, by decide +kernel,
    by decide +kernel⟩, rfl⟩
/-- A window of 8 instructions; and a load of a device page. -/
def longWindow : Window := windowOf 0 (List.replicate 8 addedItem) []
theorem witness_BranchesJumpOrPredict_full : isEvent iaddInWindow = false
    ∧ (windowed longWindow ⟨0x1008, 3⟩).cur.window = some longWindow ∧ longWindow.redo = none ∧ 8 ≤ longWindow.items.length := by decide +kernel
theorem witness_BranchesJumpOrPredict_list : isEvent (.qend 0) = false ∧ endsSpec (.qend 0) = true
    ∧ endsSpec (.iaddLong 0 Guard.pt ⟨2, 4, 6, true⟩ .wrap true) = true ∧ (windowOf 0 [] []).redo = none := by decide +kernel
theorem witness_BranchesJumpOrPredict_others : isEvent iaddInWindow = false ∧ endsSpec iaddInWindow = false
    ∧ (windowOf 0 [addedItem] []).items.length < 8 ∧ small.cur.reportsFirst = false ∧ small.cur.d.dmode = false := by decide +kernel
def devicePage : State := { inWindow with tlb := [⟨0, none, 0, 0, 30, 0x8000000000000, true, false, true, true, true, 0⟩] ++ small.tlb }
def ldDevice : Instr := .ld 0 Guard.pt .sb0 ⟨2, 4⟩ .b32 .plain .team 0
theorem witness_BranchesJumpOrPredict_device : IssuesIn devicePage (windowOf 0 [] []) ldDevice Guard.pt
    ∧ (∃ r ∈ (devicePage.settle.look .load 4 (laneAddrs devicePage.settle.cur devicePage.now ldDevice Guard.pt
        fun t l => t.rvPair 4 l + (0 : BitVec 10).signExtend 64)).ok, r.dev = true) ∧ devicePage.cur.d.dmode = false := by
  refine ⟨⟨by decide +kernel, by decide +kernel, by decide +kernel, by decide +kernel, by decide +kernel, by decide +kernel,
    by decide +kernel⟩, ?_, by decide +kernel⟩
  decide +kernel
theorem witness_BranchesJumpOrPredict_ends : isEvent (.exit 0 Guard.pt) = false ∧ inWindow.cur.window = some (windowOf 0 [] [])
    ∧ inWindow.settle.cur.ends (windowOf 0 [] []) (.exit 0 Guard.pt) = true := by decide +kernel
def lostWindow : State := { inWindow with tlb := [], sel := false, parts := atHeader.parts }
theorem witness_IllegalWordsTrap_window : lostWindow.agenda = [] ∧ lostWindow.issuing = false ∧ lostWindow.ownEvent = none
    ∧ (lostWindow.firstChange lostWindow.deviceEvents).isNone = true ∧ Homed lostWindow ∧ lostWindow.cur.window = some (windowOf 0 [] [])
    ∧ (lostWindow.silentDue lostWindow.cur || lostWindow.headerDue lostWindow.cur) = true
    ∧ fetchFails { lostWindow with sel := false } (fun _ => true) = true
    ∧ (State.fetchNext { lostWindow with sel := false }).1.cur.window = some (windowOf 0 [] []) := by decide +kernel
theorem witness_BranchResolves : OpenWindow inWindow (windowOf 0 [] []) ∧ inWindow.cur.core < inWindow.cores.length
    ∧ inWindow.cur.quad < (inWindow.core inWindow.cur.core).quads.length
    ∧ (inWindow.cur.at_, inWindow.cur.mask) = firstPath (windowOf 0 [] []) (windowOf 0 [] []).pred :=
  ⟨openWindow_of (by decide +kernel), by decide +kernel⟩
theorem props_differ {p q : Prop} (h : ¬ p) (k : q) : p ≠ q := fun e => h (e ▸ k)
/-- All lanes are taken: the path is the wrong one; and lanes 0 and 1 are: the path was begun at the right place with them. -/
def replayFull : Window := windowOf small.cur.mask [addedItem] []
def replayPart : Window := { windowOf 3 [addedItem] [] with pred := 12 }
theorem witness_BranchResolves_full : OpenWindow (windowed replayFull ⟨0x1010, 2⟩) replayFull
    ∧ (replayFull.active &&& ~~~ replayFull.pred = 0) ≠ (replayFull.active &&& ~~~ replayFull.taken = 0) :=
  ⟨openWindow_of (by decide +kernel), props_differ (by decide +kernel) (by decide +kernel)⟩
theorem witness_BranchResolves_part : OpenWindow (windowed replayPart ⟨0x1010, 2⟩) replayPart ∧ replayPart.items ≠ []
    ∧ (windowed replayPart ⟨0x1010, 2⟩).blk.leaving = .no ∧ ¬ replayPart.active &&& ~~~ replayPart.pred = 0
    ∧ ¬ replayPart.active &&& ~~~ replayPart.taken = 0
    ∧ (firstPath replayPart replayPart.taken).2 &&& ~~~ (firstPath replayPart replayPart.pred).2 ≠ 0 :=
  ⟨openWindow_of (by decide +kernel), by decide +kernel⟩
def rightWindow : Window := windowOf 0 [addedItem] [⟨0, 4, none, false, [(31, ⟨[(2, ⟨7, 63⟩)], [], 0, none⟩)]⟩]
theorem witness_BranchResolves_commit : OpenWindow (windowed rightWindow ⟨0x1010, 2⟩) rightWindow ∧ rightWindow.pred = rightWindow.taken
    ∧ rightWindow.items = [addedItem] ∧ tagOf iaddInWindow = none
    ∧ (∀ p ∈ rightWindow.passes, p.item = 0 ∧ p.tag = none ∧ ∀ r ∈ p.rs, small.cur.mask.getLsbD r.1 = true ∧ r.2.trap = none)
    ∧ small.cur.mask &&& ~~~ (firstPath rightWindow rightWindow.taken).2 = 0 ∧ small.cur.recs.length ≤ 8 :=
  ⟨openWindow_of (by decide +kernel), by decide +kernel⟩
theorem witness_FullStackTraps : TrapsHere (deep 256) ∧ 256 ≤ (deep 256).settle.cur.stack.length :=
  ⟨traps_of (by decide +kernel), by decide +kernel⟩
theorem witness_FullStackTraps_bra : selectedLanes (deep 256).settle.cur (deep 256).now ⟨false, 0⟩ ≠ 0
    ∧ selectedLanes (deep 256).settle.cur (deep 256).now ⟨false, 0⟩ ≠ (deep 256).settle.cur.mask := by decide +kernel
def pointing (x : Word) : State := team small fun t => { t with s := (t.s.set 62 x).set 63 1 }
theorem witness_JumpsAndCalls : Issues (pointing 0xFFFFFFFC) (.ret 0 62) Guard.pt
    ∧ ((pointing 0xFFFFFFFC).settle.cur.rsPair 62).toNat % 4 = 0 := ⟨issues_of (by decide +kernel), by decide +kernel⟩
theorem witness_JumpsAndCalls_trap : Issues (pointing 0xFFFFFFFD) (.jmp 0 62) Guard.pt
    ∧ ((pointing 0xFFFFFFFD).settle.cur.rsPair 62).toNat % 4 ≠ 0 ∧ TrapsHere (pointing 0xFFFFFFFD) :=
  ⟨issues_of (by decide +kernel), by decide +kernel, traps_of (by decide +kernel)⟩
theorem witness_JumpsAndCalls_call : Issues small (.call 0 62 0x3FFFF) Guard.pt := issues_of (by decide +kernel)
theorem witness_MjoinPushesAndJoinPops : Issues (deep 255) (.mjoin 0 5) Guard.pt ∧ (deep 255).settle.cur.stack.length < 256 :=
  ⟨issues_of (by decide +kernel), by decide +kernel⟩
theorem witness_MjoinPushesAndJoinPops_join : Issues (deep 1) (.join 0) Guard.pt ∧ (deep 1).settle.cur.hmode = false
    ∧ (deep 1).settle.cur.stack = [⟨false, ⟨0x40, 0⟩, 1⟩] ∧ (1 : LaneMask) &&& ~~~ (deep 1).settle.cur.ended ≠ 0 :=
  ⟨issues_of (by decide +kernel), by decide +kernel⟩
theorem witness_MjoinPushesAndJoinPops_empty : Issues small (.join 0) Guard.pt ∧ small.settle.cur.hmode = false
    ∧ small.settle.cur.stack = [] ∧ TrapsHere small := ⟨issues_of (by decide +kernel), by decide +kernel, by decide +kernel, traps_of (by decide +kernel)⟩
/-- Lane 0 has ended: the top entry is dead, the one below has lane 1; `n` entries of the two are there. -/
def dying (n : Nat) : State := team small fun t =>
  { t with mask := 4, ended := 1, p := t.p.set 0 4, stack := [⟨true, ⟨0x40, 0⟩, 1⟩, ⟨false, ⟨0x80, 2⟩, 3⟩].take n }
theorem witness_MjoinPushesAndJoinPops_dead : Issues (dying 2) (.join 0) Guard.pt ∧ (dying 2).settle.cur.hmode = false
    ∧ (dying 2).settle.cur.stack = [⟨true, ⟨0x40, 0⟩, 1⟩] ++ ⟨false, ⟨0x80, 2⟩, 3⟩ :: []
    ∧ (1 : LaneMask) &&& ~~~ (dying 2).settle.cur.ended = 0 ∧ (3 : LaneMask) &&& ~~~ (dying 2).settle.cur.ended ≠ 0 :=
  ⟨issues_of (by decide +kernel), by decide +kernel⟩
theorem witness_MjoinPushesAndJoinPops_over : Issues (dying 1) (.join 0) Guard.pt ∧ (dying 1).settle.cur.hmode = false
    ∧ (dying 1).settle.cur.stack ≠ [] ∧ (∀ e ∈ (dying 1).settle.cur.stack, e.mask &&& ~~~ (dying 1).settle.cur.ended = 0)
    ∧ Homed (dying 1) ∧ (dying 1).blk.reorder = [] ∧ (dying 1).mtxBusy (dying 1).cur = false :=
  ⟨issues_of (by decide +kernel), by decide +kernel⟩
/-- In the handler, an entry above its base, and one below. -/
def handlingDeep : State := team small fun t =>
  { t with hmode := true, amask := true, mask := 2, base := 1, stack := [⟨true, ⟨0x2040, 0⟩, 3⟩, ⟨false, ⟨0x1008, 0⟩, 12⟩] }
theorem witness_MjoinPushesAndJoinPops_handler : Issues handlingDeep (.join 0) Guard.pt ∧ handlingDeep.settle.cur.hmode = true
    ∧ handlingDeep.settle.cur.stack = [⟨true, ⟨0x2040, 0⟩, 3⟩] ++ [⟨false, ⟨0x1008, 0⟩, 12⟩] ∧ handlingDeep.settle.cur.base = 1
    ∧ (3 : LaneMask) &&& ~~~ handlingDeep.settle.cur.ended ≠ 0 := ⟨issues_of (by decide +kernel), by decide +kernel⟩
theorem witness_ExitEndsLanes_pops : Issues (dying 2) (.exit 0 Guard.pt) Guard.pt ∧ (dying 2).settle.cur.unreported = []
    ∧ (dying 2).settle.cur.recs = []
    ∧ (dying 2).settle.cur.mask &&& ~~~ selectedLanes (dying 2).settle.cur (dying 2).now Guard.pt = 0
    ∧ (∃ x ∈ (dying 2).settle.cur.stack,
        x.mask &&& ~~~ ((dying 2).settle.cur.ended ||| selectedLanes (dying 2).settle.cur (dying 2).now Guard.pt) ≠ 0) := by
  refine ⟨issues_of (by decide +kernel), by decide +kernel, by decide +kernel, by decide +kernel, ?_⟩
  decide +kernel
/-- A record is held when the last lanes of the path end. -/
def exitOwing : State := team small fun t => { t with recs := [⟨⟨0x1000, 1⟩, ⟨0x1008, 0⟩, 0x10, 5, 0xFF00000000⟩] }
theorem witness_ExitEndsLanes_record : Issues exitOwing (.exit 0 Guard.pt) Guard.pt ∧ exitOwing.settle.cur.unreported = []
    ∧ exitOwing.settle.cur.recs ≠ [] ∧ exitOwing.settle.cur.d.traph ≠ 0
    ∧ exitOwing.settle.cur.mask &&& ~~~ selectedLanes exitOwing.settle.cur exitOwing.now Guard.pt = 0 :=
  ⟨issues_of (by decide +kernel), by decide +kernel⟩
theorem witness_ExitEndsLanes : Issues (deep 0) (.exit 0 ⟨false, 0⟩) ⟨false, 0⟩ ∧ (deep 0).settle.cur.unreported = []
    ∧ (deep 0).settle.cur.mask &&& ~~~ selectedLanes (deep 0).settle.cur (deep 0).now ⟨false, 0⟩ ≠ 0 :=
  ⟨issues_of (by decide +kernel), by decide +kernel⟩
theorem witness_ExitEndsLanes_last : Issues small (.exit 0 Guard.pt) Guard.pt ∧ small.settle.cur.unreported = []
    ∧ small.settle.cur.mask &&& ~~~ selectedLanes small.settle.cur small.now Guard.pt = 0
    ∧ small.settle.cur.stack = [] ∧ small.settle.cur.recs = [] ∧ Homed small ∧ small.blk.reorder = []
    ∧ small.mtxBusy small.cur = false := ⟨issues_of (by decide +kernel), by decide +kernel⟩
def busyTiles : State :=
  { small with cores := small.cores.set 0 { small.core 0 with quads := (small.core 0).quads.set 0 { (small.core 0).quads.getD 0 .reset with mtxq := [⟨small.cur.uid, 0, 8, []⟩] } } }
theorem witness_ExitEndsLanes_finish : Issues busyTiles (.exit 0 Guard.pt) Guard.pt ∧ busyTiles.settle.cur.unreported = []
    ∧ busyTiles.settle.cur.stack = [] ∧ busyTiles.settle.cur.recs = [] ∧ busyTiles.mtxBusy busyTiles.cur = true :=
  ⟨issues_of (by decide +kernel), by decide +kernel⟩

/-! ### Barriers, balance, system registers -/

/-- A block of two teams, the other one waiting; and barrier 15 with `n` arrivals of the expected. -/
def two : State := { desc small (fun d => { d with teams := 2 }) with teams := [{ small.cur with uid := 9, tno := 1, d := { small.cur.d with teams := 2 } }] }
def arrived (s : State) (want : BarWant) (n : Nat) : State := block s fun b => { b with bars := b.bars.set 15 ⟨some want, n, 3⟩ }
theorem witness_BarriersCountAndHold_first : Issues two (.barArr 0 15 .all) Guard.pt ∧ Homed two ∧ two.blk.bars.length = 16
    ∧ two.cur.d.dmode = false ∧ releaseStep two.settle.cur .block two.settle.cur.ins = true
    ∧ (two.settle.blk.bars.getD 15 ⟨none, 0, 0⟩).exp = none := ⟨issues_of (by decide +kernel), by decide +kernel⟩
theorem witness_BarriersCountAndHold_last : Issues (arrived two (.count 1) 1) (.barArr 0 15 (.count 1)) Guard.pt
    ∧ Homed (arrived two (.count 1) 1) ∧ (1 : BitVec 5).toNat + 1 ≤ (arrived two (.count 1) 1).cur.d.teams
    ∧ ((arrived two (.count 1) 1).settle.blk.bars.getD 15 ⟨none, 0, 0⟩).exp = some (.count 1) :=
  ⟨issues_of (by decide +kernel), by decide +kernel⟩
/-- The team arrived at barrier 15 in phase 3, which still runs; and the phase after. -/
def waiting : State := team (arrived two .all 1) fun t => { t with last := t.last.set 15 (some 3) }
def released : State := team (arrived two .all 1) fun t => { t with last := t.last.set 15 (some 2) }
theorem witness_BarriersCountAndHold_wait : Issues waiting (.barWait 0 15) Guard.pt ∧ waiting.cur.d.dmode = false
    ∧ waiting.settle.barrierWaits 15 = true := ⟨issues_of (by decide +kernel), by decide +kernel⟩
theorem witness_BarriersCountAndHold_pass : Issues released (.barWait 0 15) Guard.pt ∧ released.cur.d.dmode = false
    ∧ released.settle.barrierWaits 15 = false := ⟨issues_of (by decide +kernel), by decide +kernel⟩
theorem witness_BarriersCountAndHold_sync : Issues (arrived two .all 1) (.barSync 0 15 .all) Guard.pt ∧ Homed (arrived two .all 1)
    ∧ (arrived two .all 1).blk.bars.length = 16 ∧ (arrived two .all 1).cur.last.length = 16
    ∧ (arrived two .all 1).settle.cur.synced = none
    ∧ releaseStep (arrived two .all 1).settle.cur .block (arrived two .all 1).settle.cur.ins = true
    ∧ ((arrived two .all 1).settle.blk.bars.getD 15 ⟨none, 0, 0⟩).exp = some .all
    ∧ barNeed ((arrived two .all 1).settle.liveTeams two.cur.bid).length .all ≤ 1 + 1 :=
  ⟨issues_of (by decide +kernel), by decide +kernel⟩
theorem witness_BarriersCountAndHold_sync_first : Issues two (.barSync 0 0 .all) Guard.pt ∧ two.settle.cur.synced = none
    ∧ (two.settle.blk.bars.getD 0 ⟨none, 0, 0⟩).exp = none ∧ 0 + 1 < barNeed (two.settle.liveTeams two.cur.bid).length .all :=
  ⟨issues_of (by decide +kernel), by decide +kernel⟩
theorem witness_BarriersCountAndHold_trap : Issues two (.barArr 0 15 (.count 2)) Guard.pt ∧ TrapsHere two ∧ two.cur.d.dmode = false
    ∧ two.cur.d.teams < (2 : BitVec 5).toNat + 1 ∧ releaseStep two.settle.cur .block two.settle.cur.ins = true :=
  ⟨issues_of (by decide +kernel), traps_of (by decide +kernel), by decide +kernel⟩
theorem witness_BarriersCountAndHold_other : Issues (arrived two .all 1) (.barArr 0 15 (.count 1)) Guard.pt
    ∧ ((arrived two .all 1).settle.blk.bars.getD 15 ⟨none, 0, 0⟩).exp = some .all ∧ BarWant.all ≠ .count 1
    ∧ TrapsHere (arrived two .all 1) := ⟨issues_of (by decide +kernel), by decide +kernel, by decide, traps_of (by decide +kernel)⟩
theorem witness_BarriersCountAndHold_dmode : Issues (dmode waiting) (.barWait 0 15) Guard.pt ∧ Issues (dmode two) (.barArr 0 15 .all) Guard.pt
    ∧ Issues (dmode two) (.barSync 0 0 (.count 15)) Guard.pt ∧ (dmode two).cur.d.dmode = true :=
  ⟨issues_of (by decide +kernel), issues_of (by decide +kernel), issues_of (by decide +kernel), by decide +kernel⟩
theorem witness_BalanceInstructions : Issues small (.balBurn 0 15 (.imm 0x3FFF)) Guard.pt
    ∧ Issues small (.balBurn 0 0 (.reg 127)) Guard.pt ∧ Issues small (.balHold 0 15) Guard.pt ∧ Issues small (.balShunt 0) Guard.pt
    ∧ (small.pier 0).joints[2]? = some ⟨0, 0, 0, 0, 0, 0, 0, false, false⟩ ∧ small.cur.core / 4 < small.piers.length :=
  ⟨issues_of (by decide +kernel), issues_of (by decide +kernel), issues_of (by decide +kernel), issues_of (by decide +kernel),
    by decide +kernel⟩
theorem witness_SystemRegisters : Issues small (.getsr 0 ⟨true, 0⟩ 15 false .clockHi) ⟨true, 0⟩ ∧ small.settle.cur.d.dmode = false
    ∧ Issues small (.getsr 0 Guard.pt 63 true .lane) Guard.pt ∧ small.settle.cur.mask ≠ 0 :=
  ⟨issues_of (by decide +kernel), by decide +kernel, issues_of (by decide +kernel), by decide +kernel⟩
/-- A team of two words, a lane of each active: its second pass reads the mismatch of its own cycle. -/
def twoWords : State := team (desc small fun d => { d with teamw := 64 }) fun t => { t with mask := 0x100000001 }
theorem witness_SystemRegisters_second : Issues twoWords (.getsr 0 Guard.pt 15 false .msm) Guard.pt
    ∧ (passWords twoWords.settle.cur (.getsr 0 Guard.pt 15 false .msm) Guard.pt)[1]? = some 1
    ∧ (wordLanes twoWords.settle.cur.mask 1) = [32] ∧ twoWords.settle.cur.d.dmode = false := ⟨issues_of (by decide +kernel), by decide +kernel⟩
def reading (k : Nat) : Team := { small.cur with srReads := [⟨k, 15, 0, .clockLo⟩], fix := [⟨k + 4, .v 15 [(31, ⟨9, 63⟩)]⟩] }
theorem witness_SystemRegisters_read : (reading 0).srReads = [⟨0, 15, 0, .clockLo⟩] ∧ 31 / 32 = (⟨0, 15, 0, .clockLo⟩ : SrRead).word
    ∧ (reading 0).fix = [⟨0 + 4, .v 15 [(31, ⟨9, 63⟩)]⟩] ∧ small.openCycle (reading 0).core = true
    ∧ (small.core (reading 0).core).opens = 0 ∧ (small.core (reading 5).core).opens < 5 := by decide +kernel
theorem witness_SystemRegisters_setsr : Issues small (.setsr 0 127 true .rndkeyHi) Guard.pt ∧ Issues small (.setsr 0 127 true .trapmask) Guard.pt
    ∧ Issues small (.setsr 0 15 false .trapmask) Guard.pt ∧ (0, 0) ∈ (activeWords (small.settle.cur.view small.now).mask).zipIdx :=
  ⟨issues_of (by decide +kernel), issues_of (by decide +kernel), issues_of (by decide +kernel), by decide +kernel⟩
theorem witness_SystemRegisters_read_only : SysReg.writable .clockLo = false ∧ TrapsHere small := ⟨rfl, traps_of (by decide +kernel)⟩
theorem witness_SystemRegisters_dmode : Issues (dmode small) (.getsr 0 Guard.pt 15 false .msm) Guard.pt ∧ TrapsHere (dmode small)
    ∧ (dmode small).settle.cur.d.dmode = true ∧ Issues (dmode small) (.getsr 0 Guard.pt 63 true .marks) Guard.pt
    ∧ SysReg.marks ∉ [SysReg.clockLo, .clockHi, .msm, .replays] :=
  ⟨issues_of (by decide +kernel), traps_of (by decide +kernel), by decide +kernel, issues_of (by decide +kernel), by decide⟩
theorem witness_SystemRegisters_lands : ({ small.cur with fix := [⟨4, .sys .cpyerr [(0, 0x80000000)]⟩] } : Team).fix
    = [⟨4, .sys .cpyerr [(0, 0x80000000)]⟩] ∧ small.cur.spad = [] ∧ 4 ≤ 4 ∧ 31 < 32 := by decide +kernel
def setting : State := team small fun t => { t with fix := [⟨0, .sys .balctl [(0, 0x0041_001F)]⟩] }
theorem witness_SystemRegisters_balctl : setting.cur.fix = [⟨0, .sys .balctl [(0, 0x0041_001F)]⟩] ∧ 0 ≤ setting.landAt setting.cur.core := by
  decide +kernel

/-! ### Traps -/

def record1 : TrapRec := ⟨⟨0x1000, 1⟩, ⟨0x1008, 0⟩, 0x10, 5, 3⟩
def record2 : TrapRec := ⟨⟨0x1008, 1⟩, ⟨0x1010, 0⟩, 0x13, 6, 4⟩
def owing : State := team small fun t => { t with mask := 0, recs := [record1, record2] }
theorem witness_PendingTrapsTaken : Homed owing ∧ owing.cur.st = .resident ∧ owing.blk.kill = none ∧ owing.cur.window = none
    ∧ owing.cur.hmode = false ∧ owing.cur.apend = none ∧ owing.cur.mask = 0 ∧ owing.cur.held = [] ∧ owing.cur.recs = record1 :: [record2]
    ∧ owing.cur.d.traph ≠ 0 ∧ owing.cur.dkill = none ∧ owing.blk.leaving ≠ .flush := by decide +kernel
def imbalanced : State := team small fun t => { t with apend := some 0x82 }
theorem witness_PendingTrapsTaken_imbalance : Homed imbalanced ∧ imbalanced.cur.st = .resident ∧ imbalanced.blk.kill = none
    ∧ imbalanced.cur.window = none ∧ imbalanced.cur.hmode = false ∧ imbalanced.cur.apend = some 0x82
    ∧ imbalanced.cur.amask = false ∧ imbalanced.cur.recs = [] ∧ imbalanced.cur.held = [] ∧ imbalanced.cur.mask ≠ 0
    ∧ imbalanced.cur.d.traph ≠ 0 ∧ imbalanced.cur.dkill = none ∧ imbalanced.blk.leaving ≠ .flush := by
  decide +kernel
theorem witness_TrapInstructionTraps : Issues (deep 0) (.trap 0 ⟨false, 0⟩ 255) ⟨false, 0⟩
    ∧ selectedLanes (deep 0).settle.cur (deep 0).now ⟨false, 0⟩ ≠ 0 ∧ TrapsHere (deep 0) :=
  ⟨issues_of (by decide +kernel), by decide +kernel, traps_of (by decide +kernel)⟩
theorem witness_TrapInstructionTraps_none : Issues small (.trap 0 ⟨true, 7⟩ 255) ⟨true, 7⟩
    ∧ selectedLanes small.settle.cur small.now ⟨true, 7⟩ = 0 := ⟨issues_of (by decide +kernel), by decide +kernel⟩
/-- In the handler with one record, the path that waits below, and with another record. -/
def handling (rs : List TrapRec) : State :=
  team small fun t => { t with hmode := true, amask := true, recs := rs, trapmask := 1, mask := 3, trappc := 0x1000, base := 1, stack := [⟨false, ⟨0x1008, 0⟩, 12⟩] }
theorem witness_RttReturns : Issues (handling [record1]) (.rttRes 0) Guard.pt ∧ Issues (handling [record1]) (.rttSkip 0) Guard.pt
    ∧ (handling [record1]).settle.cur.hmode = true ∧ (handling [record1]).settle.cur.recs = [record1]
    ∧ (handling [record1]).settle.cur.base ≤ (handling [record1]).settle.cur.stack.length
    ∧ record1.mask &&& (handling [record1]).settle.cur.trapmask ≠ 0
    ∧ (handling [record1]).settle.cur.ended &&& (record1.mask &&& (handling [record1]).settle.cur.trapmask) = 0 :=
  ⟨issues_of (by decide +kernel), issues_of (by decide +kernel), by decide +kernel⟩
theorem witness_RttReturns_kill : Issues (handling [record1]) (.rttKill 0) Guard.pt ∧ (handling [record1]).settle.cur.hmode = true
    ∧ (handling [record1]).settle.cur.recs = [record1]
    ∧ (handling [record1]).settle.cur.base = (handling [record1]).settle.cur.stack.length
    ∧ (handling [record1]).settle.cur.stack = ⟨false, ⟨0x1008, 0⟩, 12⟩ :: []
    ∧ (12 : LaneMask) &&& ~~~ ((handling [record1]).settle.cur.ended ||| record1.mask) ≠ 0 :=
  ⟨issues_of (by decide +kernel), by decide +kernel⟩
theorem witness_RttReturns_next : Issues (handling [record1, record2]) (.rttRes 0) Guard.pt
    ∧ (handling [record1, record2]).settle.cur.hmode = true
    ∧ (handling [record1, record2]).settle.cur.recs = record1 :: record2 :: [] := ⟨issues_of (by decide +kernel), by decide +kernel⟩
def record13 : TrapRec := { record1 with cause := 0x13 }
theorem witness_TrapInstructionTraps_return : Issues (handling [record13]) (.rttRes 0) Guard.pt
    ∧ Issues (handling [record13]) (.rttSkip 0) Guard.pt ∧ (handling [record13]).settle.cur.hmode = true
    ∧ (handling [record13]).settle.cur.recs = [record13] ∧ record13.cause = 0x13
    ∧ (handling [record13]).settle.cur.base ≤ (handling [record13]).settle.cur.stack.length
    ∧ record13.mask &&& (handling [record13]).settle.cur.trapmask ≠ 0
    ∧ (handling [record13]).settle.cur.ended &&& (record13.mask &&& (handling [record13]).settle.cur.trapmask) = 0 :=
  ⟨issues_of (by decide +kernel), issues_of (by decide +kernel), by decide +kernel⟩
theorem witness_ForbiddenUsesTrap : Issues small (.rttRes 0) Guard.pt ∧ Issues small (.rttSkip 0) Guard.pt ∧ Issues small (.rttKill 0) Guard.pt
    ∧ TrapsHere small := ⟨issues_of (by decide +kernel), issues_of (by decide +kernel), issues_of (by decide +kernel), traps_of (by decide +kernel)⟩
/-- An s register 64; a v register above those of the launch; an odd pair. -/
theorem witness_ForbiddenUsesTrap_operand : badOperands small.settle.cur (.iaddLong 0 Guard.pt ⟨2, 4, 64, true⟩ .wrap false) = true
    ∧ badOperands small.settle.cur (.ld 0 Guard.pt .sb0 ⟨16, 4⟩ .b32 .plain .team 0) = true
    ∧ badOperands small.settle.cur (.dadd 0 Guard.pt ⟨3, 4, 6, false⟩ .rne false) = true := by decide +kernel
def checking : State := team small fun t => { t with fpctl := 0x100, fix := [⟨40, .v 4 [(31, ⟨7, 63⟩)]⟩], tags := 0x20 }
theorem witness_ForbiddenUsesTrap_tag : (taggedSpec (.frcp 0 Guard.pt .sb5 ⟨2, 6⟩ false)).isSome = true ∧ TrapsHere checking
    ∧ badOperands checking.settle.cur (.frcp 0 Guard.pt .sb5 ⟨2, 6⟩ false) = false
    ∧ checking.settle.cur.tags.getLsbD (tagIndex .sb5) = true := ⟨rfl, traps_of (by decide +kernel), by decide +kernel⟩
theorem witness_ForbiddenUsesTrap_pending : badOperands checking.settle.cur (.iaddLong 0 Guard.pt ⟨2, 4, 6, false⟩ .wrap false) = false
    ∧ checking.settle.cur.fpctl.getLsbD 8 = true ∧ checking.settle.cur.fix = [⟨40, .v 4 [(31, ⟨7, 63⟩)]⟩] ∧ checking.now + 32 ≤ 40
    ∧ 31 / 32 ∈ activeWords checking.settle.cur.mask := by decide +kernel
theorem inHandler_of {s : State} (h : decide (Homed s ∧ s.cur.window = none ∧ s.settle.cur.reportsFirst = false ∧ s.settle.cur.hmode = true
    ∧ s.blk.kill = none ∧ s.blk.handler = false ∧ s.cur.d.dmode = false) = true) : InHandler s := by
  obtain ⟨a, b, c, d, e, f, g⟩ := of_decide_eq_true h
  exact ⟨a, b, c, d, e, f, g⟩
theorem witness_ForbiddenUsesTrap_handler : InHandler (handling [record1]) ∧ Issues (handling [record1]) (.trap 0 Guard.pt 255) Guard.pt
    ∧ selectedLanes (handling [record1]).settle.cur (handling [record1]).now Guard.pt ≠ 0
    ∧ badOperands (handling [record1]).settle.cur (.iaddLong 0 Guard.pt ⟨2, 4, 64, true⟩ .wrap false) = true
    ∧ handlerForbids (.iaddLong 0 Guard.pt ⟨2, 4, 64, true⟩ .wrap false) = false :=
  ⟨inHandler_of (by decide +kernel), issues_of (by decide +kernel), by decide +kernel⟩
/-- The handler's own entries are dead, lane 0 having ended. -/
def handlingDead : State := team handlingDeep fun t => { t with ended := 1, stack := [⟨true, ⟨0x2040, 0⟩, 1⟩, ⟨false, ⟨0x1008, 0⟩, 12⟩] }
theorem witness_ForbiddenUsesTrap_handler_join : InHandler handlingDead ∧ Issues handlingDead (.join 0) Guard.pt
    ∧ handlingDead.settle.cur.stack = [⟨true, ⟨0x2040, 0⟩, 1⟩] ++ [⟨false, ⟨0x1008, 0⟩, 12⟩] ∧ handlingDead.settle.cur.base = 1
    ∧ (1 : LaneMask) &&& ~~~ handlingDead.settle.cur.ended = 0 ∧ InHandler (handling [record1]) ∧ (handling [record1]).settle.cur.base = 1
    ∧ Issues (handling [record1]) (.join 0) Guard.pt ∧ (handling [record1]).settle.cur.stack = [] ++ [⟨false, ⟨0x1008, 0⟩, 12⟩] :=
  ⟨inHandler_of (by decide +kernel), issues_of (by decide +kernel), by decide +kernel, by decide +kernel, by decide +kernel,
    inHandler_of (by decide +kernel), by decide +kernel, issues_of (by decide +kernel), by decide +kernel⟩
def checkingHandler : State := team (handling [record1]) fun t => { t with tags := 0x20 }
theorem witness_ForbiddenUsesTrap_handler_tag : InHandler checkingHandler ∧ checkingHandler.settle.cur.tags.getLsbD (tagIndex .sb5) = true
    ∧ badOperands checkingHandler.settle.cur (.frcp 0 Guard.pt .sb5 ⟨2, 6⟩ false) = false :=
  ⟨inHandler_of (by decide +kernel), by decide +kernel, by decide +kernel⟩
def unhandled : State := team lone fun t => { t with mask := 0, recs := [record1] }
theorem witness_TrapWithoutHandlerKills : Homed unhandled ∧ unhandled.cur.st = .resident ∧ unhandled.blk.kill = none
    ∧ unhandled.blk.handler = false ∧ unhandled.cur.window = none ∧ unhandled.cur.hmode = false ∧ unhandled.cur.apend = none
    ∧ unhandled.cur.mask = 0 ∧ unhandled.cur.held = [] ∧ unhandled.cur.recs = record1 :: [] ∧ unhandled.cur.d.traph = 0
    ∧ unhandled.cur.dkill = none ∧ unhandled.blk.leaving ≠ .flush ∧ unhandled.cur.d.dmode = false ∧ (dmode unhandled).cur.d.dmode = true
    ∧ (dmode unhandled).cur.dkill = none := by decide +kernel
theorem witness_TrapWithoutHandlerKills_trap : Issues lone (.trap 0 ⟨false, 7⟩ 255) ⟨false, 7⟩ ∧ Homed lone ∧ lone.cur.st = .resident
    ∧ lone.blk.kill = none ∧ lone.blk.handler = false ∧ lone.settle.cur.hmode = false ∧ lone.settle.cur.recs = []
    ∧ lone.settle.cur.d.traph = 0 ∧ selectedLanes lone.settle.cur lone.now ⟨false, 7⟩ ≠ 0 ∧ lone.cur.d.dmode = false := ⟨issues_of (by decide +kernel), by decide +kernel⟩
def killed : State := block lone fun b => { b with kill := some ⟨0x13, 0, 1, 0x1000, 255, 0, true⟩ }
theorem witness_TrapWithoutHandlerKills_record : killed.block killed.blk.bid = some killed.blk
    ∧ killed.blk.kill = some ⟨0x13, 0, 1, 0x1000, 255, 0, true⟩
    ∧ (∀ u ∈ killed.blockTeams killed.blk.bid, u.stopped = true) ∧ killed.blk.d.dmode = false := by decide +kernel
/-- Two teams of a grid whose traps kill in one quantum. -/
def killBoth : State :=
  let a := { (dmode lone).cur with dkill := some ⟨0x13, 0, 1, 0x1000, 255, 0, true⟩ }
  { dmode lone with cur := a, teams := [{ a with uid := 9, tno := 1, dkill := some ⟨0x10, 0, 1, 0x1000, 7, 0, true⟩ }] }
theorem witness_TrapWithoutHandlerKills_commit : ((killBoth.grid lone.cur.lid).map fun u => (u.tno, u.dkill.map (·.cause))) =
    [(0, some 0x13), (1, some 0x10)] := by decide +kernel

/-! ### Memory -/

/-- What the checks of an instruction's lanes find. -/
def lookOf (s : State) (i : Instr) (g : Guard) (k : AccKind) (n : Nat) (addr : Team → Nat → DWord) : Look :=
  s.settle.look k n (laneAddrs s.settle.cur s.now i g addr)
/-- Lane `l` has the address 16 × l + 0x100 in registers 4 and 5, and data in 6 to 9. -/
def spread : State := team small fun t =>
  { t with v := (t.v.set 4 ((List.range 32).map fun l => ⟨BitVec.ofNat 32 (16 * l + 0x100), 63⟩)).set 6 (List.replicate 32 ⟨0xABCD, 63⟩) }
theorem reaches_of {s : State} {i : Instr} {g : Guard} {k : AccKind} {n : Nat} {addr : Team → Nat → DWord}
    (h : ((lookOf s i g k n addr).hits.isEmpty && (lookOf s i g k n addr).held.isEmpty && (lookOf s i g k n addr).dead.isNone
      && (lookOf s i g k n addr).viol.isNone) = true) : Reaches s i g k n addr (lookOf s i g k n addr) := by
  simp only [Bool.and_eq_true, List.isEmpty_iff, Option.isNone_iff_eq_none] at h
  exact ⟨rfl, h.1.1.1, h.1.1.2, h.1.2, h.2⟩
def ldAcq : Instr := .ld 0 Guard.pt .sb5 ⟨12, 4⟩ .b128 .acq .dev 0x1F0
theorem witness_LoadBegins : Issues spread ldAcq Guard.pt ∧ spread.cur.d.dmode = false
    ∧ Reaches spread ldAcq Guard.pt .load (ldBytes .b128) (fun t l => t.rvPair 4 l + (0x1F0 : BitVec 10).signExtend 64)
        (lookOf spread ldAcq Guard.pt .load (ldBytes .b128) fun t l => t.rvPair 4 l + (0x1F0 : BitVec 10).signExtend 64)
    ∧ (lookOf spread ldAcq Guard.pt .load (ldBytes .b128) fun t l => t.rvPair 4 l + (0x1F0 : BitVec 10).signExtend 64).ok ≠ [] :=
  ⟨issues_of (by decide +kernel), by decide +kernel, reaches_of (by decide +kernel), by decide +kernel⟩
/-- A D-mode access of the lanes of `spread` that may be held back. -/
def holdsBack (i : Instr) (k : AccKind) (n : Nat) (ord : MemOrd) (sc : Scope) : Bool :=
  let s := dmode spread
  let lk := lookOf s i Guard.pt k n fun t l => t.rvPair 4 l + (0 : BitVec 10).signExtend 64
  issuesB s i Guard.pt && s.settle.cur.d.dmode && !dmodeOrder s.settle.cur ord sc && (dmodeReason s.settle.cur lk.ok).isNone
    && !lk.ok.isEmpty && lk.ok.all (fun r => !lk.st.badData r.pa n) && lk.hits.isEmpty && lk.held.isEmpty && lk.dead.isNone && lk.viol.isNone
theorem witness_LoadBegins_dmode : holdsBack (.ld 0 Guard.pt .sb5 ⟨12, 4⟩ .b128 .plain .team 0) .load (ldBytes .b128) .plain .team = true := by
  decide +kernel
theorem witness_AtomicBegins_dmode : holdsBack (.atom 0 Guard.pt .sb0 14 4 6 .umax true .rlx .dev 0) .atomic 8 .rlx .dev = true
    ∧ holdsBack (.cas 0 Guard.pt .sb0 14 4 6 8 false .rlx .rlx .dev 0) .atomic 4 .rlx .dev = true := by decide +kernel
theorem witness_StoreIsBuffered_dmode : holdsBack (.st 0 Guard.pt .sb1 4 6 .b64 .plain .team 0) .store (stBytes .b64) .plain .team = true := by
  decide +kernel
def atomAr : Instr := .atom 0 Guard.pt .sb0 14 4 6 .umax true .ar .sys 0
theorem witness_AtomicBegins : Issues spread atomAr Guard.pt ∧ spread.cur.d.dmode = false
    ∧ Reaches spread atomAr Guard.pt .atomic 8 (fun t l => t.rvPair 4 l + (0 : BitVec 10).signExtend 64)
        (lookOf spread atomAr Guard.pt .atomic 8 fun t l => t.rvPair 4 l + (0 : BitVec 10).signExtend 64) :=
  ⟨issues_of (by decide +kernel), by decide +kernel, reaches_of (by decide +kernel)⟩
def casSc : Instr := .cas 0 ⟨true, 0⟩ .sb0 15 4 6 7 false .acq .sc .block 0x200
theorem witness_AtomicBegins_cas : Issues (team spread fun t => { t with v := t.v.set 4 (List.replicate 32 ⟨0x200, 63⟩) }) casSc ⟨true, 0⟩
    ∧ Reaches (team spread fun t => { t with v := t.v.set 4 (List.replicate 32 ⟨0x200, 63⟩) }) casSc ⟨true, 0⟩ .atomic 4
        (fun t l => t.rvPair 4 l + (0x200 : BitVec 10).signExtend 64)
        (lookOf (team spread fun t => { t with v := t.v.set 4 (List.replicate 32 ⟨0x200, 63⟩) }) casSc ⟨true, 0⟩ .atomic 4
          fun t l => t.rvPair 4 l + (0x200 : BitVec 10).signExtend 64) :=
  ⟨issues_of (by decide +kernel), reaches_of (by decide +kernel)⟩
def stRel : Instr := .st 0 Guard.pt .sb1 4 6 .b64 .rel .block 0
theorem witness_StoreIsBuffered : Issues spread stRel Guard.pt ∧ spread.cur.d.dmode = false
    ∧ Apart (stBytes .b64) (lookOf spread stRel Guard.pt .store (stBytes .b64) fun t l => t.rvPair 4 l + (0 : BitVec 10).signExtend 64).ok
    ∧ Reaches spread stRel Guard.pt .store (stBytes .b64) (fun t l => t.rvPair 4 l + (0 : BitVec 10).signExtend 64)
        (lookOf spread stRel Guard.pt .store (stBytes .b64) fun t l => t.rvPair 4 l + (0 : BitVec 10).signExtend 64) :=
  ⟨issues_of (by decide +kernel), by decide +kernel, by decide +kernel, reaches_of (by decide +kernel)⟩
/-- All lanes store to one place, in an empty buffer. -/
def onePlace : State := team spread fun t => { t with v := t.v.set 4 (List.replicate 32 ⟨0x200, 63⟩) }
theorem witness_StoreIsBuffered_same : Issues onePlace stRel Guard.pt ∧ onePlace.cur.d.dmode = false
    ∧ onePlace.settle.cur.stores = [] ∧ onePlace.settle.cur.waiting = []
    ∧ (lookOf onePlace stRel Guard.pt .store 8 fun t l => t.rvPair 4 l + (0 : BitVec 10).signExtend 64).ok.length = 32
    ∧ (∀ r ∈ (lookOf onePlace stRel Guard.pt .store 8 fun t l => t.rvPair 4 l + (0 : BitVec 10).signExtend 64).ok,
        r.dev = false ∧ r.spot.home = r.pa)
    ∧ (distinct ((lookOf onePlace stRel Guard.pt .store 8 fun t l => t.rvPair 4 l + (0 : BitVec 10).signExtend 64).ok.map
        fun r => r.pa / 256)).length ≤ Config.maxStoreBuffer :=
  ⟨issues_of (by decide +kernel), by decide +kernel⟩
/-- Lane 1 is misaligned; lane 0 alone, misaligned; lane 0 on an unmapped page of an ASID that recovers. -/
def skewed (m : LaneMask) : State := team spread fun t =>
  { t with mask := m, v := t.v.set 4 ((List.range 32).map fun l => ⟨BitVec.ofNat 32 (0x101 * l + 0x100 + if m = 1 then 1 else 0), 63⟩) }
def hitB (s : State) (i : Instr) : Bool :=
  let lk := lookOf s i Guard.pt .store 4 fun t l => t.rvPair 4 l + (0 : BitVec 10).signExtend 64
  issuesB s i Guard.pt && !s.settle.cur.d.dmode && !s.settle.cur.hmode && s.settle.cur.recs.isEmpty
    && lk.dead.isNone && lk.viol.isNone && lk.held.isEmpty && lk.hits.length == 1
theorem witness_BadAddressesTrap_lanes : accessForm (.st 0 Guard.pt .sb1 4 6 .b32 .plain .team 0) = some (Guard.pt, .store, 4, 4, 0)
    ∧ hitB (skewed 1) (.st 0 Guard.pt .sb1 4 6 .b32 .plain .team 0) = true ∧ hitB (skewed 3) (.st 0 Guard.pt .sb1 4 6 .b32 .plain .team 0) = true :=
  ⟨rfl, by decide +kernel, by decide +kernel⟩
def unmapped : State := team { spread with asids := spread.asids.set 0 ⟨0, true, true⟩ } fun t =>
  { t with mask := 1, v := t.v.set 4 (List.replicate 32 ⟨0x80000000, 63⟩) }
def ldLow : Instr := .ld 0 Guard.pt .sb0 ⟨8, 4⟩ .b32 .plain .team 0
def heldB : Bool :=
  let lk := lookOf unmapped ldLow Guard.pt .load 4 fun t l => t.rvPair 4 l + (0 : BitVec 10).signExtend 64
  issuesB unmapped ldLow Guard.pt && !unmapped.settle.cur.d.dmode && !unmapped.settle.cur.hmode
    && lk.dead.isNone && lk.viol.isNone && lk.hits.isEmpty && lk.held == [(0, 0x80000000, 0)]
/-- A lane's bad address in the handler. -/
def skewedHandler : State := team (skewed 3) fun t => { t with hmode := true, amask := true }
theorem witness_ForbiddenUsesTrap_handler_address : InHandler skewedHandler
    ∧ Issues skewedHandler (.st 0 Guard.pt .sb1 4 6 .b32 .plain .team 0) Guard.pt
    ∧ ((lookOf skewedHandler (.st 0 Guard.pt .sb1 4 6 .b32 .plain .team 0) Guard.pt .store 4 fun t l => t.rvPair 4 l + (0 : BitVec 10).signExtend 64).hits.map
        (·.cause)) = [5] := ⟨inHandler_of (by decide +kernel), issues_of (by decide +kernel), by decide +kernel⟩
theorem witness_BadAddressesTrap_held : accessForm ldLow = some (Guard.pt, .load, 4, 4, 0) ∧ heldB = true := ⟨rfl, by decide +kernel⟩
theorem witness_BadAddressesTrap_order : ([(0, 1), (31, 4)] : List (Nat × DWord)).map (·.1) = [0, 31]
    ∧ ([0, 31] : List Nat).Nodup ∧ (1 : DWord).toNat % 4 ≠ 0 ∧ (4 : DWord).toNat % 4 = 0
    ∧ (match small.xlate 0x100000000000000 .load 4 with | (_, .refused) => true | _ => false) = true
    ∧ (match small.xlate 0x80000000 .load 4 with | (u, .fault _) => !(u.asid u.cur.d.asid).recov | _ => false) = true
    ∧ (match unmapped.xlate 0x80000000 .load 4 with | (u, .fault _) => (u.asid u.cur.d.asid).recov | _ => false) = true := by
  decide +kernel
theorem witness_BadAddressesTrap_ok : (0x200 : DWord).toNat % 4 = 0
    ∧ (match spread.xlate 0x200 .load 4 with | (_, .ok _ _) => true | _ => false) = true := by decide +kernel
theorem witness_BadAddressesTrap : (0xFFFFFFFFFFFFFFFD : DWord).toNat % 4 ≠ 0 ∧ 4 % 4 = 0
    ∧ ({ small.cur.d with scratch := 64 } : Desc).scratch < 64 + 4 ∧ 60 + 4 ≤ ({ small.cur.d with scratch := 64 } : Desc).scratch := by
  decide +kernel
/-- Lane 0 alone, its offset at the end of the scratchpad. -/
def scratch : State := team (team small fun t => { t with mask := 1 }) fun t =>
  { t with v := (t.v.set 4 (List.replicate 32 ⟨0x1000, 63⟩)).set 6 (List.replicate 32 ⟨0xABCD, 63⟩) }
theorem spadActs_of {s : State} {i : Instr} {g : Guard} {ord : MemOrd} {a : Reg} {off : BitVec 15} {n w : Nat} {ls : List Nat}
    (h : decide (acquireClear s.settle.cur s.settle.cur.ins = true
      ∧ (MemOrd.releases ord = false ∨ releaseStep s.settle.cur .block s.settle.cur.ins = true) ∧ passWords s.settle.cur i g = [w]
      ∧ (wordLanes s.settle.cur.mask w).filter ((s.settle.cur.view s.now).guardOn g) = ls ∧ (∀ l ∈ ls, l / 32 = w)
      ∧ (∀ l ∈ ls, spadOffset (s.settle.cur.view s.now) a off l % n = 0)
      ∧ (∀ l ∈ ls, spadOffset (s.settle.cur.view s.now) a off l + n ≤ s.cur.d.scratch)
      ∧ (∀ l ∈ ls, s.settle.blk.badSpad (spadOffset (s.settle.cur.view s.now) a off l) n = false)
      ∧ s.cur.d.dmode = false ∧ s.cur.dheld = []) = true) : SpadActs s i g ord a off n ls := by
  obtain ⟨a, b, c, d, e, f, g, h, i, j⟩ := of_decide_eq_true h
  exact ⟨a, b, ⟨w, c, d, e⟩, f, g, h, i, j⟩
theorem witness_ScratchpadAccesses : Issues scratch (.lds 0 Guard.pt .sb0 ⟨8, 4⟩ .b128 0x7FF0) Guard.pt
    ∧ SpadActs scratch (.lds 0 Guard.pt .sb0 ⟨8, 4⟩ .b128 0x7FF0) Guard.pt .plain 4 0x7FF0 (ldBytes .b128) [0] :=
  ⟨issues_of (by decide +kernel), spadActs_of (w := 0) (by decide +kernel)⟩
/-- Two lanes at one offset. -/
def scratch2 : State := team scratch fun t => { t with mask := 3 }
theorem witness_ScratchpadAccesses_sts : Issues scratch2 (.sts 0 Guard.pt .sb0 4 6 .u8 0x7FFF) Guard.pt
    ∧ SpadActs scratch2 (.sts 0 Guard.pt .sb0 4 6 .u8 0x7FFF) Guard.pt .plain 4 0x7FFF (stBytes .u8) [0, 1] ∧ Mem.wf scratch2.blk.spad = true :=
  ⟨issues_of (by decide +kernel), spadActs_of (w := 0) (by decide +kernel), by decide +kernel⟩
theorem witness_ScratchpadAccesses_atoms : Issues scratch (.atoms 0 Guard.pt .sb0 8 4 6 none true .ar 0x7FF8) Guard.pt
    ∧ SpadActs scratch (.atoms 0 Guard.pt .sb0 8 4 6 none true .ar 0x7FF8) Guard.pt .ar 4 0x7FF8 8 [0] :=
  ⟨issues_of (by decide +kernel), spadActs_of (w := 0) (by decide +kernel)⟩
theorem witness_ScratchpadAccesses_add : Issues scratch2 (.atoms 0 Guard.pt .sb0 8 4 6 (some .add) false .rlx 0x7FF8) Guard.pt
    ∧ SpadActs scratch2 (.atoms 0 Guard.pt .sb0 8 4 6 (some .add) false .rlx 0x7FF8) Guard.pt .rlx 4 0x7FF8 4 [0, 1]
    ∧ (∀ l ∈ [0, 1], spadOffset (scratch2.settle.cur.view scratch2.now) 4 0x7FF8 l = 0xFF8) :=
  ⟨issues_of (by decide +kernel), spadActs_of (w := 0) (by decide +kernel), by decide +kernel⟩
def heldPad (i : Instr) (n : Nat) : Bool :=
  let s := dmode scratch
  issuesB s i Guard.pt && s.settle.cur.d.dmode && acquireClear s.settle.cur s.settle.cur.ins && passWords s.settle.cur i Guard.pt == [0]
    && (wordLanes s.settle.cur.mask 0).filter ((s.settle.cur.view s.now).guardOn Guard.pt) == [0]
    && (spadTrap s.settle.cur.d n (spadOffset (s.settle.cur.view s.now) 4 0x7FF8 0)).isNone
    && !s.settle.blk.badSpad (spadOffset (s.settle.cur.view s.now) 4 0x7FF8 0) n
theorem witness_ScratchpadAccesses_dmode : heldPad (.sts 0 Guard.pt .sb0 4 6 .b64 0x7FF8) 8 = true
    ∧ heldPad (.atoms 0 Guard.pt .sb0 8 4 6 (some .xor) true .rlx 0x7FF8) 8 = true := by decide +kernel
/-- Past the end of the scratchpad, and misaligned. -/
theorem witness_BadAddressesTrap_spad : spadForm (.lds 0 Guard.pt .sb0 ⟨8, 4⟩ .b32 0) = some (Guard.pt, .plain, 4, 0, 4)
    ∧ Issues scratch (.lds 0 Guard.pt .sb0 ⟨8, 4⟩ .b32 0) Guard.pt ∧ Issues scratch (.lds 0 Guard.pt .sb0 ⟨8, 4⟩ .b32 0x7FFE) Guard.pt
    ∧ acquireClear scratch.settle.cur scratch.settle.cur.ins = true ∧ passWords scratch.settle.cur (.lds 0 Guard.pt .sb0 ⟨8, 4⟩ .b32 0) Guard.pt = [0 / 32]
    ∧ (wordLanes scratch.settle.cur.mask 0).filter ((scratch.settle.cur.view scratch.now).guardOn Guard.pt) = [0]
    ∧ spadTrap scratch.cur.d 4 (spadOffset (scratch.settle.cur.view scratch.now) 4 0 0) = some (0x06, 0x1000)
    ∧ spadTrap scratch.cur.d 4 (spadOffset (scratch.settle.cur.view scratch.now) 4 0x7FFE 0) = some (0x05, 0xFFE)
    ∧ scratch.settle.cur.hmode = false ∧ scratch.settle.cur.recs = [] :=
  ⟨rfl, issues_of (by decide +kernel), issues_of (by decide +kernel), by decide +kernel⟩
theorem witness_FenceCompletes : Issues small (.fence 0 .rel .sys) Guard.pt ∧ fenceReady small.settle.cur .rel .sys = true
    ∧ small.cur.d.dmode = false := ⟨issues_of (by decide +kernel), by decide +kernel⟩
/-- A store of the team is on its way to memory. -/
def entry : StoreEntry := ⟨3, 0, 0, 0x80000000000, [⟨0x100, 1, 12, 0x8000000000010⟩], [(0x8000000000010, 7)], .plain, .team, false, .unsent, 0⟩
def storing (st : AccSt) : State := team small fun t => { t with stores := [{ entry with st := st }], uloc := if st = .unsent then 0 else 1, ins := 1 }
theorem witness_FenceCompletes_waits : Issues (storing .sent) (.fence 0 .sc .dev) Guard.pt ∧ (storing .sent).cur.d.dmode = false
    ∧ fenceReady (storing .sent).settle.cur .sc .dev = false := ⟨issues_of (by decide +kernel), by decide +kernel⟩
theorem witness_FenceCompletes_dmode : Issues (dmode small) (.fence 0 .ar .team) Guard.pt
    ∧ (dmode small).cur.d.dmode = true := ⟨issues_of (by decide +kernel), by decide +kernel⟩

/-! ### The ordering machine -/

theorem witness_RequestsSentInOrder : Homed (storing .unsent) ∧ (storing .unsent).cur.st ≠ .frozen
    ∧ ((storing .unsent).cur.stores.find? fun x => x.seq = entry.seq) = some entry ∧ storeSendable (storing .unsent).cur entry = true
    ∧ remote (entry.unit * 256) = false := by decide +kernel
def access : Access := ⟨4, 0, 2, 31, .load .b32, 15, 0x8000000000010, 4, ⟨0x100, 4, 12, 0x8000000000010⟩, .acq, .dev, .rlx, false, 0,
  0, .unsent, 0⟩
def loading (a : Access) : State := team small fun t => { t with accesses := [a], tags := 4, ins := 2 }
theorem witness_RequestsSentInOrder_load : Homed (loading access) ∧ (loading access).cur.st ≠ .frozen
    ∧ ((loading access).cur.accesses.find? fun x => x.seq = access.seq) = some access
    ∧ accessSendable (loading access).cur access = true := by decide +kernel
theorem witness_RequestsSentInOrder_order : ({ entry with ord := .rel, scope := .dev, ins := 1, last := 1 } : StoreEntry).ord = .rel
    ∧ access ∈ (loading access).cur.accesses ∧ access.ins < 1 ∧ inReach .dev access.pa = true ∧ access.st ≠ .performed
    ∧ access.ord = .acq ∧ access.scope ≠ .team := by decide +kernel
/-- An older acquiring load is held on a fault. -/
def heldAcq : HeldAccess :=
  ⟨7, 0, 5, 31, false, 0x10, .load, some (.load .b32), 15, 0, 0, [], 4, .acq, .dev, .rlx, ⟨0x1000, 1⟩, ⟨0x1008, 0⟩, 0, none⟩
def waitingBehind : Team := { small.cur with held := [heldAcq], ins := 2 }
theorem witness_RequestsSentInOrder_held : heldAcq ∈ waitingBehind.held ∧ heldAcq.failed = none ∧ heldAcq.kind ≠ .fetch
    ∧ heldAcq.ord = .acq ∧ heldAcq.scope ≠ .team ∧ heldAcq.ins < ({ entry with ins := 1 } : StoreEntry).ins
    ∧ heldAcq.ins < ({ access with ins := 1 } : Access).ins := by decide +kernel
theorem test_send_behind_held : storeSendable waitingBehind { entry with ins := 1, last := 1 } = false
    ∧ storeSendable small.cur { entry with ins := 1, last := 1 } = true := by decide +kernel
def memoryB (s : State) (pa : Nat) : Bool :=
  (match placeOf pa with | .regs _ => false | .package _ | .slice _ _ | .host _ | .peer _ _ | .nothing => true)
    && !s.severed s.cur.lid s.cur.d.part pa
theorem memoryAt_of {s : State} {pa : Nat} (h : memoryB s pa = true) : MemoryAt s pa := by
  simp only [memoryB, Bool.and_eq_true, Bool.not_eq_true'] at h
  refine ⟨fun x e => ?_, h.2⟩
  rw [e] at h
  cases h.1
theorem atPoint_of {s : State} {a : Access} (h : decide (Homed s ∧ s.Canonical ∧ (s.saved = [] ∧ s.cur.stores = [] ∧ s.cur.flight = [])
    ∧ (s.cur.accesses = [a] ∧ a.st = .sent) ∧ memoryB s a.pa = true ∧ s.badData a.pa a.bytes = false) = true) : AtPoint s a := by
  obtain ⟨b, c, d, e, f, g⟩ := of_decide_eq_true h
  exact ⟨b, c, d, e, memoryAt_of f, g⟩
theorem witness_RequestsPerform : Homed (storing .sent) ∧ (storing .sent).Canonical ∧ (storing .sent).saved = []
    ∧ performIn 3 (storing .sent).cur.stores = some (false, [(0x8000000000010, 7)], [{ entry with st := .performed, units := 1 }])
    ∧ (([(0x8000000000010, 7)] : List Host.Cell).map fun c => homeOf (storing .sent).devno c.1).Nodup
    ∧ (∀ c ∈ ([(0x8000000000010, 7)] : List Host.Cell), MemoryAt (storing .sent) c.1) :=
  ⟨by decide +kernel, by decide +kernel, by decide +kernel, by decide +kernel, by decide +kernel,
    fun c h => by rw [List.mem_singleton.1 h]; exact memoryAt_of (by decide +kernel)⟩
/-- An entry of two units, in the order in which they came. -/
def twoUnits : StoreEntry := { entry with st := .sent, bytes := [(0x800000000001F, 9), (0x8000000000010, 7)] }
theorem witness_RequestsPerform_units : twoUnits.st = .sent ∧ twoUnits.dev = false ∧ twoUnits.parts = [[(0x8000000000010, 7)], [(0x800000000001F, 9)]] := by
  decide +kernel
def fetching (size : LdSize) (pa : Nat) : Access := { access with op := .load size, st := .sent, bytes := ldBytes size, pa := pa }
theorem witness_RequestsPerform_load : AtPoint (loading (fetching .b32 0x8000000000010)) (fetching .b32 0x8000000000010)
    ∧ AtPoint (loading (fetching .b128 0x1000000000010)) (fetching .b128 0x1000000000010) :=
  ⟨atPoint_of (by decide +kernel), atPoint_of (by decide +kernel)⟩
def adding (w64 : Bool) : Access :=
  { access with op := .atom .add w64, st := .sent, b := 0xFFFFFFFF, bytes := if w64 then 8 else 4, pa := 0x8000000000000 + 0x18000000 - 8 }
theorem witness_RequestsPerform_atomic : AtPoint (loading (adding false)) (adding false) ∧ AtPoint (loading (adding true)) (adding true) :=
  ⟨atPoint_of (by decide +kernel), atPoint_of (by decide +kernel)⟩
def swapping (w64 : Bool) (c : Nat) : Access := { adding w64 with op := .cas w64, c := c }
theorem witness_RequestsPerform_cas : AtPoint (loading (swapping false 0)) (swapping false 0)
    ∧ (loading (swapping false 0)).num (swapping false 0).pa 4 = (swapping false 0).c
    ∧ AtPoint (loading (swapping true 1)) (swapping true 1)
    ∧ (loading (swapping true 1)).num (swapping true 1).pa 8 ≠ (swapping true 1).c :=
  ⟨atPoint_of (by decide +kernel), by decide +kernel, atPoint_of (by decide +kernel), by decide +kernel⟩
def answering : Access := { access with st := .performed, x := 77 }
theorem witness_ResponsesComplete : Homed (loading answering) ∧ (loading answering).settle.cur.accesses = [answering]
    ∧ answering.st = .performed ∧ answering.op = .load .b32 := by decide +kernel
theorem witness_ResponsesComplete_ack : Homed (storing .performed) ∧ (storing .performed).saved = []
    ∧ (storing .performed).cur.stores = [{ entry with st := .performed }] ∧ (storing .performed).cur.waiting = []
    ∧ remote (entry.unit * 256) = false ∧ remote (0x1000000000000 / 256 * 256) = true := by decide +kernel
def moved : State := team small fun t => { t with flight := [{ entry with st := .performed }], uloc := 1 }
theorem witness_ResponsesComplete_forward : Homed moved ∧ moved.cur.flight = [{ entry with st := .performed }] := by decide +kernel
def pass : SpadPass := ⟨5, 0, 0, .plain, false, [.v 15 [(31, ⟨9, 63⟩)]]⟩
def bank : State := team small fun t => { t with spad := [pass], tags := 0x20 }
theorem witness_ResponsesComplete_scratchpad : Homed bank ∧ bank.cur.spad = [pass] ∧ pass.due ≤ bank.landAt bank.cur.core
    ∧ pass.tag < 6 ∧ bank.cur.accesses = [] ∧ bank.cur.waiting = [] ∧ bank.cur.held = [] ∧ bank.cur.tagged = [] ∧ bank.cur.dheld = []
    ∧ bank.cur.fix = [] := by decide +kernel
theorem witness_ResponsesComplete_scratchpad_cells : ∀ w ∈ pass.ws, ∃ r cs, w = .v r cs := by simp [pass]

/-! ### The matrix unit -/

/-- Fragments A in registers 8 to 19 and B in 24 to 35; name 15 holds a tile. -/
def matrix (int : Bool) : State := team (desc ready fun d => { d with regs := 64, traph := 0x2000 }) fun t =>
  { t with
    v := ((t.v.set 8 ((List.range 32).map fun l => ⟨BitVec.ofNat 32 (0x01020304 + l), 63⟩)).set 24 (List.replicate 32 ⟨0x7F80FF01, 63⟩))
    s := (t.s.set 60 0x20).set 4 0x4FC00100
    tiles := t.tiles.set 15 [some (Tile.fresh 0 int)] }
theorem matrixActs_of {s : State} {i : Instr} {u : TileUse} (h : issuesB s i Guard.pt = true)
    (k : decide (s.settle.tileWait s.settle.cur u = false ∧ u.name < s.settle.cur.tiles.length ∧ s.cur.core < s.cores.length
      ∧ s.cur.quad < (s.core s.cur.core).quads.length) = true) : MatrixActs s i u := by
  obtain ⟨a, b, c, d⟩ := of_decide_eq_true k
  exact ⟨issues_of h, a, b, c, d⟩
def mmaInt : Instr := .mma 0 15 8 24 none 1 .int8 .int8 false
theorem witness_MatrixProducts_int : MatrixActs (matrix true) mmaInt (usedTiles (matrix true) mmaInt 15 false true)
    ∧ passWords (matrix true).settle.cur mmaInt Guard.pt = [0] ∧ ((matrix true).settle.cur.bound 15 0).all (·.int) = true :=
  ⟨matrixActs_of (by decide +kernel) (by decide +kernel), by decide +kernel⟩
def mmaScaled : Instr := .mma 0 15 8 24 (some 4) 7 .f8a .f8b false
theorem witness_MatrixProducts : MatrixActs (matrix false) mmaScaled (usedTiles (matrix false) mmaScaled 15 false true)
    ∧ passWords (matrix false).settle.cur mmaScaled Guard.pt = [0]
    ∧ mmaIllegal (matrix false).settle.cur [0] 15 (some 4) .f8a .f8b false false = false
    ∧ scaleFault (matrix false).settle.cur [0] (some 4) .f8a .f8b (512 / MFmt.width .f8a) = none :=
  ⟨matrixActs_of (by decide +kernel) (by decide +kernel), by decide +kernel⟩
def mmasNew : Instr := .mmas 0 0 8 24 none 0 .bf16 .fp16 true .n12 40
theorem witness_MatrixProducts_sparse : MatrixActs (matrix false) mmasNew (usedTiles (matrix false) mmasNew 0 true true)
    ∧ passWords (matrix false).settle.cur mmasNew Guard.pt = [0]
    ∧ (∀ r ∈ List.range 16, ∀ x ∈ sparseRow ((matrix false).settle.cur.view (matrix false).now) 8 40 0 (MFmt.width .bf16) (SpN.n .n12) r,
        x.2.1 ≤ 23)
    ∧ mmaIllegal (matrix false).settle.cur [0] 0 none .bf16 .fp16 true false = false
    ∧ scaleFault (matrix false).settle.cur [0] none .bf16 .fp16 (768 / MFmt.width .bf16) = none :=
  ⟨matrixActs_of (by decide +kernel) (by decide +kernel), by decide +kernel⟩
theorem witness_MatrixProducts_kind : TrapsHere (matrix true) ∧ 0 ∈ passWords (matrix true).settle.cur mmaScaled Guard.pt
    ∧ ((matrix true).settle.cur.bound 15 0).any (fun x => x.int != MFmt.isInt .f8a) = true
    ∧ (matrix true).settle.tileWait (matrix true).settle.cur (usedTiles (matrix true) mmaScaled 15 false true) = false :=
  ⟨traps_of (by decide +kernel), by decide +kernel⟩
/-- A full queue of the unit. -/
def fullQueue : State :=
  { matrix true with cores := small.cores.set 0 { small.core 0 with quads := (small.core 0).quads.set 0 { (small.core 0).quads.getD 0 .reset with mtxq := List.replicate 8 ⟨9, 0, 8, []⟩ } } }
theorem witness_MatrixProducts_waits : Issues fullQueue (.azero 0 15 true) Guard.pt
    ∧ fullQueue.settle.tileWait fullQueue.settle.cur (usedTiles fullQueue (.azero 0 15 true) 15 true true) = true :=
  ⟨issues_of (by decide +kernel), by decide +kernel⟩
theorem witness_MatrixProducts_waits_mma : Issues fullQueue mmaInt Guard.pt
    ∧ tileUse (passWords fullQueue.settle.cur mmaInt Guard.pt) mmaInt = some (usedTiles fullQueue mmaInt 15 false true)
    ∧ fullQueue.settle.tileWait fullQueue.settle.cur (usedTiles fullQueue mmaInt 15 false true) = true :=
  ⟨issues_of (by decide +kernel), by decide +kernel⟩
theorem tileReaches_of {s : State} {i : Instr} {k : AccKind} {base : DWord} {st : Word} {n : Nat}
    (h : decide ((s.settle.tileLook k base st n (passWords s.settle.cur i Guard.pt)).hits = []
      ∧ (s.settle.tileLook k base st n (passWords s.settle.cur i Guard.pt)).held = []
      ∧ (s.settle.tileLook k base st n (passWords s.settle.cur i Guard.pt)).dead = none
      ∧ (s.settle.tileLook k base st n (passWords s.settle.cur i Guard.pt)).viol = none) = true) :
    TileReaches s i k base st n (s.settle.tileLook k base st n (passWords s.settle.cur i Guard.pt)) :=
  ⟨rfl, of_decide_eq_true h⟩
theorem witness_TileInstructions_azero : MatrixActs (matrix false) (.azero 0 15 true) (usedTiles (matrix false) (.azero 0 15 true) 15 true true) :=
  matrixActs_of (by decide +kernel) (by decide +kernel)
theorem witness_TileInstructions_amov : MatrixActs (matrix true) (.amov 0 .sb5 56 15) (usedTiles (matrix true) (.amov 0 .sb5 56 15) 15 false false) :=
  matrixActs_of (by decide +kernel) (by decide +kernel)
def aldInto : Instr := .ald 0 .sb1 0 62 60 true
def lookAld : TileLook := (matrix true).settle.tileLook .load ((matrix true).settle.cur.rsPair 62) ((matrix true).settle.cur.rs 60) 4
  (passWords (matrix true).settle.cur aldInto Guard.pt)
theorem witness_TileInstructions_ald : MatrixActs (matrix true) aldInto (usedTiles (matrix true) aldInto 0 true true) ∧ (matrix true).cur.d.dmode = false ∧ lookAld.ok ≠ []
    ∧ TileReaches (matrix true) aldInto .load ((matrix true).settle.cur.rsPair 62) ((matrix true).settle.cur.rs 60) 4 lookAld :=
  ⟨matrixActs_of (by decide +kernel) (by decide +kernel), by decide +kernel, by decide +kernel, tileReaches_of (by decide +kernel)⟩
/-- Accesses in rising order do not overlap. -/
def rising (n : Nat) : List Req → Bool
  | a :: b :: r => decide (a.spot.home + n ≤ b.spot.home) && rising n (b :: r)
  | _ => true
theorem rising_head (n : Nat) (a : Req) (l : List Req) (h : rising n (a :: l) = true) : ∀ b ∈ l, a.spot.home + n ≤ b.spot.home := by
  induction l generalizing a with
  | nil => simp
  | cons c r ih =>
    simp only [rising, Bool.and_eq_true, decide_eq_true_eq] at h
    intro b hb
    rcases List.mem_cons.1 hb with rfl | hb
    · exact h.1
    · have := ih c h.2 b hb; omega
theorem apart_of (n : Nat) (l : List Req) (h : rising n l = true) : Apart n l := by
  induction l with
  | nil => exact List.Pairwise.nil
  | cons a r ih =>
    refine List.Pairwise.cons (fun b hb => .inl (rising_head n a r h b hb)) (ih ?_)
    cases r with
    | nil => rfl
    | cons b r => simp only [rising, Bool.and_eq_true] at h; exact h.2
def astOut : Instr := .ast 0 .sb1 62 60 15 .bf16 .reluClamp true true
def lookAst : TileLook := (matrix false).settle.tileLook .store ((matrix false).settle.cur.rsPair 62) ((matrix false).settle.cur.rs 60)
  (ofmtBytes .bf16) (passWords (matrix false).settle.cur astOut Guard.pt)
theorem witness_TileInstructions_ast : MatrixActs (matrix false) astOut (usedTiles (matrix false) astOut 15 false false) ∧ (matrix false).cur.d.dmode = false
    ∧ Apart (ofmtBytes .bf16) lookAst.ok
    ∧ TileReaches (matrix false) astOut .store ((matrix false).settle.cur.rsPair 62) ((matrix false).settle.cur.rs 60) (ofmtBytes .bf16) lookAst :=
  ⟨matrixActs_of (by decide +kernel) (by decide +kernel), by decide +kernel, apart_of _ _ (by decide +kernel), tileReaches_of (by decide +kernel)⟩
def qtileOut : Instr := .qtile 0 .sb1 62 63 15 .int4 .b64
def quant : State := team (matrix false) fun t => { t with s := t.s.set 63 0x200 }
theorem witness_TileInstructions_qtile : MatrixActs quant qtileOut (usedTiles quant qtileOut 15 false false) ∧ quant.cur.d.dmode = false
    ∧ acquireClear quant.settle.cur quant.settle.cur.ins = true ∧ passWords quant.settle.cur qtileOut Guard.pt = [0]
    ∧ Mem.wf quant.blk.spad = true ∧ (quant.settle.cur.tile 15 0).int = false
    ∧ 0x20 + (qcopy .int4 (blkLen .b64) ((quant.settle.cur.tile 15 0).elems.map fun e => fmt32.decode e.val.toNat)).length ≤ 0x200
    ∧ qtileFault quant.settle.cur (qsize .int4 (blkLen .b64)) [0]
        [(quant.settle.cur.rs 62).toNat, (quant.settle.cur.rs 63).toNat] = none :=
  ⟨matrixActs_of (by decide +kernel) (by decide +kernel), by decide +kernel⟩

/-! ### Counters, copies, marks, messages, REORDER -/

def counted (n : Nat) : State := team small fun t => { t with msg := List.replicate n ⟨0, false⟩ }
theorem witness_CountersMarksAndSends : Issues (counted 63) (.waitc 0 .msg 63) Guard.pt ∧ (counted 63).cur.d.dmode = false
    ∧ ((counted 63).settle.cur.counter .msg).length ≤ (63 : BitVec 6).toNat := ⟨issues_of (by decide +kernel), by decide +kernel⟩
theorem witness_CountersMarksAndSends_waits : Issues (counted 1) (.waitc 0 .msg 0) Guard.pt
    ∧ (0 : BitVec 6).toNat < ((counted 1).settle.cur.counter .msg).length := ⟨issues_of (by decide +kernel), by decide +kernel⟩
theorem witness_CountersMarksAndSends_yield : Issues small (.yieldC 0 .cpy 0 0x3FFFF) Guard.pt
    ∧ small.settle.cur.copyFault = false ∧ small.cur.d.dmode = false := ⟨issues_of (by decide +kernel), by decide +kernel⟩
theorem witness_CountersMarksAndSends_batch : Issues small (.batch 0) Guard.pt ∧ small.cur.d.dmode = false ∧ small.settle.cur.mtx = [] :=
  ⟨issues_of (by decide +kernel), by decide +kernel⟩
def copying : State := team small fun t => { t with s := ((t.s.set 62 0x1000).set 60 0xFF0).set 58 16 }
theorem witness_CountersMarksAndSends_copy : Issues copying (.copy 0 62 60 58 false none) Guard.pt ∧ copying.cur.d.dmode = false
    ∧ copying.settle.cur.kept = none ∧ copying.settle.cur.cpy = [] ∧ copySpec copying.cur.d (copySlice copying.settle.cur 62 60 58 false none) = none
    ∧ releaseStep copying.settle.cur .dev copying.settle.cur.ins = true := ⟨issues_of (by decide +kernel), by decide +kernel⟩
/-- A COPY of a bad address; misaligned; past the scratchpad; with its record past it. -/
def copyingBad (hi lo off n : Word) : State := team small fun t => { t with s := (((t.s.set 62 lo).set 63 hi).set 60 off).set 58 n }
def copyTrapsB (s : State) (k : Option (BitVec 6)) (c : Nat) (d : Word) : Bool :=
  issuesB s (.copy 0 62 60 58 false k) Guard.pt && trapsB s && s.settle.cur.kept.isNone && decide (s.settle.cur.cpy.length < 63)
    && copySpec s.cur.d (copySlice s.settle.cur 62 60 58 false k) == some (c, d)
theorem witness_CountersMarksAndSends_copy_traps : copyTrapsB (copyingBad 0x1000000 5 1 16) none 0x08 5 = true
    ∧ copyTrapsB (copyingBad 0 0x1008 0 16) none 0x05 0x1008 = true ∧ copyTrapsB (copyingBad 0 0x1000 0x1000 16) none 0x06 0x1000 = true
    ∧ copyTrapsB (team (copyingBad 0 0x1000 0 16) fun t => { t with s := t.s.set 59 0xFF0 }) (some 1) 0x06 0x1000 = true := by decide +kernel
/-- A copy of the team faulted, and its counter has fallen. -/
def faulted : State := team (deep 0) fun t => { t with unreported := [0], cpyerr := 0x81000000, p := t.p.set 0 (fullMask t.d.teamw) }
theorem witness_CountersMarksAndSends_fault : Issues faulted (.waitc 0 .cpy 0) Guard.pt ∧ Issues faulted (.yieldC 0 .cpy 0 5) Guard.pt
    ∧ TrapsHere faulted ∧ faulted.cur.d.dmode = false ∧ faulted.settle.cur.cpy = [] ∧ faulted.settle.cur.copyFault = true :=
  ⟨issues_of (by decide +kernel), issues_of (by decide +kernel), traps_of (by decide +kernel), by decide +kernel⟩
theorem witness_CountersMarksAndSends_fault_exit : Issues faulted (.exit 0 ⟨false, 0⟩) ⟨false, 0⟩ ∧ TrapsHere faulted
    ∧ faulted.settle.cur.unreported ≠ [] ∧ selectedLanes faulted.settle.cur faulted.now ⟨false, 0⟩ ≠ 0
    ∧ faulted.settle.cur.ended ||| selectedLanes faulted.settle.cur faulted.now ⟨false, 0⟩ = fullMask faulted.settle.cur.d.teamw :=
  ⟨issues_of (by decide +kernel), traps_of (by decide +kernel), by decide +kernel⟩
/-- In D-mode the batch has matrix work that waits for a commit. -/
def batching : State := team (dmode small) fun t => { t with opened := true }
theorem witness_CountersMarksAndSends_batch_dmode : Issues batching (.batch 0) Guard.pt ∧ batching.settle.cur.mtx = []
    ∧ batching.settle.cur.d.dmode = true ∧ batching.settle.cur.opened = true := ⟨issues_of (by decide +kernel), by decide +kernel⟩
def marked : State := team small fun t => { t with mark := 5 }
theorem witness_CountersMarksAndSends_lower : Issues marked (.mark 0 4) Guard.pt ∧ Issues marked (.markW 0 0) Guard.pt ∧ TrapsHere marked
    ∧ marked.cur.d.dmode = false ∧ (4 : BitVec 16).toNat < marked.settle.cur.mark :=
  ⟨issues_of (by decide +kernel), issues_of (by decide +kernel), traps_of (by decide +kernel), by decide +kernel⟩
theorem witness_CountersMarksAndSends_batch_open : Issues busyTiles (.batch 0) Guard.pt ∧ busyTiles.settle.cur.mtx = [] :=
  ⟨issues_of (by decide +kernel), by decide +kernel⟩
theorem witness_CountersMarksAndSends_mark : Issues small (.mark 0 0xFFFF) Guard.pt ∧ Issues small (.markW 0 0) Guard.pt
    ∧ small.settle.cur.mark ≤ (0 : BitVec 16).toNat ∧ small.settle.lateEntries small.settle.blk 0xFFFF = []
    ∧ small.cur.wait ≠ .markw 0 ∧ releaseStep small.settle.cur .dev small.settle.cur.ins = true :=
  ⟨issues_of (by decide +kernel), issues_of (by decide +kernel), by decide +kernel⟩
def sending : State :=
  { desc small (fun d => { d with messages := true }) with
    parts := small.parts.set 0 { small.part 0 with handlers := some ⟨0, 0, []⟩ } }
theorem witness_CountersMarksAndSends_send : Issues sending (.send 0 Guard.pt 4 8 255 8) Guard.pt ∧ sending.cur.d.dmode = false
    ∧ sending.settle.cur.kept = none ∧ sending.settle.cur.msg.length < 63 ∧ releaseStep sending.settle.cur .dev sending.settle.cur.ins = true
    ∧ (∀ l ∈ lanesOf (selectedLanes sending.settle.cur sending.now Guard.pt),
        sendSpec sending ((sending.settle.viewOf (.send 0 Guard.pt 4 8 255 8) Guard.pt l).rv 4 l).val = none
          ∧ ownsCore (sending.part sending.cur.d.part) ((sending.settle.viewOf (.send 0 Guard.pt 4 8 255 8) Guard.pt l).rv 4 l).val.toNat = true) :=
  ⟨issues_of (by decide +kernel), by decide +kernel⟩
/-- No lane may send: there is no handler table; and lane 1 names no core. -/
def sendingBad : State := team small fun t => { t with mask := 3, v := t.v.set 4 [⟨5, 63⟩, ⟨192, 63⟩] }
theorem witness_CountersMarksAndSends_send_trap : Issues sendingBad (.send 0 Guard.pt 4 8 255 8) Guard.pt ∧ sendingBad.cur.d.dmode = false
    ∧ sendingBad.settle.cur.kept = none ∧ sendingBad.settle.cur.msg.length < 63 ∧ sendingBad.settle.cur.hmode = false
    ∧ sendingBad.settle.cur.recs = [] ∧ releaseStep sendingBad.settle.cur .dev sendingBad.settle.cur.ins = true
    ∧ lanesOf (selectedLanes sendingBad.settle.cur sendingBad.now Guard.pt) = 0 :: [1]
    ∧ sendSpec sendingBad ((sendingBad.settle.viewOf (.send 0 Guard.pt 4 8 255 8) Guard.pt 0).rv 4 0).val = some 261
    ∧ sendSpec sendingBad ((sendingBad.settle.viewOf (.send 0 Guard.pt 4 8 255 8) Guard.pt 1).rv 4 1).val = some 192 :=
  ⟨issues_of (by decide +kernel), by decide +kernel⟩
theorem witness_CountersMarksAndSends_send_dmode : Issues (dmode sending) (.send 0 Guard.pt 4 8 255 8) Guard.pt ∧ TrapsHere (dmode sending)
    ∧ (dmode sending).cur.d.dmode = true := ⟨issues_of (by decide +kernel), traps_of (by decide +kernel), by decide +kernel⟩
def keyed : State := team small fun t =>
  { t with
    mask := 0x80000005
    v := (t.v.set 4 ((List.range 32).map fun l => ⟨BitVec.ofNat 32 (100 - l), 63⟩)).set 15 ((List.range 32).map fun l => ⟨BitVec.ofNat 32 l, 5⟩)
    s := t.s.set 8 0x8010 }
theorem witness_ReorderMovesLanes : Issues keyed (.reorder 0 4 8) Guard.pt ∧ Homed keyed ∧ keyed.cur.st = .resident
    ∧ keyed.cur.d.dmode = false ∧ keyed.teams = [] ∧ keyed.blk.reorder = [] ∧ keyed.settle.cur.stack = []
    ∧ liveMask keyed.settle.cur 8 / 2 ^ keyed.cur.d.regs = 0 ∧ keyed.settle.cur.tags = 0 ∧ keyed.settle.cur.fix = []
    ∧ keyed.settle.cur.mask ≠ 0 ∧ keyed.settle.cur.p.length = 7 ∧ (lanesOf keyed.settle.cur.mask).length ≤ keyed.cur.d.teamw
    ∧ (liveMask keyed.settle.cur 8).testBit 15 = true :=
  ⟨issues_of (by decide +kernel), by decide +kernel⟩
def keyedTwo : State := { keyed with teams := two.teams }
theorem witness_ReorderMovesLanes_waits : Issues keyedTwo (.reorder 0 4 8) Guard.pt ∧ Homed keyedTwo ∧ keyedTwo.cur.d.dmode = false
    ∧ (∀ u ∈ keyedTwo.teams, u.st = .resident ∧ u.bid = keyedTwo.cur.bid ∧ u.core = keyedTwo.cur.core ∧ u.wait ≠ .reorder)
    ∧ keyedTwo.teams ≠ [] ∧ keyedTwo.settle.cur.stack = [] ∧ liveMask keyedTwo.settle.cur 8 / 2 ^ keyedTwo.cur.d.regs = 0
    ∧ keyedTwo.blk.reorder = [] := ⟨issues_of (by decide +kernel), by decide +kernel⟩
/-- The other team waits with the live mask 0x10. -/
def otherTeam : Team := { small.cur with uid := 9, tno := 1, wait := .reorder }
def keyedOther : State := { block keyed (fun b => { b with reorder := [(9, 0x10, 0x12345678, 0)] }) with teams := [otherTeam] }
theorem witness_ReorderMovesLanes_differ : Issues keyedOther (.reorder 0 4 8) Guard.pt ∧ Homed keyedOther ∧ keyedOther.cur.st = .resident
    ∧ otherTeam.st = .resident ∧ otherTeam.bid = keyedOther.cur.bid ∧ otherTeam.core = keyedOther.cur.core ∧ otherTeam.tags = 0
    ∧ otherTeam.fix = [] ∧ keyedOther.cur.uid ≠ 9 ∧ keyedOther.settle.cur.stack = [] ∧ keyedOther.settle.cur.tags = 0 ∧ keyedOther.settle.cur.fix = []
    ∧ keyedOther.settle.cur.recs = [] ∧ keyedOther.cur.d.dmode = false
    ∧ liveMask keyedOther.settle.cur 8 / 2 ^ keyedOther.cur.d.regs = 0 ∧ 0x10 ≠ liveMask keyedOther.settle.cur 8 :=
  ⟨issues_of (by decide +kernel), by decide +kernel⟩

/-! ### Translation -/

/-- A table for ASID 1: its first entry names a table, whose first entry is a 1-GiB leaf that may be read and written. -/
def tabled (a : Nat) : State :=
  { small with
    mem := memWriteN (memWriteN [] 0x100000 [0x03, 0x00, 0x20]) 0x200000 [BitVec.ofNat 8 (0x0D + a)]
    asids := small.asids.set 1 ⟨1, true, true⟩
    parts := small.parts.set 0 { small.part 0 with asidCount := 2 } }
theorem witness_TranslationEvents_walk : (tabled 0x40).walk 0 1 0x3FFFFFFF = .leaf ⟨30, 0, 0x4D, 0x200000⟩
    ∧ (tabled 0).walk 0 1 0x10 = .leaf ⟨30, 0, 0x0D, 0x200000⟩
    ∧ permitted ((⟨30, 0, 0x0D, 0x200000⟩ : Leaf).entryFor 0 1 0x10) .atomic 4 = true := by decide +kernel
def foreign : State := { tabled 0 with asids := small.asids.set 1 ⟨0xC000, true, true⟩ }
theorem witness_TranslationEvents_violation : foreign.walk 0 1 0x10 = .violation 0xC00000000 ∧ foreign.cur.core / 4 < foreign.piers.length := by
  decide +kernel
theorem witness_TranslationEvents_fault : (tabled 0).walk 0 1 0x40000000 = .fault 0 := by decide +kernel
theorem witness_TranslationEvents_inval_held : (2 : BitVec 2) ≠ 3 ∧ 64 ≤ (List.replicate 64 (⟨0, 0, 2, 0⟩ : Inval)).length := by decide
theorem witness_TranslationEvents_inval : (2 : BitVec 2) ≠ 3 ∧ small.invals.length < 64 ∧ 64 < small.funcs.length := by decide +kernel
def invalidating : State := { small with invals := [⟨64, 0, 2, 0⟩] }
theorem witness_TranslationEvents_complete : (invalidating.invals.find? fun x => x.f = 64) = some ⟨64, 0, 2, 0⟩
    ∧ 64 < invalidating.funcs.length ∧ (∀ u ∈ invalidating.allTeams, u.uses ⟨64, 0, 2, 0⟩ = false)
    ∧ ∀ b ∈ invalidating.saved, ∀ u ∈ b.teams, u.flies ⟨64, 0, 2, 0⟩ = false := by decide +kernel
theorem witness_TranslationEvents_next : ({ invalidating with invalHeld := [⟨63, 1, 2, 0⟩] } : State).invalHeld = ⟨63, 1, 2, 0⟩ :: [] := rfl
def selecting : State := small.onFunc 0 fun x => { x with fasidBase := 1, fasidCount := 1, asidsel := 1 }
theorem witness_TranslationEvents_asid : (selecting.func 0).ownsAsid = true ∧ (selecting.func 0).asidsel < selecting.asids.length
    ∧ (small.func 0).ownsAsid = false ∧ 0 < small.funcs.length := by decide +kernel
def held : HeldAccess := ⟨7, 0, 5, 31, false, 0x10, .load, some (.load .b32), 15, 0, 0, [], 4, .plain, .team, .rlx, ⟨0x1000, 1⟩, ⟨0x1008, 0⟩, 0,
  none⟩
def holding : State := { team small (fun t => { t with held := [held], tags := 0x20, at_ := ⟨0x1008, 0⟩ }) with holders := [(7, .team 2)] }
theorem witness_TranslationEvents_ignored : small.holders.lookup 7 = none := by decide +kernel
theorem witness_TranslationEvents_retry : Homed holding ∧ holding.holders.lookup held.token = some (.team holding.cur.uid)
    ∧ holding.funcOf holding.cur.lid holding.cur.d.part = 0 ∧ holding.cur.held = [held] ∧ held.whole = false ∧ held.failed = none ∧ (holding.pier (holding.cur.core / 4)).walkerFrozen = false ∧ held.kind = .load ∧ held.op = some (.load .b32) ∧ holding.cur.d.dmode = false
    ∧ (State.xlate { holding with holders := holding.holders.filter fun x => x.1 ≠ 7, cur := { holding.cur with held := [] } }
        held.va held.kind held.size).2 = .ok 0x8000000000010 false := by decide +kernel
def frozenWalker : State := { holding with piers := holding.piers.map fun x => { x with walkerFrozen := true } }
theorem witness_TranslationEvents_frozen : (frozenWalker.pier (frozenWalker.cur.core / 4)).walkerFrozen = true ∧ Homed frozenWalker
    ∧ frozenWalker.holders.lookup 7 = some (.team frozenWalker.cur.uid) ∧ frozenWalker.cur.d.dmode = false
    ∧ frozenWalker.funcOf frozenWalker.cur.lid frozenWalker.cur.d.part = 0 ∧ (tabled 0).cur.core / 4 < (tabled 0).piers.length
    ∧ ((tabled 0).pier ((tabled 0).cur.core / 4)).walkerFrozen = false := by decide +kernel
theorem test_retry_frozen : (after (exec (.prespRetry 0 7) frozenWalker)).holders = [(7, .retried 2)]
    ∧ (after (exec (.prespRetry 0 7) holding)).holders = [] := by decide +kernel
theorem witness_TranslationEvents_fail : Homed holding ∧ holding.holders.lookup held.token = some (.team holding.cur.uid)
    ∧ held.lane < 1024 ∧ holding.cur.at_ = held.next ∧ holding.cur.recs = [] ∧ holding.cur.hmode = false ∧ holding.cur.mask &&& ~~~ laneBit held.lane ≠ 0
    ∧ holding.cur.d.dmode = false := by decide +kernel

/-- A store to slice 1, which is not the partition's. -/
def trespass : State := team small fun t => { t with mask := 1, v := t.v.set 4 (List.replicate 32 ⟨0x800000, 63⟩) }
def stLow : Instr := .st 0 Guard.pt .sb1 4 6 .b32 .plain .team 0
def trespasses : Bool :=
  let lk := lookOf trespass stLow Guard.pt .store 4 fun t l => t.rvPair 4 l + (0 : BitVec 10).signExtend 64
  lk.dead.isNone && lk.viol == some (false, 0x800000, 0x8000000800000)
theorem witness_TranslationEvents_isolation : accessForm stLow = some (Guard.pt, .store, 4, 4, 0) ∧ Issues trespass stLow Guard.pt
    ∧ trespass.settle.cur.d.dmode = false ∧ trespasses = true ∧ trespass.cur.d.part < trespass.parts.length
    ∧ (trespass.part trespass.cur.d.part).st = .active ∧ trespass.frozen.length < 8 :=
  ⟨rfl, issues_of (by decide +kernel), by decide +kernel⟩

/-! ### Engines and D-mode -/

/-- The block's copy of 16 bytes from slice 0 to offset 0xFF0, translated by an identity page. -/
def slice16 : Slice := ⟨0, 0x8000000000010, 0xFF0, 16, false, none⟩
def toSlice : TlbEntry := ⟨0, none, 0, 0x8000000000000 / 2 ^ 30, 30, 0x8000000000000, false, false, true, true, true, 0⟩
def beating : State :=
  { block small (fun b => { b with copies := [⟨0, [slice16], true, false, 0, [], []⟩] }) with
    tlb := [toSlice]
    mem := memWriteN [] 0x8000000000010 [1, 2, 3, 4, 5, 6, 7, 8, 9, 10, 11, 12, 13, 14, 15, 16] }
theorem witness_EngineEvents_beat : beating.blk.live = true
    ∧ (⟨0, [slice16], true, false, 0, [], []⟩ : Copy).beats.drop 0 = (slice16, 0) :: []
    ∧ (⟨0, [slice16], true, false, 0, [], []⟩ : Copy).differs = none ∧ beating.blk.kill = none ∧ beating.blk.leaving ≠ .flush ∧ beating.blk.d.dmode = false
    ∧ (beating.core beating.blk.home).bteFrozen = false ∧ beating.openCycle beating.blk.home = true
    ∧ Mem.wf beating.blk.spad = true
    ∧ (State.translate ((beating.chargeBeat 0).onCopy 0 fun c => { c with beat := c.beat + 1 }) none 0 0 0 slice16.ga .load 16).2
        = .ok 0x8000000000010 false
    ∧ State.badData (State.translate ((beating.chargeBeat 0).onCopy 0 fun c => { c with beat := c.beat + 1 }) none 0 0 0 slice16.ga .load 16).1
        0x8000000000010 16 = false := by decide +kernel
def beaten : Copy := ⟨0, [slice16], true, false, 1, [], []⟩
def copied : State := team (block small fun b => { b with copies := [beaten] }) fun t => { t with cpy := [⟨0, false⟩] }
theorem witness_EngineEvents_copy : Homed copied ∧ copied.blk.copies = [beaten] ∧ beaten.finished = true ∧ beaten.report = none
    ∧ (∀ x ∈ beaten.slices, x.ring = none) ∧ copied.blk.kill = none ∧ copied.blk.leaving ≠ .flush ∧ copied.blk.d.dmode = false ∧ (copied.core copied.blk.home).bteFrozen = false := by
  decide +kernel
/-- The beat's page is not mapped. -/
def beatless : State := { beating with tlb := [] }
def beatFaults : Bool :=
  let s0 := (beatless.chargeBeat 0).onCopy 0 fun c => { c with beat := c.beat + 1 }
  match s0.translate none 0 0 0 slice16.ga .load 16 with
  | (s1, .fault _) => !(s1.asid 0).recov && decide (s1.blk = s0.blk)
  | (_, _) => false
theorem witness_EngineEvents_beat_fault : beatFaults = true ∧ beatless.blk.live = true
    ∧ beatless.blk.copies = [⟨0, [slice16], true, false, 0, [], []⟩] ∧ slice16.n = 16
    ∧ (⟨0, [slice16], true, false, 0, [], []⟩ : Copy).beats.drop 0 = [(slice16, 0)] ∧ beatless.blk.home = 0
    ∧ (beatless.core 0).bteFrozen = false ∧ beatless.openCycle 0 = true := by decide +kernel
def beatenBad : Copy := { beaten with faults := [⟨0, 2, 0, 1⟩, ⟨0, 1, 0, 1⟩, ⟨3, 0, 0, 1⟩] }
def copiedBad : State := block copied fun b => { b with copies := [beatenBad] }
theorem witness_EngineEvents_copy_fault : Homed copiedBad ∧ copiedBad.cur.st = .resident ∧ copiedBad.blk.copies = [beatenBad]
    ∧ beatenBad.finished = true ∧ beatenBad.differs = none ∧ ⟨0, 1, 0, 1⟩ ∈ beatenBad.faults
    ∧ (∀ g ∈ beatenBad.faults, g.kind < 8 ∧ (0 < g.tno ∨ 0 = g.tno ∧ 1 ≤ g.kind)) ∧ (∀ x ∈ beatenBad.slices, x.ring = none)
    ∧ (slice16.tno = copiedBad.cur.tno ∧ beatenBad.slices = [slice16]) ∧ copiedBad.blk.kill = none ∧ copiedBad.blk.leaving ≠ .flush
    ∧ copiedBad.blk.d.dmode = false ∧ (copiedBad.core copiedBad.blk.home).bteFrozen = false := by decide +kernel
/-- The copy leaves a record at offset 0xFF0. -/
def ringed (fs : List CopyFault) : Copy := { beaten with slices := [{ slice16 with ring := some (15, 0xF00) }], faults := fs }
def copiedRing (fs : List CopyFault) : State := block copied fun b => { b with copies := [ringed fs] }
theorem witness_EngineEvents_copy_record : ∀ fs ∈ [[], [(⟨0, 1, 0, 1⟩ : CopyFault)]], Homed (copiedRing fs)
    ∧ (copiedRing fs).blk.copies = [ringed fs] ∧ (ringed fs).finished = true
    ∧ (ringed fs).slices = [{ slice16 with ring := some (15, 0xF00) }] ∧ (ringed fs).faults = fs
    ∧ Mem.wf (copiedRing fs).blk.spad = true ∧ (copiedRing fs).blk.kill = none ∧ (copiedRing fs).blk.leaving ≠ .flush
    ∧ (copiedRing fs).blk.d.dmode = false ∧ ((copiedRing fs).core (copiedRing fs).blk.home).bteFrozen = false
    ∧ slice16.tno = (copiedRing fs).cur.tno := by decide +kernel
theorem witness_EngineEvents_batch : Homed small ∧ small.cur.d.dmode = false ∧ (∀ b, small.batchOpen small.cur b = false)
    ∧ small.mtxBusy small.cur = false ∧ small.blk.reorder = [] ∧ small.cur.st = .resident := by
  refine ⟨by decide +kernel, by decide +kernel, fun b => ?_, by decide +kernel⟩
  have h : ((small.core small.cur.core).quads.getD small.cur.quad .reset).mtxq = [] := by decide +kernel
  show ((((small.core small.cur.core).quads.getD small.cur.quad .reset).mtxq.any _) : Bool) = false
  rw [h]; rfl
theorem witness_EngineEvents_batch_dmode : Homed (dmode small) ∧ (dmode small).cur.d.dmode = true := by decide +kernel
def zeroing : SetEntry := ⟨0, 1, 3, 47, 0, 0x7FFFF8, 8, 0, 0⟩
def launched (l : Launch) : State := { small with launches := [l] }
def launch0 : Launch :=
  ⟨0, 0, 0, 5, false, small.cur.d, [], [zeroing], 1, 1, 1, 0, 0, none, false, [], 0, 0, false, 0⟩
theorem witness_EngineEvents_start : (launched launch0).block small.blk.bid = some small.blk ∧ small.blk.lid = launch0.lid
    ∧ (launched launch0).launch launch0.lid = some launch0 ∧ small.blk.d.dmode = false ∧ launch0.table[0]? = some zeroing
    ∧ zeroing.kind = 3 ∧ (launched launch0).entryMayStart small.blk launch0 0 zeroing = true := by decide +kernel
theorem witness_CountersMarksAndSends_starts : Issues (launched launch0) (.mark 0 0) Guard.pt ∧ Homed (launched launch0)
    ∧ (launched launch0).settle.lateEntries (launched launch0).settle.blk 0 = [] ∧ (launched launch0).cur.st = .resident
    ∧ (launched launch0).teams = [] ∧ launch0.table[0]? = some zeroing ∧ zeroing.issue ≤ 0 ∧ launch0.entry small.cur.bid 0 = none :=
  ⟨issues_of (by decide +kernel), by decide +kernel⟩
theorem witness_CountersMarksAndSends_late : Issues (launched launch0) (.mark 0 1) Guard.pt ∧ TrapsHere (launched launch0)
    ∧ (launched launch0).settle.cur.mark ≤ 1 ∧ (launched launch0).settle.lateEntries (launched launch0).settle.blk 1 = [(0, false)] :=
  ⟨issues_of (by decide +kernel), traps_of (by decide +kernel), by decide +kernel⟩
def running : EntRun := ⟨small.blk.bid, 0, 0, .running⟩
theorem witness_EngineEvents_zero : (launched { launch0 with ents := [running] }).Canonical ∧ running.st = .running ∧ zeroing.slice < 48
    ∧ zeroing.len % 8 = 0 ∧ zeroing.soff + running.index * zeroing.sstride + zeroing.len ≤ 0x800000
    ∧ ((launched launch0).slices.getD zeroing.slice .reset).tierFrozen = false := by decide +kernel
/-- An entry of 256 bytes between the end of slice 47 and the start of slice 0, whose pages are mapped or not. -/
def moving (kind : Nat) : SetEntry := ⟨0, 1, kind, 47, 0x8000000000100, 0x7FFF00, 256, 0, 0⟩
def launchOf (e : SetEntry) : Launch := { launch0 with table := [e], ents := [running] }
def fetchingEntry (kind : Nat) (map : Bool) : State :=
  { launched (launchOf (moving kind)) with tlb := if map then [{ toSlice with pier := 47 }] else [] }
def entryKind (kind : Nat) : AccKind := if kind = 0 then .load else .store
def plainB (s : State) (pa n : Nat) : Bool :=
  (List.range n).all fun k => memoryB s (pa + k) && homeOf s.devno (pa + k) == homeOf s.devno pa + k
theorem plainRange_of {s : State} {pa n : Nat} (h : plainB s pa n = true) : PlainRange s pa n := by
  intro k hk
  have := List.all_eq_true.1 h k (List.mem_range.2 hk)
  simp only [Bool.and_eq_true, beq_iff_eq] at this
  exact ⟨(memoryAt_of this.1).1, this.2⟩
def movesB (kind : Nat) : Bool :=
  match (fetchingEntry kind true).translate none 47 small.cur.d.part small.cur.d.asid 0x8000000000100 (entryKind kind) 256 with
  | (s1, .ok pa _) => decide (s1.Canonical ∧ s1.launches = [launchOf (moving kind)] ∧ pa = 0x8000000000100)
      && plainB s1 pa 256 && decide (homeOf s1.devno pa + 256 ≤ 0x8000000000000 + 47 * 0x800000 + 0x7FFF00)
      && !s1.badData (if kind = 0 then pa else 0x8000000000000 + 47 * 0x800000 + 0x7FFF00) 256
  | (_, _) => false
theorem witness_EngineEvents_move : ∀ kind ∈ [0, 1, 2], movesB kind = true
    ∧ (fetchingEntry kind true).launches = [launchOf (moving kind)] ∧ (launchOf (moving kind)).ents = [running]
    ∧ (launchOf (moving kind)).table[running.idx]? = some (moving kind) ∧ (launchOf (moving kind)).d.dmode = false ∧ running.st = .running
    ∧ (moving kind).soff + running.index * (moving kind).sstride + 256 ≤ 0x800000
    ∧ ((fetchingEntry kind true).slices.getD 47 .reset).tierFrozen = false := by decide +kernel
def entryFaults (kind : Nat) : Bool :=
  match (fetchingEntry kind false).translate none 47 small.cur.d.part small.cur.d.asid 0x8000000000100 (entryKind kind) 256 with
  | (s1, .fault _) => decide (s1.launches = [launchOf (moving kind)]) && !(s1.asid small.cur.d.asid).recov
  | (_, _) => false
theorem witness_EngineEvents_move_fault : ∀ kind ∈ [0, 1, 2], entryFaults kind = true := by decide +kernel
/-- A DROP of the bytes that a ZERO of the same block is clearing. -/
def dropping : SetEntry := ⟨0, 1, 4, 47, 0, 0x7FFFF8, 4, 0, 0⟩
def dropLaunch : Launch := { launch0 with table := [zeroing, dropping], ents := [running] }
theorem witness_EngineEvents_drop : (launched dropLaunch).Canonical ∧ (launched dropLaunch).block small.blk.bid = some small.blk
    ∧ dropLaunch.lid = small.blk.lid ∧ small.blk.d.dmode = false ∧ dropLaunch.table[1]? = some dropping
    ∧ (launched dropLaunch).entryMayStart small.blk dropLaunch 1 dropping = true ∧ dropLaunch.table[0]? = some zeroing
    ∧ (launched dropLaunch).entryMayStart small.blk dropLaunch 0 zeroing = false ∧ running = ⟨small.blk.bid, small.blk.index, 0, .running⟩
    ∧ dropping.soff + small.blk.index * dropping.sstride < zeroing.soff + small.blk.index * zeroing.sstride + zeroing.len
    ∧ zeroing.soff + small.blk.index * zeroing.sstride < dropping.soff + small.blk.index * dropping.sstride + dropping.len := by
  decide +kernel
theorem witness_EngineEvents_drop_complete : (launchOf dropping).table[running.idx]? = some dropping ∧ dropping.kind = 4
    ∧ (launchOf dropping).ents = [running] ∧ ((launched (launchOf dropping)).slices.getD 47 .reset).tierFrozen = false := by decide +kernel
def dlaunch : Launch := { launch0 with d := { small.cur.d with dmode := true }, table := [] }
def committing (x : DHeld) : State := team (dmode (launched dlaunch)) fun t => { t with qdone := true, dheld := [x] }
theorem quantumOver_of {s : State} {l : Launch} (h : decide (Homed s ∧ s.Canonical
    ∧ (s.teams = [] ∧ s.blocks = [] ∧ s.saved = [] ∧ s.launches = [l])
    ∧ (l.d.dmode = true ∧ l.dealt = l.blocks ∧ l.table = [] ∧ l.commitAt ≤ s.clock.toNat)
    ∧ (s.cur.lid = l.lid ∧ s.blk.lid = l.lid ∧ s.cur.d.dmode = true) ∧ s.cur.st = .resident
    ∧ s.quantumEnded s.cur = true ∧ s.blk.kill = none ∧ s.blk.copies = []) = true) : QuantumOver s l := by
  obtain ⟨a, b, c, d, e, f, g, h⟩ := of_decide_eq_true h
  exact ⟨a, b, c, d, e, f, g, h⟩
def heldStore : WaitingStore := ⟨0, 0, 0, ⟨0x10, 2, 12, 0x8000000000010⟩, 0x8000000000010, [1, 2], .plain, .team, false⟩
def heldAtom : DHeld := .atom 0 5 31 (.atom .add false) 15 ⟨0x10, 4, 12, 0x8000000000010⟩ 0x8000000000010 7 0
theorem witness_EngineEvents_commit : QuantumOver (committing (.store heldStore)) dlaunch ∧ heldStore.bytes ≠ []
    ∧ (committing (.store heldStore)).cur.wait = .none ∧ (committing (.store heldStore)).cur.dkill = none
    ∧ QuantumOver (committing heldAtom) dlaunch ∧ (committing heldAtom).badData 0x8000000000010 4 = false :=
  ⟨quantumOver_of (by decide +kernel), by decide, by decide +kernel, by decide +kernel, quantumOver_of (by decide +kernel),
    by decide +kernel⟩

/-- A D-mode team that waits for its commit at an instruction, barrier 15 empty; and one that has arrived there in phase 3. -/
def atBarrier (i : Instr) : State := team (dmode (launched dlaunch)) fun t => { t with wait := .commit i }
def atBarrier3 (i : Instr) : State := team (block (atBarrier i) fun b => { b with bars := b.bars.set 15 ⟨some .all, 0, 3⟩ }) fun t =>
  { t with last := t.last.set 15 (some 3) }
theorem witness_BarriersCountAndHold_commit : QuantumOver (atBarrier (.barArr 0 15 .all)) dlaunch
    ∧ QuantumOver (atBarrier (.barSync 0 15 .all)) dlaunch ∧ (atBarrier (.barArr 0 15 .all)).cur.dkill = none
    ∧ (atBarrier (.barArr 0 15 .all)).cur.dheld = [] ∧ (atBarrier (.barArr 0 15 .all)).blk.bars.length = 16
    ∧ (atBarrier (.barArr 0 15 .all)).cur.last.length = 16 ∧ (atBarrier (.barArr 0 15 .all)).cur.synced = none
    ∧ releaseStep (atBarrier (.barArr 0 15 .all)).cur .block (atBarrier (.barArr 0 15 .all)).cur.ins = true
    ∧ ((atBarrier (.barArr 0 15 .all)).blk.bars.getD 15 ⟨none, 0, 0⟩).exp = none ∧ barNeed 1 .all ≤ 0 + 1 :=
  ⟨quantumOver_of (by decide +kernel), quantumOver_of (by decide +kernel), by decide +kernel⟩
/-- A block of two teams, of which one is left: two arrivals are expected. -/
def atBarrier2 (i : Instr) : State := desc (atBarrier i) fun d => { d with teams := 2 }
theorem witness_BarriersCountAndHold_commit_count : ∀ i ∈ [Instr.barArr 0 15 (.count 1), .barSync 0 15 (.count 1)],
    (atBarrier2 i).cur.wait = .commit i ∧ (1 : BitVec 5).toNat + 1 ≤ (atBarrier2 i).cur.d.teams ∧ 0 + 1 < barNeed 1 (.count 1)
      ∧ (atBarrier2 i).cur.dheld = [] := by decide +kernel
theorem witness_BarriersCountAndHold_commit_over : QuantumOver (atBarrier2 (.barArr 0 15 (.count 1))) dlaunch
    ∧ QuantumOver (atBarrier2 (.barSync 0 15 (.count 1))) dlaunch := ⟨quantumOver_of (by decide +kernel), quantumOver_of (by decide +kernel)⟩
theorem witness_BarriersCountAndHold_commit_wait : QuantumOver (atBarrier (.barWait 0 15)) dlaunch
    ∧ (atBarrier (.barWait 0 15)).barrierWaits 15 = false ∧ QuantumOver (atBarrier3 (.barWait 0 15)) dlaunch
    ∧ (atBarrier3 (.barWait 0 15)).cur.wait = .commit (.barWait 0 15) ∧ (atBarrier3 (.barWait 0 15)).barrierWaits 15 = true :=
  ⟨quantumOver_of (by decide +kernel), by decide +kernel, quantumOver_of (by decide +kernel), by decide +kernel, by decide +kernel⟩
/-- The team's trap without a handler kills at the commit. -/
def killTeam : State := team (dmode (launched dlaunch)) fun t => { t with qdone := true, dkill := some ⟨0x13, 0, 1, 0x1000, 255, 0, true⟩ }
theorem witness_EngineEvents_commit_kill : QuantumOver killTeam dlaunch ∧ killTeam.cur.dkill = some ⟨0x13, 0, 1, 0x1000, 255, 0, true⟩ :=
  ⟨quantumOver_of (by decide +kernel), by decide +kernel⟩

/-! ### Queues -/

def half : QcbHalf := ⟨0x10000, 4, 4, 0, 0, 0, 0, 0x20000, 0, 1, 1, 1, 5⟩
/-- A page of 1 GiB from an address, for the scheduler core, on the slices. -/
def page (a : Nat) : TlbEntry := ⟨48, none, 0, a / 2 ^ 30, 30, slicePa 0 0, false, true, true, true, true, 0⟩
/-- Queue 0 of function 0 with bytes at the start of its ring. -/
def queued (bs : List Byte) (f : Queue → Queue) : State :=
  { small.onQueue 0 0 fun x => f { x with half := half, st := .active, tail := 1 } with
    tlb := [page 0, page 0x8000000000000] ++ small.tlb
    mem := memWriteN small.mem (slicePa 0 0x10000) bs
    parts := small.parts.set 0 { small.part 0 with tenants := [⟨0, true, 100, 0⟩] } }
def doorbell : State := queued [] fun x => { x with head := 0xFFFFFFF8, tail := 0xFFFFFFF8, cmplTail := 2, chead := 0xFFFFFFFF }
theorem witness_QueueRegisterEvents : HasQueue doorbell 0 0 ∧ HasQueue doorbell 64 63
    ∧ (0x08 - (doorbell.queue 0 0).head).toNat = 2 ^ (doorbell.queue 0 0).half.ringlog
    ∧ ((2 : Word) - (doorbell.queue 0 0).chead).toNat ≤ ((doorbell.queue 0 0).cmplTail - (doorbell.queue 0 0).chead).toNat
    ∧ (doorbell.queue 0 0).owed = []
    ∧ ((doorbell.queue 0 0).cmplTail - (doorbell.queue 0 0).chead).toNat < ((3 : Word) - (doorbell.queue 0 0).chead).toNat := by
  decide +kernel
/-- The queue idle, with a half at its place in host memory, under a QCB base. -/
def enabling (ring : Byte) (t : Word) : State :=
  let s := (queued [] fun x => { x with st := .idle, tail := t }).onFunc 0 fun x => { x with fqcb := 0x40000 }
  { s with mem := memWriteN s.mem (hostPa 0x40000) ([0, 0, 1, 0, 0, 0, 0, 0, ring, 4, 0, 0, 0, 0, 0, 0, 0, 0, 2, 0, 0, 0, 0, 0, 3, 1, 64, 1, 5, 0]) }
theorem witness_QueueRegisterEvents_enable : HasQueue (enabling 4 16) 0 0 ∧ ((enabling 4 16).func 0).tdi ≠ .locked
    ∧ ((enabling 4 16).queue 0 0).st = .idle ∧ ((enabling 4 16).func 0).snapshot = [] ∧ ((enabling 4 16).func 0).stopped = false
    ∧ (doorbell.func 0).tdi ≠ .locked ∧ (doorbell.queue 0 0).st = .active := by decide +kernel
def resetting : State := queued [] fun x => { x with st := .resetting, tail := 9, pending := 1 }
theorem witness_QueueRegisterEvents_stopped : (((enabling 4 16).onFunc 0 fun x => { x with stopped := true }).func 0).stopped = true := by
  decide +kernel
theorem witness_QueueRegisterEvents_reset : HasQueue resetting 0 0 ∧ (doorbell.queue 0 0).st ≠ .resetting
    ∧ (resetting.queue 0 0).st = .resetting ∧ (∀ l ∈ resetting.launches, l.f = 0 → l.q ≠ 0) ∧ (resetting.queue 0 0).owed = [] := by
  decide +kernel
def unread (n : Nat) : State :=
  { queued [] (fun x => { x with pending := 1, oldest := 10, idleFrom := some 10 }) with clock := BitVec.ofNat 64 n }
theorem witness_QueueRegisterEvents_timer : ((unread 1260).queue 0 0).pending ≠ 0
    ∧ ((unread 1260).queue 0 0).oldest + ((unread 1260).queue 0 0).half.coalt * 1250 ≤ (unread 1260).clock.toNat
    ∧ ((unread 5010).queue 0 0).idleFrom = some 10 ∧ 10 + 5000 ≤ (unread 5010).clock.toNat
    ∧ (unread 1260).reaches 0 0 = true := by decide +kernel

def nop : State := queued (bytesOf 8 0x500000000) id
def ordered : State := queued (bytesOf 8 0x500000100) id
def wait : State := queued (bytesOf 8 2) id
def commandOf (s : State) : Option Command :=
  match (s.nextCommand 0 0).2 with
  | .ok c => some c
  | .error _ => none
theorem witness_QueueCommandEvents_nop : HasQueue nop 0 0 ∧ nop.takes 0 0 = true
    ∧ commandOf nop = some ⟨0, false, false, true, 5, 0, 0⟩ ∧ (⟨0, false, false, true, 5, 0, 0⟩ : Command).formed = true
    ∧ commandOf ordered = some ⟨0, true, false, true, 5, 0, 0⟩ ∧ (ordered.queue 0 0).taken = []
    ∧ wait.takes 0 0 = true ∧ commandOf wait = some ⟨2, false, false, true, 0, 0, 0⟩ ∧ (wait.queue 0 0).taken = [] := by
  decide +kernel
def behind : State := queued (bytesOf 8 0x500000100) fun x => { x with taken := [⟨3, ⟨1, false, true, true, 5, 0, 0⟩, some 0⟩] }
theorem witness_QueueCommandEvents_behind : commandOf behind = some ⟨0, true, false, true, 5, 0, 0⟩ ∧ (behind.queue 0 0).taken ≠ [] := by
  decide +kernel
def signal : State := queued (bytesOf 8 3 ++ bytesOf 8 0x800000017FFF8 ++ bytesOf 8 0x1122334455667788) id
theorem witness_QueueCommandEvents_signal : HasQueue signal 0 0 ∧ signal.takes 0 0 = true
    ∧ commandOf signal = some ⟨3, false, false, true, 0, 0x800000017FFF8, 0x1122334455667788⟩
    ∧ (⟨3, false, false, true, 0, 0x800000017FFF8, 0x1122334455667788⟩ : Command).formed = true ∧ (signal.queue 0 0).taken = []
    ∧ (State.queueXlate ((signal.nextCommand 0 0).1.advanceHead 0 0) 0 0 0x800000017FFF8 .store 8).2 = .ok 0x800000017FFF8 false
    ∧ (State.queueXlate ((signal.nextCommand 0 0).1.advanceHead 0 0) 0 0 0x800000017FFF8 .store 8).1.reaches 0 0 = true
    ∧ (State.queueXlate ((signal.nextCommand 0 0).1.advanceHead 0 0) 0 0 0x800000017FFF8 .store 8).1.Canonical
    ∧ (State.queueXlate ((signal.nextCommand 0 0).1.advanceHead 0 0) 0 0 0x800000017FFF8 .store 8).1.badData 0x800000017FFF8 8 = false := by
  decide +kernel
/-- A descriptor at 0x30000: 5 blocks of one team of 32 lanes and 8 registers, 2 arguments, one table entry at 0x38000. -/
def descBytes : List Byte :=
  bytesOf 8 0x50000 ++ bytesOf 4 5 ++ bytesOf 2 1 ++ bytesOf 2 1 ++ bytesOf 2 32 ++ [32, 1, 8, 0, 2, 0] ++ bytesOf 4 4096
    ++ bytesOf 4 0 ++ bytesOf 8 0x38000 ++ bytesOf 2 1 ++ [2, 0] ++ bytesOf 2 0 ++ bytesOf 2 0 ++ bytesOf 8 0 ++ bytesOf 8 0
    ++ bytesOf 64 0 ++ bytesOf 4 7 ++ bytesOf 4 8
def entryBytes : List Byte := bytesOf 2 0 ++ bytesOf 2 1 ++ [3, 47] ++ bytesOf 10 0 ++ bytesOf 4 0x7FFF00 ++ bytesOf 4 256 ++ bytesOf 8 0
def launching : State :=
  let s := queued (bytesOf 8 0x700000201 ++ bytesOf 8 0x30000) id
  { s with mem := memWriteN (memWriteN s.mem (slicePa 0 0x30000) descBytes) (slicePa 0 0x38000) entryBytes
           parts := s.parts.set 0 { s.part 0 with slices := 2 ^ 48 - 1, pairs := 2 ^ 96 - 1 } }
def launchDesc : Desc := Desc.ofBytes (descBytes.take 128) half
def bytesRead (x : State × Except Nat (List Byte)) : State × Option (List Byte) :=
  (x.1, match x.2 with | .ok b => some b | .error _ => none)
def read1 : State × Option (List Byte) := bytesRead (((launching.nextCommand 0 0).1.advanceHead 0 0).queueRead 0 0 0x30000 128)
def read2 : State × Option (List Byte) := bytesRead (read1.1.queueRead 0 0 0x30080 (4 * launchDesc.argn))
def read3 : State × Option (List Byte) := bytesRead (read2.1.queueRead 0 0 launchDesc.setout (32 * launchDesc.setoutn))
theorem witness_QueueCommandEvents_launch : HasQueue launching 0 0 ∧ launching.takes 0 0 = true
    ∧ commandOf launching = some ⟨1, false, true, true, 7, 0x30000, 0⟩ ∧ (⟨1, false, true, true, 7, 0x30000, 0⟩ : Command).formed = true
    ∧ (launching.queue 0 0).inflight < 16 ∧ (launching.queue 0 0).half = half
    ∧ read1.2 = some (descBytes.take 128) ∧ read2.2 = some (bytesOf 4 7 ++ bytesOf 4 8) ∧ read3.2 = some entryBytes
    ∧ launchStatus (read3.1.part half.part) true (descBytes.take 128) launchDesc half (tableOf entryBytes 1) = 0 := by decide +kernel
def overLaunch : Launch := { launch0 with blocks := 7, dealt := 7, ended := 7, cmpl := true, ents := [⟨3, 0, 0, .complete⟩], table := [zeroing] }
def allOver : State := { queued [] (fun x => { x with cmplTail := 0x12, chead := 3, taken := [⟨0, ⟨1, false, true, true, 5, 0, 0⟩, some 0⟩] }) with
  launches := [overLaunch] }
theorem witness_QueueCommandEvents_complete : allOver.launch overLaunch.lid = some overLaunch ∧ HasQueue allOver overLaunch.f overLaunch.q
    ∧ overLaunch.cancelled = false ∧ overLaunch.blocks = overLaunch.ended ∧ overLaunch.killed = 0
    ∧ (∀ e ∈ overLaunch.ents, e.st = .complete ∨ e.st = .cancelled) ∧ (allOver.queue overLaunch.f overLaunch.q).ringFull = false := by
  decide +kernel

/-! ### The scheduler tree -/

def pier0 (s : State) (f : Pier → Pier) : State := { s with piers := s.piers.set 0 (f (s.pier 0)) }
def part0 (s : State) (f : Partition → Partition) : State := { s with parts := s.parts.set 0 (f (s.part 0)) }
def shape : Desc := { placedDesc with gridx := 100, teams := 3, regs := 8, kernel := 0x5000, teamw := 48, groupw := 16 }
def wide : Launch := { launch0 with lid := 9, d := shape, table := [], blocks := 100, chunk := 64, dealt := 40 }
def dealing : State := { small with launches := [wide] }
theorem witness_TreeEvents_dispatch : dealing.nextDeal 0 = some wide ∧ (dealing.part 0).st = .active ∧ wide.d.dmode = false
    ∧ (dealing.pier (dealing.part 0).pierPtr).cmdPermits ≠ 0 ∧ (dealing.part 0).pierPtr < dealing.piers.length := by decide +kernel
/-- The round goes on from queue 3, where nothing is: at queue 6 of two queues of one class. -/
def rounding : State := part0 { small with launches := [wide, { wide with lid := 10, q := 6 }] } fun p => { p with nextQueue := (0, 3) }
theorem witness_TreeEvents_next : (rounding.nextDeal 0).map (·.lid) = some 10 ∧ (rounding.launches.map (·.lid)).Nodup
    ∧ (∀ m ∈ rounding.launches, m.f < Config.numFunctions ∧ m.q < 64) ∧ 64 * 0 + 3 ≤ 64 * Config.numFunctions
    ∧ (rounding.part 0).nextQueue = (0, 3) := by decide +kernel
/-- A partition of four piers, its pointer at one. -/
def pointers (n : Nat) : State := part0 dealing fun p => { p with pairs := 0xFF, slices := 0xFF, pierPtr := n }
theorem witness_TreeEvents_pointer : ∀ n ∈ [0, 3], (pointers n).nextDeal 0 = some wide ∧ ((pointers n).part 0).st = .active
    ∧ ((pointers n).pier n).cmdPermits ≠ 0 ∧ ((pointers n).part 0).piers = [0, 1, 2, 3] ∧ ((pointers n).part 0).pierPtr = n
    ∧ goes (exec (.dispatch 0) (pointers n)) = true := by decide +kernel
def placing : State :=
  part0 (pier0 dealing fun x => { x with queue := [⟨9, 4, 2, 0, 1, false⟩, ⟨9, 8, 2, 0, 0, false⟩] }) fun p => { p with ctxn := 0x1000000 }
def place : Placing := ⟨1, false, ⟨[(0, 0), (1, 0), (2, 0)], 3, [⟨[0], 2, 2048⟩, ⟨[0], 2, 2048⟩, ⟨[0], 2, 2048⟩, ⟨[], 0, 0⟩]⟩, none⟩
theorem witness_TreeEvents_place : (placing.leafTake 0).headRange 0 0 = some ⟨9, 8, 2, 0, 0, false⟩ ∧ (placing.part 0).st = .active
    ∧ (placing.pier 0).leafFrozen = false ∧ placing.saved = [] ∧ (placing.leafTake 0).givesWay 0 0 = false ∧ placing.launch 9 = some wide
    ∧ (placing.leafTake 0).findPlace 0 wide.d = some place := by decide +kernel
/-- No context area is free; a core takes no block of this class and scratchpad beside the one that is there; a block of two cores. -/
def areaLess : State := part0 placing fun p => { p with ctxn := 0 }
theorem witness_TreeEvents_no_place : (areaLess.leafTake 0).headRange 0 0 = some ⟨9, 8, 2, 0, 0, false⟩ ∧ areaLess.launch 9 = some wide
    ∧ (areaLess.leafTake 0).findPlace 0 wide.d = none ∧ 0 < areaLess.piers.length := by decide +kernel
def bulky : Desc := { shape with teams := 1, cls := 3, scratch := 768 * 1024 }
theorem witness_TreeEvents_no_core : placing.findPlace 0 bulky = none ∧ placing.areaFree bulky = true ∧ bulky.spread false = .core
    ∧ (placing.part bulky.part).handlers.isSome = false ∧ ownsPair (placing.part bulky.part) (1 / 2) = true := by decide +kernel
def paired (n : Nat) : Desc := { shape with teams := n, regs := 128 }
def placing2 : State := part0 placing fun p => { p with pairs := 3, ctxn := 0x10000000 }
theorem witness_TreeEvents_pair : (placing2.findPlace 0 (paired 64)).map (fun x => (x.home, x.pair)) = some (0, true)
    ∧ (paired 64).spread false = .pair ∧ (paired 96).spread false = .pair
    ∧ (placing2.findPlace 0 (paired 96)).map (fun x => (x.home, x.pair)) = some (2, true)
    ∧ (placing2.findPlace 0 shape).map (fun x => (x.home, x.pair)) = some (2, false) ∧ shape.spread false = .core
    ∧ (placing2.part 0).handlers.isSome = false := by decide +kernel
def ending : State := team small fun t => { t with st := .ended }
theorem witness_TreeEvents_end : ending.block ending.blk.bid = some ending.blk ∧ ending.blk.kill = none ∧ ending.blk.leaving = .no
    ∧ ending.blk.handler = false ∧ ending.blk.copies = [] ∧ (∀ u ∈ ending.blockTeams ending.blk.bid, u.st = .ended ∧ u.quiet = true ∧ ending.mtxBusy u = false)
    ∧ ending.blk.home / 4 < ending.piers.length ∧ ending.blk.d.dmode = false
    ∧ ∀ u ∈ (dmode ending).blockTeams ending.blk.bid, u.qacted = false := by decide +kernel
def reporting (r : Report) : State := { dealing with piers := dealing.piers.set 47 { dealing.pier 47 with reports := [r] } }
theorem witness_TreeEvents_report : ((reporting (.done 9)).pier 47).repPermits ≠ 0 ∧ 47 < (reporting (.done 9)).piers.length
    ∧ (∀ m, m < 47 → ((reporting (.done 9)).pier m).reports = []) ∧ ((reporting (.done 9)).pier 47).reports = [.done 9]
    ∧ ((reporting (.killed 9 4)).pier 47).reports = [.killed 9 4] ∧ ((reporting (.saved 4)).pier 47).reports = [.saved 4] := by
  refine ⟨by decide +kernel, by decide +kernel, ?_, rfl, rfl, rfl⟩
  decide +kernel
def saved1 : SavedBlock := ⟨{ small.blk with bid := 7, lid := 9 }, [{ small.cur with uid := 8, bid := 7 }], none⟩
def cancelling : State :=
  { pier0 dealing (fun x => { x with queue := [⟨9, 4, 2, 0, 1, false⟩, ⟨8, 4, 2, 0, 1, false⟩] }) with
    launches := [{ wide with cancelled := true }], saved := [saved1] }
theorem witness_TreeEvents_cancel : cancelling.launch 9 = some { wide with cancelled := true }
    ∧ (cancelling.pier 0).cmdPermits ≠ 0 ∧ (cancelling.pier 0).link = [] ∧ 0 < cancelling.piers.length := by decide +kernel
theorem witness_TreeEvents_restore : (cancelling.saved.find? fun x => x.blk.bid = saved1.blk.bid) = some saved1
    ∧ (cancelling.pier 0).cmdPermits ≠ 0 ∧ (cancelling.part saved1.blk.d.part).piers.contains 0 = true
    ∧ (cancelling.part saved1.blk.d.part).holder = some saved1.blk.d.tenant
    ∧ (∀ x ∈ cancelling.piers, x.reports.contains (.saved saved1.blk.bid) = false) := by decide +kernel
def entry0 : HandlerEntry := ⟨0x6000, 16, 24, 0, 0⟩
def table0 : HandlerTable := ⟨0, 0, [entry0]⟩
def mail : Message := ⟨0, 0, [5, 6], 0x77, 2, 1, 0, none⟩
def mailing : State := { part0 small (fun p => { p with handlers := some table0, ctxn := 0x1000000 }) with channel := [mail] }
theorem witness_TreeEvents_message : mailing.channel[0]? = some mail ∧ (mailing.core mail.dst).inbox.length < 64
    ∧ mail.dst < mailing.cores.length := by decide +kernel
/-- The message is the last of the team's SEND, or not; and its core's inbox is full. -/
def mailing2 (n : Nat) : State :=
  { team mailing (fun t => { t with uid := mail.uid, msg := [⟨mail.key, false⟩] }) with channel := List.replicate n mail }
theorem witness_TreeEvents_message_counter : ∀ n ∈ [1, 2], Homed (mailing2 n) ∧ mail.uid = (mailing2 n).cur.uid
    ∧ (mailing2 n).cur.msg = [⟨mail.key, false⟩] ∧ (mailing2 n).channel[0]? = some mail := by decide +kernel
theorem witness_TreeEvents_message_full : 64 ≤ ((mailing.onCore 0 fun k => { k with inbox := List.replicate 64 mail }).core mail.dst).inbox.length
    ∧ (mailing.onCore 0 fun k => { k with inbox := List.replicate 64 mail }).channel[0]? = some mail := by decide +kernel
def spawning : State :=
  let s := mailing.onCore 0 fun k => { k with inbox := [mail] }
  { s with teams := [{ s.cur with uid := 50, bid := 49, handler := true, quad := 0 }] }
theorem witness_TreeEvents_spawn : (spawning.core 0).inbox = [mail] ∧ 0 < spawning.cores.length
    ∧ (spawning.part (spawning.partOfCore 0)).handlers = some table0 ∧ table0.entry? mail.handler = some entry0
    ∧ spawning.areaFree (table0.desc entry0 (spawning.partOfCore 0)) = true ∧ (spawning.part (spawning.partOfCore 0)).st = .active
    ∧ (∀ u ∈ spawning.coreTeams 0, u.handler = true → u.quad ≠ 1)
    ∧ ∀ k, k < 1 → ∃ u ∈ spawning.coreTeams 0, u.handler = true ∧ u.quad = k := by
  refine ⟨by decide +kernel, by decide +kernel, by decide +kernel, by decide +kernel, by decide +kernel, ?_⟩
  decide +kernel

/-! ### Stealing -/

def thieves : State := part0 small fun p => { p with pairs := 0xFF, slices := 0xFF }
/-- What the leaf has after it takes what its link holds, and the victim that its register draws, whatever it draws. -/
def thieves1 : State := thieves.leafTake 0
def victim : Nat := (thieves1.otherPiers 0 0).getD ((Config.stealNext (thieves1.pier 0).shift).toNat % (thieves1.otherPiers 0 0).length) 0
theorem victim_ok : ∀ n, n < 3 → ((thieves1.otherPiers 0 0).getD n 0 < thieves.piers.length)
    ∧ (thieves1.pier ((thieves1.otherPiers 0 0).getD n 0)).asked.length < 2 := by decide +kernel
theorem three_others : (thieves1.otherPiers 0 0).length = 3 := by decide +kernel
theorem witness_StealEvents_victim : victim < thieves.piers.length ∧ (thieves1.pier victim).asked.length < 2 := by
  unfold victim
  rw [three_others]
  exact victim_ok _ (Nat.mod_lt _ (by decide))
theorem witness_StealEvents_request : thieves1.otherPiers 0 0 ≠ [] ∧ 0 < thieves.piers.length
    ∧ (thieves.part 0).piers.contains 0 = true ∧ ((thieves1.pier 0).queue.any fun r => r.part == 0) = false
    ∧ thieves1.hasRoom 0 0 = true ∧ (thieves1.pier 0).stealing.contains 0 = false
    ∧ ((thieves1.pier 0).backoff.any fun b => b.1 == 0) = false ∧ (thieves1.pier 0).leafFrozen = false
    ∧ (thieves.part 0).st ≠ .quarantined := by decide +kernel
def asking (q : List BlockRange) : State := pier0 thieves fun x => { x with asked := [(3, 0)], queue := q }
theorem witness_StealEvents_answer : (((asking []).leafTake 0).pier 0).asked.find? (fun a => decide (a.2 = 0)) = some (3, 0)
    ∧ (3 : Nat) ≠ 0 ∧ 3 < (asking []).piers.length ∧ stolen (((asking []).leafTake 0).pier 0).queue 0 = none
    ∧ stolen (((asking [⟨9, 4, 1, 0, 0, true⟩, ⟨9, 4, 1, 0, 1, false⟩, ⟨9, 8, 7, 0, 1, false⟩]).leafTake 0).pier 0).queue 0
        = some (⟨9, 11, 4, 0, 1, false⟩, [⟨9, 4, 1, 0, 0, true⟩, ⟨9, 4, 1, 0, 1, false⟩, ⟨9, 8, 3, 0, 1, false⟩]) := by decide +kernel
theorem witness_StealEvents_half : (⟨9, 4, 1, 0, 0, false⟩ : BlockRange).noSteal = false ∧ 1 ≤ (⟨9, 4, 1, 0, 0, false⟩ : BlockRange).count
    ∧ 0 < small.piers.length := by decide +kernel

/-! ### Slices, save and restore -/

def sliced (n : Nat) (l : List Launch) : State :=
  { part0 small (fun p => { p with
      tenants := [⟨0, true, 100, 1⟩, ⟨3, true, 100, 0⟩], sliceStart := 1000, energy := [(0, (10 ^ 9, 1))] }) with
    clock := BitVec.ofNat 64 n, launches := l }
def other : Launch := { wide with lid := 10, q := 6, d := { shape with tenant := 3, prio := 1 } }
theorem witness_SliceEvents_slice : 0 < (sliced 126000 [wide]).parts.length ∧ ((sliced 126000 [wide]).part 0).running = true
    ∧ ((sliced 126000 [wide]).part 0).holder = some 0 ∧ ((sliced 126000 [wide]).part 0).tenant? 0 = some ⟨0, true, 100, 1⟩
    ∧ (sliced 126000 [wide]).urgentOther 0 0 = none
    ∧ ((sliced 126000 [wide]).part 0).sliceStart + ((100 * 1250 : Nat) : Int) ≤ ((sliced 126000 [wide]).clock.toNat : Int)
    ∧ (((sliced 126000 [wide]).part 0).round (some 0)).find? ((sliced 126000 [wide]).hasWork 0) = some 0
    ∧ ((sliced 0 [wide]).part 0).spent ⟨0, true, 100, 1⟩ = true
    ∧ (((sliced 0 [wide, other]).part 0).round (some 0)).find? ((sliced 0 [wide, other]).hasWork 0) = some 3 := by decide +kernel
def handover : State := block (sliced 126000 [wide, other]) fun b => { b with live := false }
theorem witness_SliceEvents_next : ((handover.part 0).round (some 0)).find? (handover.hasWork 0) = some 3 ∧ (3 : Nat) ≠ 0
    ∧ (∀ b ∈ handover.allBlocks, b.live = false) ∧ handover.urgentOther 0 0 = none := by decide +kernel
def saving : State := block small fun b => { b with leaving := .save }
theorem witness_SliceEvents_save : saving.block saving.blk.bid = some saving.blk ∧ saving.blk.kill = none ∧ saving.blk.leaving = .save
    ∧ saving.saveReady saving.blk = true ∧ saving.nopreHeld saving.blk = false ∧ saving.blk.ctx = none
    ∧ (block saving fun b => { b with ctx := some (0, 0) }).saveReady { saving.blk with ctx := some (0, 0) } = true ∧ saving.blk.home / 4 < saving.piers.length := by decide +kernel
def restoring : State := { part0 small (fun p => { p with ctxn := 0x1000000 }) with saved := [{ saved1 with restorePier := some 0 }] }
def restorePlace : Placing := ⟨1, false, ⟨[(0, 0)], 1, [⟨[0], 1, 2048⟩, ⟨[], 0, 0⟩, ⟨[], 0, 0⟩, ⟨[], 0, 0⟩]⟩, none⟩
theorem witness_SliceEvents_restore : (restoring.part 0).running = true ∧ (restoring.pier 0).leafFrozen = false
    ∧ restoring.saved = [{ saved1 with restorePier := some 0 }] ∧ saved1.blk.d.part = 0
    ∧ (restoring.part 0).holder = some saved1.blk.d.tenant ∧ saved1.blk.d.dmode = false ∧ saved1.blk.live = true
    ∧ restoring.block saved1.blk.bid = none
    ∧ (∀ u ∈ saved1.teams, u.stores = [] ∧ u.held = [] ∧ ∀ w ∈ restoring.allTeams, w.uid ≠ u.uid)
    ∧ State.findPlace { restoring.leafTake 0 with saved := [] } 0 saved1.blk.d = some restorePlace := by decide +kernel
theorem witness_SliceEvents_restore_first : (restoring.pier 0).walkerFrozen = false ∧ ((restoring.leafTake 0).pier 0).queue = []
    ∧ (restoring.leafTake 0).givesWay 0 saved1.blk.d.prio = false := by decide +kernel
/-- A saved block of class 3 that has waited, of home pier `n / 4`, where the pool has room or not. -/
def old (n ctxn : Nat) : State :=
  { part0 small (fun p => { p with ctxn := ctxn }) with
    clock := 0x800000, saved := [{ saved1 with blk := { saved1.blk with home := n, d := { small.blk.d with prio := 3 } } }] }
theorem witness_SliceEvents_lowest : ∀ n ∈ [0, 4], ((old n 0).lowest 0).map (fun x => (x.saved, x.blk.bid)) = some (true, 7)
    ∧ ((old n 0).part 0).st = .active ∧ ((old n 0).part 0).piers = [0]
    ∧ (old n 0).saved.length = 1 ∧ (((old n 0x1000000).saved.map fun b => ((old n 0x1000000).findPlace 0 b.blk.d).isSome)) = [true] := by
  decide +kernel
theorem witness_SliceEvents_lowest_room : ∃ b ∈ saving.allBlocks, b.live = true ∧ b.handler = false ∧ b.home / 4 = 0 ∧ b.kill = none
    ∧ b.leaving = .save := by decide +kernel
def preempted : State := block (part0 small fun p => { p with holder := some 3 }) fun b => { b with issued := true }
theorem witness_SliceEvents_preempt : (preempted.pier 0).cmdPermits ≠ 0 ∧ (preempted.part (preempted.partOfCore 0)).running = true
    ∧ ownsCore (preempted.part (preempted.partOfCore 0)) 0 = true ∧ preempted.blocks = [] ∧ preempted.blk.onCore 0 = true
    ∧ preempted.blk.handler = false ∧ preempted.blk.leaving = .no ∧ preempted.blk.kill = none ∧ preempted.blk.issued = true
    ∧ preempted.blk.d.dmode = false ∧ (preempted.part (preempted.partOfCore 0)).holder ≠ some preempted.blk.d.tenant
    ∧ preempted.nopreHeld preempted.blk = false := by decide +kernel
/-- A block that has done 1,000 cycles at mark 1 of `last`, with IDEM or not, and with a budget of one µs. -/
def deciding (idem : Bool) (last : Nat) : State :=
  let d := { small.blk.d with idem := idem, setout := 0x100 }
  part0 { block (team preempted fun t => { t with mark := 1 }) (fun b => { b with d := d, cycles := 1250 }) with
    launches := [{ launch0 with table := [{ zeroing with due := last }] }] } fun p => { p with drain := 1 }
theorem witness_SliceEvents_decide : ∀ x ∈ [(false, 2), (true, 3), (true, 2), (false, 3)], ((deciding x.1 x.2).pier 0).cmdPermits ≠ 0
    ∧ ((deciding x.1 x.2).part ((deciding x.1 x.2).partOfCore 0)).running = true
    ∧ ownsCore ((deciding x.1 x.2).part ((deciding x.1 x.2).partOfCore 0)) 0 = true ∧ (deciding x.1 x.2).blocks = []
    ∧ (deciding x.1 x.2).blk.onCore 0 = true ∧ (deciding x.1 x.2).blk.issued = true ∧ (deciding x.1 x.2).blk.leaving = .no
    ∧ (deciding x.1 x.2).nopreHeld (deciding x.1 x.2).blk = false ∧ (deciding x.1 x.2).blk.d.setout ≠ 0
    ∧ (deciding x.1 x.2).blockMark (deciding x.1 x.2).blk.bid = some 1
    ∧ ((deciding x.1 x.2).launch (deciding x.1 x.2).blk.lid).map (fun l => l.table.map (·.due)) = some [x.2]
    ∧ (deciding x.1 x.2).blk.d.idem = x.1 ∧ (deciding x.1 x.2).blk.cycles = 1250
    ∧ ((deciding x.1 x.2).part ((deciding x.1 x.2).partOfCore 0)).drain = 1
    ∧ ((deciding x.1 x.2).part ((deciding x.1 x.2).partOfCore 0)).holder ≠ some (deciding x.1 x.2).blk.d.tenant := by decide +kernel
/-- One mark left of two is 1,250 cycles more, one of three leaves more than is done. -/
theorem witness_SliceEvents_decide_rows : (1250 : Rat) * ((2 : Rat) - 1) / 1 ≤ 1250 * 1 ∧ ¬ (1250 : Rat) * ((3 : Rat) - 1) / 1 ≤ 1250 * 1
    ∧ 2 * 1 < 3 := by decide +kernel
def stale : State := part0 (block small fun b => { b with cycles := 1250001 }) fun p => { p with blklim := 1 }
theorem witness_SliceEvents_watchdog : stale.block stale.blk.bid = some stale.blk ∧ stale.blk.kill = none
    ∧ stale.overlong stale.blk = true := by decide +kernel

/-! ### Issue and balance -/

def quad0 (s : State) (f : Quad → Quad) : State := s.onQuad 0 0 f
def twin (s : State) (f : Team → Team) : State := { s with teams := [f { s.cur with uid := 5, age := 1 }] }
theorem witness_IssueAndBalanceEvents_goOn : (quad0 small fun q => { q with current := 2 }).quadFree 0 0 = true
    ∧ (quad0 small fun q => { q with current := 2 }).giveWay 0 0 = false
    ∧ (∃ u ∈ (quad0 small fun q => { q with current := 2 }).readyOn 0 0, u.uid = 2) := by
  refine ⟨by decide +kernel, by decide +kernel, ?_⟩
  decide +kernel
def twins : State := twin (quad0 small fun q => { q with current := 9 }) id
theorem witness_IssueAndBalanceEvents_oldest : twins.quadFree 0 0 = true ∧ (∀ u ∈ twins.readyOn 0 0, u.uid ≠ 9)
    ∧ (∀ u ∈ twins.readyOn 0 0, u.starve < 65536) ∧ twins.readyOn 0 0 ≠ [] := by decide +kernel
def greedy : State := twin (quad0 small fun q => { q with current := 2, greedy := 4096 }) fun t => { t with starve := 65536 }
theorem witness_IssueAndBalanceEvents_greedy : greedy.quadFree 0 0 = true
    ∧ 4096 ≤ ((greedy.core 0).quads.getD 0 .reset).greedy ∧ (∃ u ∈ greedy.readyOn 0 0, u.uid ≠ 2) ∧ greedy.giveWay 0 0 = true
    ∧ (∃ u ∈ greedy.readyOn 0 0, u.uid ≠ 2 ∧ 65536 ≤ u.starve) := by
  refine ⟨by decide +kernel, by decide +kernel, ?_, by decide +kernel, ?_⟩ <;> decide +kernel
def closing (m : Nat) : State :=
  ({ small with clock := 1250, wins := 0 } : State).onCore 3 fun k => { k with sum := m }
def mismatch : Joint := ⟨0, 0, 0, 0, 0, 0, 0, false, false⟩
theorem witness_IssueAndBalanceEvents_window : (closing 1).wins < (closing 1).clock.toNat / 1250
    ∧ (closing 1).cores[3]? = some ((closing 1).core 3) ∧ ((closing 1).pier 0).joints[2]? = some mismatch := by decide +kernel
theorem witness_IssueAndBalanceEvents_joint : 47 < small.piers.length ∧ (small.pier 47).joints[2]? = some mismatch
    ∧ (small.pier 47).clampTo ≤ small.clock.toNat := by decide +kernel
def boosted : State := { small with piers := small.piers.set 47 { small.pier 47 with joints := [⟨5, 1, 0, 0, 3, 4, 6, true, false⟩] } }
theorem witness_IssueAndBalanceEvents_boost : (boosted.pier 47).joints[0]? = some ⟨5, 1, 0, 0, 3, 4, 6, true, false⟩
    ∧ (2750 : Int).natAbs ≤ 2750 ∧ 2750 < (-2751 : Int).natAbs := by decide +kernel
/-- The fourth window in a row beyond T2 of the cores 2 and 3. -/
def fourth : State :=
  { closing 4000000 with piers := small.piers.set 0 { small.pier 0 with joints := [mismatch, mismatch, { mismatch with t2count := 3 }] }
                         cur := { small.cur with core := 2 } }
theorem witness_IssueAndBalanceEvents_trap : fourth.wins < fourth.clock.toNat / 1250
    ∧ (fourth.pier 0).joints[2]? = some { mismatch with t2count := 3 }
    ∧ (min (fourth.coreT2 2) (fourth.coreT2 3) * 125 + 0) * 250 < (((fourth.core 3).sum : Int) - ((fourth.core 2).sum : Int)).natAbs
    ∧ (min (fourth.coreT1 2) (fourth.coreT1 3) * 125 + 0) * 250 < (((fourth.core 3).sum : Int) - ((fourth.core 2).sum : Int)).natAbs
    ∧ fourth.ordinary 3 = [] ∧ (fourth.ordinary 2).length = 1 := by decide +kernel
theorem witness_IssueAndBalanceEvents_trap_one : Trapped fourth 2 3 :=
  ⟨by decide +kernel, .inl (by decide +kernel)⟩
/-- Both cores of the joint have ordinary teams: the one with the estimate is further from its nominal current. -/
def fourthBoth : State := { fourth with teams := [{ fourth.cur with uid := 5, core := 3 }] }
theorem witness_IssueAndBalanceEvents_trap_both : Trapped fourthBoth 3 2 ∧ fourthBoth.ordinary 2 ≠ [] ∧ 3 = 4 * 0 + 2 + 1 ∧ 2 = 4 * 0 + 2 :=
  ⟨⟨by decide +kernel, .inr (.inl (by decide +kernel))⟩, by decide +kernel, rfl, rfl⟩
theorem witness_IssueAndBalanceEvents_starving : (∃ u ∈ greedy.readyOn 0 0, u.uid ≠ ((greedy.core 0).quads.getD 0 .reset).current ∧ 65536 ≤ u.starve)
    ∧ greedy.quadFree 0 0 = true ∧ (∃ u ∈ greedy.readyOn 0 0, u.uid = ((greedy.core 0).quads.getD 0 .reset).current) := by
  refine ⟨?_, by decide +kernel, ?_⟩ <;> decide +kernel
def burning : State := team small fun t => { t with burn := (7, 0), burnFrom := 3 }
theorem witness_IssueAndBalanceEvents_burn : Homed burning ∧ burning.cur.burn.2 = 0 := by decide +kernel

/-! ### Partitions and registers -/

/-- Partition 1 with a pair, a slice, a region, a context pool and a tenant table of one entry at 0xC00001000. -/
def part1 (s : State) (f : Partition → Partition) : State := { s with parts := s.parts.set 1 (f (s.part 1)) }
def tenantBytes : List Byte := bytesOf 2 3 ++ bytesOf 2 1 ++ bytesOf 4 50 ++ bytesOf 8 0
def enable1 : State :=
  part1 { small with mem := memWriteN [] 0xC00001000 tenantBytes } fun p => { p with
    pairs := 2 ^ 95, slices := 2 ^ 47, regions := ⟨true, 1, 2⟩ :: List.replicate 3 ⟨false, 0, 0⟩, ports := 1
    asidCount := 1023, asidBase := 1, ctx := 0xC00002000, ctxn := 0x1000, pten := 0xC00001000, ptenn := 1 }
theorem witness_PartitionEvents_enable : 1 < enable1.parts.length ∧ enable1.checkpointing 1 = false ∧ (enable1.part 1).st = .unused
    ∧ enable1.enablePerr 1 = 0 ∧ enable1.readTenants (enable1.part 1) = some [⟨3, true, 50, 0⟩]
    ∧ enable1.readHandlers (enable1.part 1) = some none := by decide +kernel
def enableBad : State := part1 enable1 fun p => { p with ctx := 0xC00002001 }
theorem witness_PartitionEvents_refused : (enableBad.part 1).st = .unused ∧ enableBad.enablePerr 1 = 3 := by decide +kernel
def inState (st : PState) : State :=
  part1 { enable1 with mem := memWriteN enable1.mem (0x8000000000000 + 47 * 0x800000 + 0x7FFFFE) [1, 2, 3] } fun p => { p with st := st }
theorem witness_PartitionEvents_drain : (inState .active).checkpointing 1 = false ∧ ((inState .active).part 1).st = .active
    ∧ ((inState .draining).part 1).st ≠ .active ∧ ((inState .draining).part 1).st = .draining ∧ (inState .draining).drained 1 = true
    ∧ ((inState .drained).part 1).st = .drained ∧ ((inState .drained).part 1).st ≠ .unused
    ∧ ((inState .drained).part 1).slices.testBit 47 = true ∧ (inState .drained).ckrun = none := by decide +kernel
theorem witness_PartitionEvents_lost : 64 < small.funcs.length := by decide +kernel
def checkpointed : State := { inState .drained with ckrun := some (1, false, 0x100000) }
theorem witness_PartitionEvents_done : checkpointed.ckrun = some (1, false, 0x100000) := rfl
theorem witness_HostAccessEvents_doorbell : (64 : Nat) < 65 ∧ (63 : Nat) < 64 ∧ (0xFFFFFFFF : Nat) < 2 ^ 32
    ∧ small.fw.recovery = false ∧ 0 ≤ small.numvf := by decide +kernel
theorem witness_HostAccessEvents_devno : (∀ p ∈ State.reset.parts, p.st = .unused) ∧ ∃ p ∈ small.parts, p.st ≠ .unused := by
  refine ⟨by decide +kernel, ?_⟩
  decide +kernel
theorem witness_HostAccessEvents_aperture : small.Canonical ∧ small.fw.recovery = false ∧ 1 ≤ (8 : Nat)
    ∧ 0x17FFFFF8 + 8 ≤ (0x18000000 : Nat) ∧ small.numvf < 64 := by decide +kernel
/-- Windows of function 0, its registers at 4 GiB and its memory at 2 TiB. -/
def barred : State := small.onFunc 0 fun x => { x with bars := [0x100000000, 0x200000000, 0x20000000000] }
theorem witness_HostAccessEvents_bars : 0 ≤ barred.numvf ∧ barred.fw.recovery = false ∧ (barred.func 0).bars[0]? = some 0x100000000
    ∧ (0x100000000 : DWord).toNat % 0x10000 = 0 ∧ (barred.func 0).bars[2]? = some 0x20000000000
    ∧ (0x20000000000 : DWord).toNat % 2 ^ 40 = 0 ∧ barred.regWindow 0 0x20000000010 = none := by decide +kernel
theorem test_host_bus : barred.hostReach 0 (.bus 0x100000010) = some 0xF000000000010
    ∧ barred.hostReach 0 (.bus 0x200000004) = some 0xF000001000004
    ∧ barred.hostReach 0 (.bus 0x20000000000) = barred.hostReach 0 (.aperture 0) ∧ barred.hostReach 0 (.bus 0x40000000000) = none := by
  decide +kernel
theorem witness_HostAccessEvents_census : small.gen ≤ ({ small with clock := 1250000 } : State).clock.toNat / 1250000 := by
  decide +kernel

/-! ### Links, trusted interfaces, firmware, rows -/

def ash (f : Port → Port) : State :=
  { small with aports := small.aports.set 15 (f ⟨true, false, 0, 4, 15, 20, 7⟩)
               parts := small.parts.set 0 { small.part 0 with routes := (small.part 0).routes.set 9 (true, 0xFFFF), ports := 0x8000 } }
def ashTraining : State := { ash (fun p => { p with up := false, training := true, since := 100 }) with clock := 12500100 }
theorem witness_LinkEvents_replay : (ash id).port true 15 = some ⟨true, false, 0, 4, 15, 20, 7⟩ ∧ 16 ≤ 15 + 1
    ∧ (ash fun p => { p with failed := 16 }).port true 15 = some ⟨true, false, 0, 4, 16, 20, 7⟩
    ∧ ashTraining.port true 15 = some ⟨false, true, 100, 4, 15, 20, 7⟩ ∧ 100 + 12500000 ≤ ashTraining.clock.toNat
    ∧ ashTraining.owedLink = none := by decide +kernel
def tdi (st : TdiSt) : State := { small with funcs := small.funcs.set 64 { small.func 64 with tdi := st, fpart := 15 } }
/-- The other Quickset port is down. -/
def alone : State :=
  { small with qports := [⟨false, true, 100, 4, 0, 0, 0⟩, ⟨false, false, 0, 0, 0, 0, 0⟩], clock := 12500100 }
theorem witness_LinkEvents_down : alone.port false 0 = some ⟨false, true, 100, 4, 0, 0, 0⟩ ∧ 100 + 12500000 ≤ alone.clock.toNat
    ∧ alone.parts.length ≤ 16 ∧ alone.qports[1]? = some ⟨false, false, 0, 0, 0, 0, 0⟩ ∧ alone.qports.length = 2 := by decide +kernel
theorem witness_LinkEvents_trusted : 64 < (tdi .run).funcs.length ∧ ((tdi .run).func 64).trusted = true
    ∧ ((tdi .locked).func 64).trusted = true := by decide +kernel
def arrival (dst : Nat) : AshReq := ⟨9, 2, dst, 0x8000000000010, 8, .write 0x1122334455667788⟩
def atomicArrival : AshReq := ⟨9, 2, 0, 0x8000000000010, 4, .atom .add 5⟩
theorem witness_LinkEvents_arrival : (ash id).Canonical ∧ (arrival 0).dstPart < (ash id).parts.length
    ∧ 0x8000000000000 ≤ (arrival 0).pa ∧ (arrival 0).pa + (arrival 0).bytes ≤ 0x8000000000000 + 0x18000000
    ∧ 1 ≤ (arrival 0).bytes ∧ ((ash id).part 0).ports.testBit 15 = true ∧ (((ash id).part 0).routes.getD 9 (false, 0)).1 = true
    ∧ (((ash id).part 0).routes.getD 9 (false, 0)).2 &&& ((ash id).part 0).ports ≠ 0
    ∧ ((ash id).part 0).slices.testBit (((arrival 0).pa - 0x8000000000000) / 0x800000) = true
    ∧ ((ash id).part 0).ports.testBit 14 = false ∧ ((ash id).part 0).st = .active := by decide +kernel
theorem witness_LinkEvents_atomic : atomicArrival.op = .atom .add 5 ∧ atomicArrival.bytes = 4 := ⟨rfl, rfl⟩
def locking : State := tdi .unlocked
theorem witness_ManagementEvents_lock : 64 < locking.funcs.length ∧ (locking.func 64).fpart < 16 ∧ (locking.func 64).tdi = .unlocked
    ∧ (∀ q ∈ (locking.func 64).queues, q.st = .idle ∨ q.st = .reset) ∧ (locking.part 15).st ≠ .quarantined
    ∧ ((tdi .locked).func 64).tdi = .locked ∧ ((tdi .locked).func 64).fpart < 16 ∧ ((tdi .run).func 64).trusted = true ∧ ((tdi .error).func 64).tdi = .error := by
  decide +kernel
theorem witness_ManagementEvents_firmware : (∀ p ∈ State.reset.parts, p.st = .unused) ∧ State.reset.fw.fused ≤ 3
    ∧ (⟨3, true, false⟩ : FwImage).lmsOk = false := by decide +kernel
def hammered : State := { small with rows := [⟨255, 3, 77, 4096⟩, ⟨255, 3, 78, 2⟩], raathr := 4096, bankHolds := [(255, 3, 0)] }
theorem witness_ManagementEvents_rows : (⟨255, 3, 77, 4096⟩ : RowCount) ∈ hammered.rows ∧ hammered.raathr ≤ 4096
    ∧ hammered.channels[255]? = some ⟨0, 0, false, []⟩ := by decide +kernel
theorem witness_ManagementEvents_scrub : small.slices[47]? = some SliceHealth.reset := by decide +kernel
end Sys2Proof.Tests
end

section
/-! PROOFS. Bytes written to memory are read back (R4). -/

namespace Sys2Proof.Machine

/-- Each byte written is read back: the bytes written after it lie above it. -/
theorem memReadN_writeN_same {m : Mem} (a : Nat) (bs : List Byte) (h : Mem.wf m = true) :
    memReadN (memWriteN m a bs) a bs.length = bs := by
  induction bs generalizing m a with
  | nil => rfl
  | cons b bs ih =>
    have hb : memRead (memWriteN (memWrite m a b) (a + 1) bs) a = b := by
      rw [memRead_writeN_other _ _ _ (.inl (Nat.lt_succ_self a)), memRead_write_same b h]
    simp only [memWriteN, List.length_cons, memReadN]
    rw [hb, ih (a + 1) (memWrite_wf a b h)]

/-- Settles O41: what is written is read back byte by byte, and a write leaves every address outside its range alone. -/
theorem readAfterWrite : Obligations.ReadAfterWrite := by
  unfold Obligations.ReadAfterWrite
  intro m a bs h
  exact ⟨memReadN_writeN_same a bs h, fun _ hx => memRead_writeN_other m a bs hx⟩

end Sys2Proof.Machine
end

section
/-! PROOFS. Memory (R4, R233) stays in canonical form: what the shared operations of the machine do to it. Most operations leave
the memory as it is: their lemma is an equation `…_mem`. An operation that may write keeps the form: its lemma is `…_canonical`. -/

namespace Sys2Proof.Machine

/-! ### What every operation is held to -/

/-- An outcome whose next state, if there is one, has canonical memory. -/
def CanonicalOutcome : Host.Outcome State Fault Refusal → Prop
  | .next t => t.Canonical
  | .fault _ | .refused _ => True

@[simp] theorem canonicalOutcome_next (t : State) : CanonicalOutcome (.next t) ↔ t.Canonical := Iff.rfl
@[simp] theorem canonicalOutcome_fault (f : Fault) : CanonicalOutcome (.fault f) := trivial
@[simp] theorem canonicalOutcome_refused (r : Refusal) : CanonicalOutcome (.refused r) := trivial

theorem canonical_of_mem {s t : State} (hm : t.mem = s.mem) (h : s.Canonical) : t.Canonical := by
  rw [State.Canonical, hm]
  exact h

/-- What runs over a list one item after another, each item keeping the memory. -/
@[simp] theorem foldl_mem {α : Type} (f : State → α → State) (hf : ∀ s a, (f s a).mem = s.mem) (l : List α) (s : State) :
    (l.foldl f s).mem = s.mem :=
  List.foldlRecOn (motive := fun t => t.mem = s.mem) l f rfl fun t ht a _ => (hf t a).trans ht

/-- The same where each item carries something beside the machine. -/
theorem foldl_fst_mem {α β : Type} (f : State × β → α → State × β) (hf : ∀ x a, (f x a).1.mem = x.1.mem) (l : List α)
    (x : State × β) : (l.foldl f x).1.mem = x.1.mem :=
  List.foldlRecOn (motive := fun y => y.1.mem = x.1.mem) l f rfl fun y hy a _ => (hf y a).trans hy

/-- What runs over a list one item after another, each item keeping the form. -/
theorem foldl_canonical {α : Type} {f : State → α → State} (hf : ∀ s a, s.Canonical → (f s a).Canonical) (l : List α) {s : State}
    (h : s.Canonical) : (l.foldl f s).Canonical :=
  List.foldlRecOn (motive := State.Canonical) l f h fun t ht a _ => hf t a ht

/-- The same where each item carries something beside the machine. -/
theorem foldl_fst_canonical {α β : Type} {f : State × β → α → State × β} (hf : ∀ x a, x.1.Canonical → (f x a).1.Canonical)
    (l : List α) {x : State × β} (h : x.1.Canonical) : (l.foldl f x).1.Canonical :=
  List.foldlRecOn (motive := fun y => y.1.Canonical) l f h fun y hy a _ => hf y a hy

theorem ite_mem {c : Prop} [Decidable c] {s t : State} {m : Mem} (hs : s.mem = m) (ht : t.mem = m) :
    (if c then s else t).mem = m := by
  split
  · exact hs
  · exact ht

theorem ite_canonical {c : Prop} [Decidable c] {s t : State} (hs : c → s.Canonical) (ht : ¬ c → t.Canonical) :
    (if c then s else t).Canonical := by
  split
  · exact hs ‹_›
  · exact ht ‹_›

/-! ### Teams, blocks, traps and kills -/

section
variable (s : State) (i : Instr)

@[simp] theorem State.onBlockTeams_mem (bid : Nat) (f : Team → Team) : (s.onBlockTeams bid f).mem = s.mem := rfl
@[simp] theorem State.onTeam_mem (uid : Nat) (f : Team → Team) : (s.onTeam uid f).mem = s.mem := rfl
@[simp] theorem State.onQuad_mem (c q : Nat) (f : Quad → Quad) : (s.onQuad c q f).mem = s.mem := rfl
@[simp] theorem State.onQueue_mem (n q : Nat) (f : Queue → Queue) : (s.onQueue n q f).mem = s.mem := rfl

@[simp] theorem State.focusBlock_mem (bid : Nat) : (s.focusBlock bid).mem = s.mem := by
  unfold State.focusBlock
  split
  · rfl
  · split <;> rfl

@[simp] theorem State.focus_mem (uid : Nat) : (s.focus uid).mem = s.mem := by
  unfold State.focus
  split
  · simp
  · split <;> simp

@[simp] theorem State.chargePasses_mem (n m w x : Nat) : (s.chargePasses n m w x).mem = s.mem := rfl

@[simp] theorem State.begin_mem (n : Nat) : (s.begin i n).mem = s.mem := by
  unfold State.begin
  split <;> rfl

@[simp] theorem State.killWith_mem (bid : Nat) (k : KillInfo) : (s.killWith bid k).mem = s.mem := by
  unfold State.killWith
  split
  · rfl
  · split <;> rfl

@[simp] theorem State.killTrap_mem (cause : Nat) (pc : DWord) (datum : Word) : (s.killTrap cause pc datum).mem = s.mem := by
  by_cases hd : s.cur.d.dmode = true <;> simp [State.killTrap, hd]

@[simp] theorem State.killHandler_mem : (s.killHandler i).mem = s.mem := State.killTrap_mem ..
@[simp] theorem State.killWord_mem : s.killWord.mem = s.mem := State.killWith_mem ..

@[simp] theorem State.takeTrap_mem : s.takeTrap.mem = s.mem := by
  unfold State.takeTrap
  split
  · rfl
  · split <;> simp

@[simp] theorem State.shadowed_mem (w : Window) (n : Nat) (lost : LaneMask) : (s.shadowed w i n lost).mem = s.mem := rfl
@[simp] theorem State.shadowTrap_mem (w : Window) (cause : Nat) (datum : Word) (len : Nat) :
    (s.shadowTrap w cause datum len).mem = s.mem := rfl
@[simp] theorem State.closeWindow_mem (w : Window) : (s.closeWindow w).mem = s.mem := rfl

/-- Traps of some lanes change nothing in memory beside what the others do. -/
@[simp] theorem State.withHits_mem (hs : List Hit) (act : State → State) (hact : (act s).mem = s.mem) :
    (s.withHits i hs act).mem = s.mem := by
  unfold State.withHits
  split
  · exact hact
  · split
    · simp
    · split
      · simp
      · dsimp only
        split <;> simp [hact]

theorem State.withHits_canonical {s : State} {i : Instr} {hs : List Hit} {act : State → State} (hact : (act s).Canonical)
    (h : s.Canonical) : (s.withHits i hs act).Canonical := by
  unfold State.withHits
  split
  · exact hact
  · split
    · exact canonical_of_mem (State.killTrap_mem ..) h
    · split
      · exact canonical_of_mem (State.takeTrap_mem s) h
      · dsimp only
        split
        · exact canonical_of_mem (State.takeTrap_mem _) hact
        · exact hact

@[simp] theorem State.trapAll_mem (cause : Nat) (datum : Word) : (s.trapAll i cause datum).mem = s.mem := by
  unfold State.trapAll
  split <;> simp

@[simp] theorem State.reportCopy_mem (keep : Nat → Bool) : (s.reportCopy i keep).mem = s.mem := by
  simp [State.reportCopy]

@[simp] theorem State.reportRetired_mem : (s.reportRetired i).mem = s.mem := State.reportCopy_mem ..

/-! ### Barriers, REORDER, and the ends of paths and teams -/

@[simp] theorem State.checkBarriers_mem (bid : Nat) : (s.checkBarriers bid).mem = s.mem := rfl
@[simp] theorem State.startCopies_mem (bid : Nat) : (s.startCopies bid).mem = s.mem := rfl
@[simp] theorem State.pushStarts_mem (bid : Nat) : (s.pushStarts bid).mem = s.mem := rfl

@[simp] theorem State.tryReorder_mem (bid core : Nat) : (s.tryReorder bid core).mem = s.mem := by
  unfold State.tryReorder
  split
  · rfl
  · dsimp only
    split
    · rfl
    · split <;> rfl

@[simp] theorem State.endTeam_mem : s.endTeam.mem = s.mem := by
  unfold State.endTeam
  split
  · rfl
  · dsimp only
    split <;> simp

@[simp] theorem State.endOfPath_mem : s.endOfPath.mem = s.mem := by
  unfold State.endOfPath
  split
  · simp
  · split <;> simp

@[simp] theorem State.endLanes_mem (m : LaneMask) : (s.endLanes m).mem = s.mem := by
  unfold State.endLanes
  dsimp only
  split <;> simp

/-! ### The checks of an issue and the runners -/

/-- The checks of an issue write nothing: an instruction changes in memory what its own work changes. -/
theorem State.issueIf_cases (g : Guard) (bad : State → Bool) (act : State → State) :
    (s.issueIf i g bad act).mem = s.mem ∨ s.issueIf i g bad act = act s.settle := by
  unfold State.issueIf
  dsimp only
  repeat' split
  all_goals simp

@[simp] theorem State.issueIf_mem (g : Guard) (bad : State → Bool) (act : State → State) (hact : ∀ t, (act t).mem = t.mem) :
    (s.issueIf i g bad act).mem = s.mem := by
  rcases State.issueIf_cases s i g bad act with hm | he
  · exact hm
  · rw [he, hact, State.settle_mem]

@[simp] theorem State.issue_mem (g : Guard) (act : State → State) (hact : ∀ t, (act t).mem = t.mem) :
    (s.issue i g act).mem = s.mem := State.issueIf_mem s i g _ act hact

@[simp] theorem State.deliver_mem (lat : Nat) (counts : Bool) (rs : List (Nat × List (Nat × LaneRes))) :
    (s.deliver i lat counts rs).mem = s.mem := by
  unfold State.deliver
  split
  · rfl
  · exact State.withHits_mem s i _ _ rfl

@[simp] theorem State.lanewise_mem (g : Guard) (lat : Nat) (f : Team → Nat → LaneRes) : (s.lanewise i g lat f).mem = s.mem :=
  State.issue_mem s i g _ fun t => State.deliver_mem t ..

@[simp] theorem State.uniform_mem (lat : Nat) (f : Team → List RegWrite) : (s.uniform i lat f).mem = s.mem :=
  State.issue_mem s i .pt _ fun _ => rfl

@[simp] theorem State.taggedRun_mem (g : Guard) (f : Team → Nat → LaneRes) : (s.taggedRun i g f).mem = s.mem :=
  State.issue_mem s i g _ fun t => State.deliver_mem t ..
end

theorem State.issueIf_canonical {s : State} {i : Instr} {g : Guard} {bad : State → Bool} {act : State → State}
    (hact : ∀ t, t.Canonical → (act t).Canonical) (h : s.Canonical) : (s.issueIf i g bad act).Canonical := by
  rcases State.issueIf_cases s i g bad act with hm | he
  · exact canonical_of_mem hm h
  · rw [he]
    exact hact _ (canonical_of_mem (State.settle_mem s) h)

theorem State.issue_canonical {s : State} {i : Instr} {g : Guard} {act : State → State}
    (hact : ∀ t, t.Canonical → (act t).Canonical) (h : s.Canonical) : (s.issue i g act).Canonical :=
  State.issueIf_canonical hact h

/-! ### Reports: rows, interrupts, records of faults -/

section
variable (s : State)

@[simp] theorem State.activate_mem (pa : Nat) : (s.activate pa).mem = s.mem := by
  unfold State.activate
  split
  · split <;> rfl
  · rfl

@[simp] theorem State.touch_mem (pa n : Nat) : (s.touch pa n).mem = s.mem := by simp [State.touch]
@[simp] theorem State.countRows_mem (p : Partition) : (s.countRows p).mem = s.mem := rfl
@[simp] theorem State.raiseIrq_mem (f vec : Nat) : (s.raiseIrq f vec).mem = s.mem := rfl
@[simp] theorem State.launchFault_mem (lid code : Nat) : (s.launchFault lid code).mem = s.mem := rfl
@[simp] theorem State.quarantine_mem (p : Nat) : (s.quarantine p).mem = s.mem := by simp [State.quarantine]
end

section
variable {s : State} (h : s.Canonical)
include h

theorem State.store_canonical (pa : Nat) (bs : List Byte) : (s.store pa bs).Canonical := memWriteN_wf _ bs h

/-- A record goes into a ring of host memory, or is counted as lost (R218, R249). -/
theorem State.ringPut_canonical (f : Nat) (get : Func → Ring) (set : Func → Ring → Func) (bs : List Byte) :
    (s.ringPut f get set bs).Canonical := by
  unfold State.ringPut
  dsimp only
  split
  · exact h
  · split
    · exact memWriteN_wf _ bs h
    · exact h

theorem State.faultPut_canonical (f : Nat) (bs : List Byte) : (s.faultPut f bs).Canonical := State.ringPut_canonical h ..
theorem State.requestPut_canonical (f : Nat) (bs : List Byte) : (s.requestPut f bs).Canonical := State.ringPut_canonical h ..

theorem State.postFaultAt_canonical (clock : DWord) (fs : List Nat) (r : FaultRec) : (s.postFaultAt clock fs r).Canonical :=
  foldl_canonical (fun _ f hs => State.faultPut_canonical hs f _) (distinct fs) h

theorem State.postFault_canonical (fs : List Nat) (r : FaultRec) : (s.postFault fs r).Canonical :=
  State.postFaultAt_canonical h _ fs r

theorem State.postBlockFault_canonical (b : Block) (k : KillInfo) : (s.postBlockFault b k).Canonical := by
  unfold State.postBlockFault
  dsimp only
  split <;> exact State.postFaultAt_canonical h ..

theorem State.isolate_canonical (p unitc : Nat) (srcid : Word) (lid : Option Nat) (wher : DWord) (data : Word) :
    (s.isolate p unitc srcid lid wher data).Canonical := by
  have hq : (s.quarantine p).Canonical := canonical_of_mem (State.quarantine_mem s p) h
  cases lid <;> exact State.postFault_canonical hq ..

theorem State.isolateTeam_canonical : s.isolateTeam.Canonical :=
  State.isolate_canonical h s.cur.d.part 0x00 (s.srcid s.cur) (some s.cur.lid) s.cur.at_.pc 0

theorem State.isolateWalker_canonical (part pier pa : Nat) : (s.isolateWalker part pier pa).Canonical :=
  State.isolate_canonical h part 0x0C (s.engineId (4 * pier) 2) none (BitVec.ofNat 64 pa) 0
end

end Sys2Proof.Machine
end

section
/-! PROOFS. Instructions that write registers only, control flow, barriers and the balance of current leave memory as it is. -/

namespace Sys2Proof.Machine

section
variable (s : State) (i : Instr) (g : Guard)

/-! ### The runners of the families -/

@[simp] theorem State.alu2_mem (o : Ops) (u : Bool) (f : Word → Word → Word) : (s.alu2 i g o u f).mem = s.mem := by
  cases u <;> simp [State.alu2]

@[simp] theorem State.alu3_mem (o : Ops) (c : Reg) (u : Bool) (f : Word → Word → Word → Word) :
    (s.alu3 i g o c u f).mem = s.mem := by
  cases u <;> simp [State.alu3]

@[simp] theorem State.alu1_mem (o : OpsDA) (u : Bool) (f : Word → Word) : (s.alu1 i g o u f).mem = s.mem := by
  cases u <;> simp [State.alu1]

@[simp] theorem State.wide1_mem (o : Ops) (u : Bool) (f : DWord → Word → DWord) : (s.wide1 i g o u f).mem = s.mem := by
  cases u <;> simp [State.wide1]

@[simp] theorem State.wide2_mem (o : Ops) (u : Bool) (f : DWord → DWord → DWord) : (s.wide2 i g o u f).mem = s.mem := by
  cases u <;> simp [State.wide2]

@[simp] theorem State.wideMul_mem (o : Ops) (u : Bool) (f : Word → Word → DWord) : (s.wideMul i g o u f).mem = s.mem := by
  cases u <;> simp [State.wideMul]

@[simp] theorem State.pred2_mem (d a b : Reg) (na nb : Bool) (f : Bool → Bool → Bool) :
    (s.pred2 i g d a b na nb f).mem = s.mem := State.lanewise_mem ..

@[simp] theorem State.fp32_mem (ftz : Bool) (o : Ops) (f : CTerm → CTerm → Res) : (s.fp32 i g ftz o f).mem = s.mem :=
  State.lanewise_mem ..

@[simp] theorem State.fp64_mem (ftz : Bool) (o : Ops) (f : CTerm → CTerm → Res) : (s.fp64 i g ftz o f).mem = s.mem :=
  State.lanewise_mem ..

@[simp] theorem State.packed_mem (o : Ops) (f : Team → Nat → Nat → Nat → Nat → Res) : (s.packed i g o f).mem = s.mem :=
  State.lanewise_mem ..

@[simp] theorem State.sfu_mem (o : OpsDA) (ftz : Bool) (fn : SfuFn) : (s.sfu i g o ftz fn).mem = s.mem := State.taggedRun_mem ..

@[simp] theorem execNop_mem : (execNop i g s).mem = s.mem := State.issue_mem s i g _ fun t => State.deliver_mem t ..

/-! ### Control flow (R132 to R138) -/

@[simp] theorem jumpTo_mem (a : Reg) : (jumpTo i a s).mem = s.mem := by
  refine State.issue_mem s i .pt _ fun t => ?_
  dsimp only
  split <;> simp

@[simp] theorem execRtt_mem (k : RttKind) : (execRtt i k s).mem = s.mem := by
  refine State.issue_mem s i .pt _ fun t => ?_
  dsimp only
  split
  · split
    · exact ite_mem rfl rfl
    · exact (State.endOfPath_mem _).trans (ite_mem rfl rfl)
  · simp

/-! ### Barriers and REORDER (R151, R152, R159) -/

@[simp] theorem State.gate_mem (act : State → State) (hact : (act s).mem = s.mem) : (s.gate i act).mem = s.mem := by
  unfold State.gate
  split
  · simp
  · exact hact

@[simp] theorem State.arrive_mem (b : Nat) (want : BarWant) (go : State → State) (hgo : ∀ t, (go t).mem = t.mem) :
    (s.arrive i b want go).mem = s.mem :=
  ite_mem (State.trapAll_mem ..) ((hgo _).trans rfl)

@[simp] theorem barArrBody_mem (b : Nat) (want : BarWant) : (barArrBody i b want s).mem = s.mem := by
  refine ite_mem (State.arrive_mem s i b want _ fun _ => rfl) ?_
  simp

@[simp] theorem barWaitBody_mem (b : Nat) : (barWaitBody i b s).mem = s.mem := by
  unfold barWaitBody
  split <;> simp

@[simp] theorem barSyncBody_mem (b : Nat) (want : BarWant) : (barSyncBody i b want s).mem = s.mem := by
  unfold barSyncBody
  dsimp only
  split
  · split <;> simp
  · split
    · refine State.arrive_mem s i b want _ fun t => ite_mem ?_ rfl
      simp
    · simp

@[simp] theorem reorderBody_mem (a b : Reg) : (reorderBody i a b s).mem = s.mem := by
  unfold reorderBody
  dsimp only
  split <;> simp

/-! ### Currents and joints (R34 to R61) -/

@[simp] theorem State.imbalance_mem (core : Nat) (d : Word) : (s.imbalance core d).mem = s.mem := rfl
@[simp] theorem State.onJoint_mem (pier joint : Nat) (f : Joint → Joint) : (s.onJoint pier joint f).mem = s.mem := rfl
end

/-! ### The instructions with a meaning of their own -/

section
variable {s : State} (h : s.Canonical) (dly : BitVec 3) (g : Guard)
include h

theorem execMovLong_canonical (d b : Reg) (bk u : Bool) : CanonicalOutcome (execMovLong dly g d b bk u s) := by
  cases u <;> exact canonical_of_mem (by simp) h

theorem execLi_canonical (d : Reg) (u : Bool) (imm : Word) : CanonicalOutcome (execLi dly g d u imm s) := by
  cases u <;> exact canonical_of_mem (by simp) h

theorem execIcvt_canonical (o : OpsDA) (src dst : IntTy) (sat u : Bool) : CanonicalOutcome (execIcvt dly g o src dst sat u s) := by
  cases u <;> exact canonical_of_mem (by simp) h

theorem execRnd_canonical (d : Reg) (key : Option Reg) : CanonicalOutcome (execRnd dly g d key s) := by
  refine canonical_of_mem (State.issue_mem s _ g _ fun t => ?_) h
  dsimp only
  split <;> simp

theorem execSetsb_canonical (d b : Reg) (bk : Bool) : CanonicalOutcome (execSetsb dly g d b bk s) :=
  canonical_of_mem (State.issue_mem s _ g _ fun t => State.deliver_mem t ..) h

theorem execQend_canonical : CanonicalOutcome (execQend dly s) := canonical_of_mem (State.issue_mem s _ .pt _ fun _ => rfl) h

theorem execReorder_canonical (a b : Reg) : CanonicalOutcome (execReorder dly a b s) :=
  canonical_of_mem (State.issue_mem s _ .pt _ fun t => State.gate_mem t _ _ (reorderBody_mem ..)) h

theorem execBra_canonical (off : BitVec 18) : CanonicalOutcome (execBra dly g off s) := by
  refine canonical_of_mem (State.issue_mem s _ g _ fun t => ?_) h
  dsimp only
  split
  · split <;> rfl
  · rfl

theorem execCall_canonical (d : Reg) (off : BitVec 18) : CanonicalOutcome (execCall dly d off s) :=
  canonical_of_mem (State.issue_mem s _ .pt _ fun _ => rfl) h

theorem execMjoin_canonical (off : BitVec 18) : CanonicalOutcome (execMjoin dly off s) :=
  canonical_of_mem (State.issue_mem s _ .pt _ fun _ => rfl) h

theorem execJoin_canonical : CanonicalOutcome (execJoin dly s) := by
  refine canonical_of_mem (State.issue_mem s _ .pt _ fun t => ?_) h
  dsimp only
  split
  · split <;> simp
  · split <;> simp

theorem execExit_canonical : CanonicalOutcome (execExit dly g s) :=
  canonical_of_mem (State.issue_mem s _ g _ fun _ => ite_mem (State.reportCopy_mem ..) (State.endLanes_mem ..)) h

theorem execTrap_canonical (code : BitVec 8) : CanonicalOutcome (execTrap dly g code s) := by
  refine canonical_of_mem (State.issue_mem s _ g _ fun t => ?_) h
  dsimp only
  split
  · simp
  · split
    · simp
    · split <;> simp

theorem execBarArr_canonical (b : BitVec 4) (want : BarWant) : CanonicalOutcome (execBarArr dly b want s) :=
  canonical_of_mem (State.issue_mem s _ .pt _ fun t => State.gate_mem t _ _ (barArrBody_mem ..)) h

theorem execBarWait_canonical (b : BitVec 4) : CanonicalOutcome (execBarWait dly b s) :=
  canonical_of_mem (State.issue_mem s _ .pt _ fun t => State.gate_mem t _ _ (barWaitBody_mem ..)) h

theorem execBarSync_canonical (b : BitVec 4) (want : BarWant) : CanonicalOutcome (execBarSync dly b want s) :=
  canonical_of_mem (State.issue_mem s _ .pt _ fun t => State.gate_mem t _ _ (barSyncBody_mem ..)) h

theorem execGetsr_canonical (d : Reg) (k : Bool) (r : SysReg) : CanonicalOutcome (execGetsr dly g d k r s) :=
  canonical_of_mem (State.issue_mem s _ g _ fun _ => ite_mem (State.trapAll_mem ..) rfl) h

theorem execSetsr_canonical (b : Reg) (bk : Bool) (r : SysReg) : CanonicalOutcome (execSetsr dly b bk r s) :=
  canonical_of_mem (State.issue_mem s _ .pt _ fun _ => rfl) h

theorem execBalBurn_canonical (lvl : BitVec 4) (len : BurnLen) : CanonicalOutcome (execBalBurn dly lvl len s) :=
  canonical_of_mem (State.issue_mem s _ .pt _ fun _ => rfl) h

theorem execBalShunt_canonical : CanonicalOutcome (execBalShunt dly s) :=
  canonical_of_mem (State.issue_mem s _ .pt _ fun _ => rfl) h

theorem execBalHold_canonical (lvl : BitVec 4) : CanonicalOutcome (execBalHold dly lvl s) :=
  canonical_of_mem (State.issue_mem s _ .pt _ fun _ => rfl) h
end

/-! ### The events of the balance -/

section
variable {s : State} (h : s.Canonical)
include h

theorem execWindowEnd_canonical : CanonicalOutcome (execWindowEnd s) := by
  refine ite_canonical (fun _ => h) fun _ => canonical_of_mem ?_ h
  refine foldl_mem _ (fun t p => foldl_mem _ (fun t jc => ?_) _ t) _ _
  split <;> rfl

theorem execT3Trip_canonical (pier joint : Nat) (mismatch : Int) (voltageOnly : Bool) :
    CanonicalOutcome (execT3Trip pier joint mismatch voltageOnly s) :=
  ite_canonical (fun _ => h) fun _ => State.postFault_canonical (s := (s.onPier pier _).onJoint pier joint _) h ..
end

end Sys2Proof.Machine
end

section
/-! PROOFS. Translation (R245 to R250), which sets the bits of table entries, and the accesses of instructions keep memory in
canonical form. -/

namespace Sys2Proof.Machine

/-! ### Translation -/

section
variable (s : State)

@[simp] theorem State.walked_mem (part asid va : Nat) : (s.walked part asid va).1.mem = s.mem := by simp [State.walked]

@[simp] theorem State.codeWord_mem (pa : Nat) : (s.codeWord pa).1.mem = s.mem := by
  unfold State.codeWord
  dsimp only
  split
  · simp
  · split
    · rfl
    · split <;> simp

@[simp] theorem State.killDead_mem (k : Dead) (va : DWord) : (s.killDead k va).mem = s.mem := by
  unfold State.killDead
  split <;> simp

@[simp] theorem State.fetchTrap_mem (va : DWord) : (State.fetchFault.fetchTrap s va).mem = s.mem := by
  unfold State.fetchFault.fetchTrap
  split
  · simp
  · split <;> simp

@[simp] theorem State.acceptInval_mem (i : Inval) : (s.acceptInval i).mem = s.mem := rfl
end

section
variable {s : State} (h : s.Canonical)
include h

theorem State.orEntry_canonical (a bits : Nat) : (s.orEntry a bits).Canonical := State.store_canonical h a _

theorem State.cache_canonical (l : Leaf) (core : Option Nat) (pier asid va : Nat) : (s.cache l core pier asid va).Canonical := by
  have he : (if l.entry.testBit 6 then s else s.orEntry l.at_ 0x40).Canonical :=
    ite_canonical (fun _ => h) fun _ => State.orEntry_canonical h ..
  exact he

/-- A translation writes at most the accessed and dirty bits of an entry (R247). -/
theorem State.translate_canonical (core : Option Nat) (pier part asid : Nat) (va : DWord) (k : AccKind) (bytes : Nat) :
    (s.translate core pier part asid va k bytes).1.Canonical := by
  unfold State.translate
  extract_lets a p fresh
  have hfresh : ∀ x, (fresh x).1.Canonical := by
    intro x
    unfold fresh
    split
    · exact h
    · have hw : (s.walked part asid x).1.Canonical := canonical_of_mem (State.walked_mem s ..) h
      generalize s.walked part asid x = w at hw ⊢
      obtain ⟨s0, r⟩ := w
      cases r with
      | fault r => exact hw
      | violation x => exact hw
      | bad x => exact hw
      | leaf l =>
        have hc := State.cache_canonical hw l core pier asid x
        dsimp only
        split
        · exact hc
        · split
          · split
            · exact State.orEntry_canonical hc ..
            · exact hc
          · exact hc
  split
  · exact h
  · split
    · exact h
    · split
      · exact h
      · split
        · exact hfresh a
        · split
          · exact h
          · split
            · exact hfresh _
            · exact ite_canonical (fun _ => h) fun _ => h

theorem State.xlate_canonical (va : DWord) (k : AccKind) (bytes : Nat) : (s.xlate va k bytes).1.Canonical :=
  State.translate_canonical h ..

theorem State.fetch_canonical (pc : DWord) : (s.fetch pc).1.Canonical := by
  unfold State.fetch
  have hx := State.xlate_canonical h pc .fetch 4
  generalize s.xlate pc .fetch 4 = x at hx ⊢
  obtain ⟨s1, r⟩ := x
  cases r with
  | ok pa dev =>
    dsimp only
    split
    · exact hx
    · exact canonical_of_mem (State.codeWord_mem s1 pa) hx
  | refused => exact hx
  | fault r => exact hx
  | violation w a => exact hx
  | dead k => exact hx

theorem State.pageRequest_canonical (f asid : Nat) (va : DWord) (k : AccKind) (reason : Nat) (srcid : Word) (token : Nat) :
    (s.pageRequest f asid va k reason srcid token).Canonical := State.requestPut_canonical h ..

theorem State.fetchFault_canonical (va : DWord) (r : XRes) : (s.fetchFault va r).Canonical := by
  have ht : (State.fetchFault.fetchTrap s va).Canonical := canonical_of_mem (State.fetchTrap_mem s va) h
  cases r with
  | ok pa dev => exact ht
  | refused => exact ht
  | dead k => exact canonical_of_mem (State.killDead_mem ..) h
  | violation w a =>
    cases w with
    | true => exact State.isolateWalker_canonical h ..
    | false => exact State.isolateTeam_canonical h
  | fault reason =>
    unfold State.fetchFault
    dsimp only
    split
    · split
      · exact canonical_of_mem (State.takeTrap_mem s) h
      · exact State.pageRequest_canonical h ..
    · exact ht

theorem execTableWalk_canonical (asid : Nat) (va : DWord) (k : AccKind) : CanonicalOutcome (execTableWalk asid va k s) := by
  refine ite_canonical (fun _ => h) fun _ => ?_
  have hw : (s.walked s.cur.d.part asid va.toNat).1.Canonical := canonical_of_mem (State.walked_mem s ..) h
  generalize s.walked s.cur.d.part asid va.toNat = w at hw ⊢
  obtain ⟨s0, r⟩ := w
  cases r with
  | leaf l => exact ite_canonical (fun _ => State.cache_canonical hw ..) fun _ => hw
  | fault r => exact hw
  | bad a => exact canonical_of_mem (State.killDead_mem ..) hw
  | violation a => exact State.isolateWalker_canonical hw ..

theorem execAsidctlWrite_canonical (f : Nat) (v : Word) : CanonicalOutcome (execAsidctlWrite f v s) :=
  ite_canonical (fun _ => h) fun _ => h

theorem execInval_canonical (f : Nat) (va : DWord) (scope : BitVec 2) (asid : Nat) :
    CanonicalOutcome (execInval f va scope asid s) :=
  ite_canonical (fun _ => h) fun _ => ite_canonical (fun _ => h) fun _ => h

theorem execInvalComplete_canonical (f : Nat) : CanonicalOutcome (execInvalComplete f s) := by
  unfold execInvalComplete
  rw [canonicalOutcome_next]
  split
  · exact h
  · split
    · exact h
    · dsimp only
      split <;> exact h
end

/-! ### Registers and bytes as an access sees them -/

section
variable (s : State)

/-- Reading a register has at most an event follow (R67, R327). -/
theorem State.readWord_cases (x : Nat) : ∃ a, s.readWord x = { s with agenda := a } := by
  unfold State.readWord
  split
  · split <;> exact ⟨_, rfl⟩
  · dsimp only
    split <;> exact ⟨_, rfl⟩

@[simp] theorem State.readWord_mem (x : Nat) : (s.readWord x).mem = s.mem := by
  obtain ⟨a, ha⟩ := State.readWord_cases s x
  rw [ha]

@[simp] theorem State.readAt_mem (pa n : Nat) : (s.readAt pa n).1.mem = s.mem := by
  unfold State.readAt
  split
  · exact ite_mem (by simp) (by simp)
  · exact State.activate_mem s pa

@[simp] theorem State.healed_mem (pa n : Nat) : (s.healed pa n).mem = s.mem := by
  unfold State.healed
  split
  · exact ite_mem rfl rfl
  · rfl
end

theorem State.writeAt_canonical {s : State} (h : s.Canonical) (pa : Nat) (bs : List Byte) : (s.writeAt pa bs).Canonical := by
  unfold State.writeAt
  split
  · exact h
  · refine canonical_of_mem (State.healed_mem _ pa bs.length) (State.store_canonical ?_ pa bs)
    exact canonical_of_mem (State.activate_mem s pa) h

/-! ### What the checks of an access leave -/

theorem Look.lane_canonical {k : AccKind} {bytes : Nat} {a : Look} (h : a.st.Canonical) (x : Nat × DWord) :
    (a.lane k bytes x).st.Canonical := by
  unfold Look.lane
  split
  · exact h
  · have hx := State.xlate_canonical h x.2 k bytes
    generalize a.st.xlate x.2 k bytes = r at hx ⊢
    obtain ⟨s1, r⟩ := r
    cases r with
    | fault r =>
      dsimp only
      split <;> exact hx
    | ok pa dev => exact hx
    | refused => exact hx
    | violation w pa => exact hx
    | dead k => exact hx

section
variable {s : State} (h : s.Canonical)
include h

theorem State.look_canonical (k : AccKind) (bytes : Nat) (lanes : List (Nat × DWord)) : (s.look k bytes lanes).st.Canonical :=
  List.foldlRecOn (motive := fun a : Look => a.st.Canonical) lanes _ h fun _ ha x _ => Look.lane_canonical ha x

theorem State.hold_canonical (k : AccKind) (mk : Nat → DWord → Nat → HeldAccess) (xs : List (Nat × DWord × Nat)) :
    (s.hold k mk xs).Canonical := by
  refine foldl_canonical (fun t pg ht => ?_) _ h
  dsimp only
  split
  · exact ht
  · exact State.pageRequest_canonical ht ..
end

section
variable (s : State)

@[simp] theorem State.lay_mem (ins : Nat) (xs : List (Nat × Spot)) : (s.lay ins xs).mem = s.mem := rfl
@[simp] theorem State.holdRest_mem (xs : List HeldAccess) : (s.holdRest xs).mem = s.mem := rfl
@[simp] theorem State.parkHandler_mem (new : Bool) : (State.parkHandler new s).mem = s.mem := ite_mem rfl rfl
@[simp] theorem State.shadowAccess_mem (w : Window) (i : Instr) (n : Nat) (lanes : List (Nat × DWord)) (lk : Look)
    (mk : Nat → DWord → Nat → HeldAccess) : (s.shadowAccess w i n lanes lk mk).mem = s.mem := ite_mem rfl rfl
@[simp] theorem State.holdBack_mem (d : DHeld) : (s.holdBack d).mem = s.mem := rfl
@[simp] theorem State.killData_mem (pa : Nat) : (s.killData pa).mem = s.mem := State.killWith_mem ..
@[simp] theorem State.oneAccess_mem (a : Access) : (s.oneAccess a).mem = s.mem := ite_mem (State.killData_mem ..) rfl

@[simp] theorem State.newAccess_mem (a : Access) : (s.newAccess a).mem = s.mem := by
  unfold State.newAccess
  split <;> simp

@[simp] theorem State.placeStore_mem (all : List (Nat × Spot)) (w : WaitingStore) : (s.placeStore all w).mem = s.mem := by
  unfold State.placeStore
  split <;> rfl

@[simp] theorem State.placeWaiting_mem : s.placeWaiting.mem = s.mem := by simp [State.placeWaiting]

@[simp] theorem State.putStore_mem (all : List (Nat × Spot)) (w : WaitingStore) : (State.putStore all s w).mem = s.mem :=
  ite_mem rfl (State.placeStore_mem ..)

@[simp] theorem State.storeLane_mem (all : List (Nat × Spot)) (w : WaitingStore) : (s.storeLane all w).mem = s.mem :=
  foldl_mem _ (State.putStore_mem · all) _ s

@[simp] theorem State.storeLanes_mem (ws : List WaitingStore) : (s.storeLanes ws).mem = s.mem :=
  foldl_mem _ (State.putStore_mem · _) ws s

@[simp] theorem State.spadPut_mem (o : Nat) (bs : List Byte) : (s.spadPut o bs).mem = s.mem := rfl
@[simp] theorem State.stsLane_mem (l o : Nat) (bs : List Byte) : (s.stsLane l o bs).mem = s.mem := ite_mem rfl rfl
end

/-! ### LD, ST, ATOM and CAS (R252 to R257) -/

section
variable {s : State} (h : s.Canonical)
include h

/-- What stops an access of several lanes: a page that must not be touched, a walker or a violation (R220, R234). -/
theorem State.globalAccess_canonical (i : Instr) (g : Guard) (k : AccKind) (bytes : Nat) (addr : Team → Nat → DWord)
    (mk : Nat → DWord → Nat → HeldAccess) (put : State → List Req → State) (hput : ∀ t rs, (put t rs).mem = t.mem) :
    (s.globalAccess i g k bytes addr mk put).Canonical := by
  unfold State.globalAccess
  extract_lets -lift n lanes lk
  have hlk : lk.st.Canonical := State.look_canonical h ..
  split
  · exact canonical_of_mem (State.shadowAccess_mem ..) h
  · exact canonical_of_mem (State.killDead_mem ..) hlk
  · exact State.isolateWalker_canonical hlk ..
  · exact State.isolateTeam_canonical hlk
  · exact canonical_of_mem (State.trapAll_mem ..) h
  · refine State.withHits_canonical ?_ hlk
    have h1 : (put { lk.st with cur := lk.st.cur.allocate i } lk.ok).Canonical :=
      canonical_of_mem (hput _ _) (canonical_of_mem rfl hlk)
    refine canonical_of_mem (State.parkHandler_mem ..) ?_
    rw [State.Canonical, State.retire_mem]
    dsimp only
    split
    · exact h1
    · exact State.hold_canonical (canonical_of_mem (State.lay_mem ..) h1) ..

theorem execLd_canonical (dly : BitVec 3) (g : Guard) (tag : Tag) (o : OpsDA) (size : LdSize) (ord : MemOrd) (scope : Scope)
    (off : BitVec 10) : CanonicalOutcome (execLd dly g tag o size ord scope off s) := by
  refine State.issue_canonical (fun t ht => ?_) h
  refine ite_canonical (fun _ => canonical_of_mem (State.trapAll_mem ..) ht) fun _ => ?_
  exact State.globalAccess_canonical ht _ _ _ _ _ _ _ fun u rs => foldl_mem _ (fun _ _ => State.newAccess_mem ..) rs u

theorem atomicAccess_canonical (i : Instr) (g : Guard) (tag : Tag) (op : AccOp) (w64 : Bool) (d a b c : Reg) (fail : FailOrd)
    (ord : MemOrd) (scope : Scope) (off : BitVec 10) :
    (atomicAccess i g tag op w64 d a b c fail ord scope off s).Canonical := by
  refine State.issue_canonical (fun t ht => ?_) h
  refine ite_canonical (fun _ => canonical_of_mem (State.trapAll_mem ..) ht) fun _ => ?_
  exact State.globalAccess_canonical ht _ _ _ _ _ _ _ fun u rs =>
    foldl_mem _ (fun _ _ => by dsimp only; split <;> simp) rs u

theorem execSt_canonical (dly : BitVec 3) (g : Guard) (tag : Tag) (a b : Reg) (size : StSize) (ord : MemOrd) (scope : Scope)
    (off : BitVec 10) : CanonicalOutcome (execSt dly g tag a b size ord scope off s) := by
  refine State.issue_canonical (fun t ht => ?_) h
  refine ite_canonical (fun _ => canonical_of_mem (State.trapAll_mem ..) ht) fun _ => ?_
  exact State.globalAccess_canonical ht _ _ _ _ _ _ _ fun _ _ => State.storeLanes_mem ..
end

/-! ### LDS, STS, ATOMS and FENCE (R237, R258) -/

/-- A scratchpad is no part of the device's memory. -/
theorem State.spadAccess_mem (s : State) (i : Instr) (g : Guard) (tag : Tag) (a : Reg) (off : BitVec 15) (n : Nat)
    (atomic store : Bool) (ord : MemOrd) (shadow : State → Nat → Option (LdSize × Nat) × List Byte)
    (lane : State → Nat → Nat → State × List RegWrite) (hlane : ∀ t l o, (lane t l o).1.mem = t.mem) :
    (s.spadAccess i g tag a off n atomic store ord shadow lane).mem = s.mem := by
  refine State.issue_mem s i g _ fun t => ite_mem rfl (ite_mem (State.stall_mem ..) ?_)
  extract_lets ps hits bad
  split
  · rfl
  · exact State.killWord_mem t
  · rfl
  · refine State.withHits_mem t i _ _ ?_
    rw [State.retire_mem]
    refine foldl_fst_mem _ ?_ _ _
    exact fun _ _ => hlane ..

section
variable {s : State} (h : s.Canonical) (dly : BitVec 3)
include h

theorem execLds_canonical (g : Guard) (tag : Tag) (o : OpsDA) (size : LdSize) (off : BitVec 15) :
    CanonicalOutcome (execLds dly g tag o size off s) :=
  canonical_of_mem (State.spadAccess_mem s _ _ _ _ _ _ _ _ _ _ _ fun _ _ _ => rfl) h

theorem execSts_canonical (g : Guard) (tag : Tag) (a b : Reg) (size : StSize) (off : BitVec 15) :
    CanonicalOutcome (execSts dly g tag a b size off s) :=
  canonical_of_mem (State.spadAccess_mem s _ _ _ _ _ _ _ _ _ _ _ fun _ _ _ => State.stsLane_mem ..) h

theorem execAtoms_canonical (g : Guard) (tag : Tag) (d a b : Reg) (op : Option AOp) (w64 : Bool) (ord : MemOrd)
    (off : BitVec 15) : CanonicalOutcome (execAtoms dly g tag d a b op w64 ord off s) := by
  refine canonical_of_mem (State.spadAccess_mem s _ _ _ _ _ _ _ _ _ _ _ fun t l o => ?_) h
  dsimp only
  split <;> rfl

theorem execFence_canonical (ord : MemOrd) (scope : Scope) : CanonicalOutcome (execFence dly ord scope s) :=
  canonical_of_mem (State.issue_mem s _ .pt _ fun _ => ite_mem rfl (ite_mem rfl (by simp))) h
end

/-! ### The matrix unit (R277 to R296) -/

@[simp] theorem State.queueMatrix_mem (s : State) (u : TileUse) (batch busy : Nat) : (s.queueMatrix u batch busy).mem = s.mem :=
  rfl

theorem State.matrixIssue_mem (s : State) (i : Instr) (u : TileUse) (bad : State → Bool) (act : State → State)
    (hact : ∀ t, (act t).mem = t.mem) : (s.matrixIssue i u bad act).mem = s.mem :=
  State.issueIf_mem s i .pt _ _ fun t => ite_mem (State.stall_mem ..) (hact t)

theorem State.matrixIssue_canonical {s : State} (h : s.Canonical) {i : Instr} {u : TileUse} {bad : State → Bool}
    {act : State → State} (hact : ∀ t, t.Canonical → (act t).Canonical) : (s.matrixIssue i u bad act).Canonical :=
  State.issueIf_canonical (fun t ht => ite_canonical (fun _ => ht) fun _ => hact t ht) h

@[simp] theorem State.mmaRun_mem (s : State) (i : Instr) (d b : Reg) (desc : Option (BitVec 6)) (pm1 : BitVec 3) (af bf : MFmt)
    (new : Bool) (nq k : Nat) (badPos : Team → Nat → Bool) (rows : Team → Nat → Nat → List (Nat × Nat)) (busy : Nat → Nat) :
    (s.mmaRun i d b desc pm1 af bf new nq k badPos rows busy).mem = s.mem := by
  refine State.matrixIssue_mem s i _ _ _ fun t => ?_
  dsimp only
  split
  · exact State.trapAll_mem ..
  · rfl

section
variable {s : State} (h : s.Canonical)
include h

theorem State.tileLook_canonical (k : AccKind) (base : DWord) (st : Word) (n : Nat) (words : List Nat) :
    (s.tileLook k base st n words).st.Canonical := by
  refine List.foldlRecOn (motive := fun a : TileLook => a.st.Canonical) words _ h fun a ha w _ => ?_
  dsimp only
  split
  · exact ha
  · have hl := State.look_canonical ha k n (tileAddrs base st n w)
    split <;> exact hl

theorem State.tileAccess_canonical (i : Instr) (use : TileUse) (k : AccKind) (base : DWord) (st : Word) (n : Nat)
    (mk : Nat → DWord → Nat → HeldAccess) (put : State → List Req → List Nat → State)
    (hput : ∀ t rs good, (put t rs good).mem = t.mem) : (s.tileAccess i use k base st n mk put).Canonical := by
  unfold State.tileAccess
  extract_lets -lift lk reason
  have hlk : lk.st.Canonical := State.tileLook_canonical h ..
  split
  · exact canonical_of_mem (State.killDead_mem ..) hlk
  · exact State.isolateWalker_canonical hlk ..
  · exact State.isolateTeam_canonical hlk
  · exact canonical_of_mem (State.trapAll_mem ..) h
  · refine State.withHits_canonical ?_ hlk
    refine canonical_of_mem (State.parkHandler_mem ..) ?_
    rw [State.Canonical, State.retire_mem]
    refine State.hold_canonical (ite_canonical (fun _ => ?_) fun _ => canonical_of_mem (State.lay_mem ..) ?_) .. <;>
      exact canonical_of_mem (hput _ _ _) (canonical_of_mem rfl hlk)

theorem execAzero_canonical (dly : BitVec 3) (d : Reg) (int : Bool) : CanonicalOutcome (execAzero dly d int s) :=
  canonical_of_mem (State.matrixIssue_mem s _ _ _ _ fun _ => rfl) h

theorem execAld_canonical (dly : BitVec 3) (tag : Tag) (d a b : Reg) (int : Bool) :
    CanonicalOutcome (execAld dly tag d a b int s) :=
  State.matrixIssue_canonical h fun _ ht => State.tileAccess_canonical ht _ _ _ _ _ _ _ _ fun _ rs _ =>
    foldl_mem _ (fun _ _ => State.newAccess_mem ..) rs _

theorem execAst_canonical (dly : BitVec 3) (tag : Tag) (a b c : Reg) (ofmt : OFmt) (act : Act) (scale bias : Bool) :
    CanonicalOutcome (execAst dly tag a b c ofmt act scale bias s) :=
  State.matrixIssue_canonical h fun _ ht => State.tileAccess_canonical ht _ _ _ _ _ _ _ _ fun _ _ _ => State.storeLanes_mem ..

theorem execAmov_canonical (dly : BitVec 3) (tag : Tag) (d c : Reg) : CanonicalOutcome (execAmov dly tag d c s) :=
  canonical_of_mem (State.matrixIssue_mem s _ _ _ _ fun _ => rfl) h

theorem execQtile_canonical (dly : BitVec 3) (tag : Tag) (a b c : Reg) (fmt : QFmt) (len : BlkLen) :
    CanonicalOutcome (execQtile dly tag a b c fmt len s) := by
  refine canonical_of_mem (State.matrixIssue_mem s _ _ _ _ fun t => ite_mem (State.stall_mem ..) ?_) h
  dsimp only
  split
  · exact State.trapAll_mem ..
  · exact (foldl_mem _ (fun _ _ => by simp) _ _).trans rfl
end

end Sys2Proof.Machine
end

section
/-! PROOFS. The ordering machine (R265 to R268) performs stores and atomics, answers held accesses (R250) and delivers results:
memory stays in canonical form. -/

namespace Sys2Proof.Machine

section
variable {s : State} (h : s.Canonical)
include h

theorem State.focus_canonical (uid : Nat) : (s.focus uid).Canonical := canonical_of_mem (State.focus_mem s uid) h
theorem State.focusBlock_canonical (bid : Nat) : (s.focusBlock bid).Canonical := canonical_of_mem (State.focusBlock_mem s bid) h
theorem State.readAt_canonical (pa n : Nat) : (s.readAt pa n).1.Canonical := canonical_of_mem (State.readAt_mem s pa n) h

/-! ### Results arriving -/

theorem execResultWriteback_canonical (uid : Nat) : CanonicalOutcome (execResultWriteback uid s) := State.focus_canonical h uid

theorem execTaggedResultWrite_canonical (uid : Nat) (tag : Tag) : CanonicalOutcome (execTaggedResultWrite uid tag s) :=
  ite_canonical (fun _ => State.focus_canonical h uid) fun _ => State.focus_canonical h uid

theorem execScratchpadAccessComplete_canonical (uid : Nat) : CanonicalOutcome (execScratchpadAccessComplete uid s) :=
  State.focus_canonical h uid

theorem execLoadResponse_canonical (uid seq : Nat) : CanonicalOutcome (execLoadResponse uid seq s) := by
  have hf := State.focus_canonical h uid
  unfold execLoadResponse
  rw [canonicalOutcome_next]
  dsimp only
  split
  · exact hf
  · split <;> exact hf

/-! ### Sending and answering (R265, R267) -/

theorem execStoreSend_canonical (uid seq : Nat) : CanonicalOutcome (execStoreSend uid seq s) := by
  have hf := State.focus_canonical h uid
  unfold execStoreSend
  rw [canonicalOutcome_next]
  dsimp only
  split
  · exact hf
  · split <;> exact hf

theorem execLoadSend_canonical (uid seq : Nat) : CanonicalOutcome (execLoadSend uid seq s) := by
  have hf := State.focus_canonical h uid
  unfold execLoadSend
  rw [canonicalOutcome_next]
  dsimp only
  split
  · exact hf
  · split <;> exact hf

theorem execStoreAck_canonical (uid seq : Nat) : CanonicalOutcome (execStoreAck uid seq s) := by
  have hf := State.focus_canonical h uid
  unfold execStoreAck
  rw [canonicalOutcome_next]
  dsimp only
  split
  · split <;> exact h
  · split
    · exact hf
    · split
      · exact canonical_of_mem (State.placeWaiting_mem _) hf
      · exact hf

theorem execAckForward_canonical (uid seq : Nat) : CanonicalOutcome (execAckForward uid seq s) := by
  have hf := State.focus_canonical h uid
  unfold execAckForward
  rw [canonicalOutcome_next]
  dsimp only
  split
  · exact hf
  · split <;> exact hf

/-! ### Performing (R266, R268) -/

theorem State.storeHealed_canonical (pa : Nat) (bs : List Byte) (n : Nat) : ((s.store pa bs).healed pa n).Canonical :=
  canonical_of_mem (State.healed_mem ..) (State.store_canonical h pa bs)

theorem State.writeCells_canonical (dev : Bool) (cells : List Host.Cell) : (s.writeCells dev cells).Canonical := by
  unfold State.writeCells
  split
  · exact h
  · split
    · exact State.writeAt_canonical h ..
    · split
      · exact foldl_canonical (fun _ _ ht => State.writeAt_canonical ht ..) _ h
      · refine foldl_canonical (fun _ c ht => State.storeHealed_canonical ht c.1 [c.2] 1) _ ?_
        exact canonical_of_mem (State.activate_mem ..) h

theorem State.deliverCells_canonical (lid part : Nat) (dev : Bool) (cs : List Host.Cell) :
    (s.deliverCells lid part dev cs).Canonical :=
  ite_canonical (fun _ => h) fun _ => State.writeCells_canonical h dev cs

theorem execRequestPerform_canonical (uid seq : Nat) : CanonicalOutcome (execRequestPerform uid seq s) := by
  have hf := State.focus_canonical h uid
  unfold execRequestPerform
  rw [canonicalOutcome_next]
  split
  · split
    · exact h
    · exact State.deliverCells_canonical h ..
  · dsimp only
    split
    · exact hf
    · split
      · refine State.deliverCells_canonical ?_ ..
        exact hf
      · refine State.deliverCells_canonical ?_ ..
        exact hf
      · split
        · exact hf
        · split
          · exact hf
          · split
            · exact canonical_of_mem (State.killData_mem ..) hf
            · split
              · refine State.writeAt_canonical ?_ ..
                exact State.readAt_canonical hf ..
              · exact State.readAt_canonical hf ..
end

/-! ### Accesses held on recoverable faults (R249, R250) -/

section
variable (s : State)

@[simp] theorem State.recordHeld_mem (hs : List HeldAccess) (x : HeldAccess) (cause : Nat) (datum : Word) (m : LaneMask) :
    (s.recordHeld hs x cause datum m).mem = s.mem := by
  unfold State.recordHeld
  split
  · rfl
  · split
    · simp
    · split
      · rfl
      · exact ite_mem (State.takeTrap_mem _) rfl

@[simp] theorem State.failHeld_mem (hs : List HeldAccess) : (s.failHeld hs).mem = s.mem := by
  unfold State.failHeld
  split <;> simp

@[simp] theorem State.failPending_mem : s.failPending.mem = s.mem := by
  unfold State.failPending
  split
  · split
    · rfl
    · dsimp only
      split <;> simp
  · rfl

@[simp] theorem State.putHeld_mem (all : List (Nat × Spot)) (x : HeldAccess) (pa : Nat) (dev : Bool) :
    (s.putHeld all x pa dev).mem = s.mem := by
  unfold State.putHeld
  dsimp only
  split
  · exact ite_mem rfl (State.newAccess_mem ..)
  · exact State.storeLane_mem ..

@[simp] theorem State.redoHeld_mem (all : List (Nat × Spot)) (x : HeldAccess × ReplayRes) :
    (State.redoHeld all s x).mem = s.mem := by
  unfold State.redoHeld
  split
  · split <;> simp
  all_goals rfl
end

section
variable {s : State} (h : s.Canonical)
include h

theorem State.replayHeld_canonical (x : HeldAccess) : (s.replayHeld x).1.Canonical := by
  unfold State.replayHeld
  split
  · exact h
  · have hx := State.xlate_canonical h x.va x.kind x.size
    generalize s.xlate x.va x.kind x.size = r at hx ⊢
    obtain ⟨s1, r⟩ := r
    cases r with
    | ok pa dev => exact hx
    | fault r => exact hx
    | refused => exact hx
    | dead k => exact canonical_of_mem (State.killDead_mem ..) hx
    | violation w pa =>
      cases w with
      | true => exact State.isolateWalker_canonical hx ..
      | false => exact State.isolateTeam_canonical hx

theorem State.replayInstr_canonical (hs : List HeldAccess) : (s.replayInstr hs).Canonical := by
  unfold State.replayInstr
  extract_lets r xs with_ failed again
  have hr : r.1.Canonical := by
    refine foldl_fst_canonical ?_ _ ?_
    · exact fun _ x ha => State.replayHeld_canonical ha x
    · exact h
  split
  · exact h
  · exact canonical_of_mem (State.recordHeld_mem ..) hr
  · refine canonical_of_mem (State.failHeld_mem ..) (canonical_of_mem (State.holdRest_mem ..) (State.hold_canonical ?_ ..))
    refine canonical_of_mem (State.lay_mem ..) (canonical_of_mem (foldl_mem _ ?_ _ _) hr)
    exact fun t x => State.redoHeld_mem t _ x

theorem State.replayAll_canonical (hs : List HeldAccess) : (s.replayAll hs).Canonical :=
  foldl_canonical (fun _ _ ht => State.replayInstr_canonical ht _) _ h

theorem State.answerTeam_canonical (token : Nat) (fail : Bool) : (s.answerTeam token fail).Canonical := by
  cases fail with
  | true => exact canonical_of_mem ((State.failHeld_mem ..).trans rfl) h
  | false =>
    refine State.replayAll_canonical (canonical_of_mem (State.holdRest_mem ..) ?_) _
    exact h

theorem execTrapTake_canonical (uid : Nat) : CanonicalOutcome (execTrapTake uid s) := by
  have hf := State.focus_canonical h uid
  have hp : (s.focus uid).failPending.Canonical := canonical_of_mem (State.failPending_mem _) hf
  unfold execTrapTake
  rw [canonicalOutcome_next]
  dsimp only
  split
  · exact hf
  · split
    · exact hp
    · split
      · exact canonical_of_mem (State.takeTrap_mem _) hp
      · split
        · split <;> exact canonical_of_mem (State.takeTrap_mem _) hp
        · split
          · exact canonical_of_mem (State.takeTrap_mem _) hp
          · exact hp
end

end Sys2Proof.Machine
end

section
/-! PROOFS. Counters, copies, messages and the setting-out table (R298 to R322): memory stays in canonical form. -/

namespace Sys2Proof.Machine

/-! ### Counters and marks -/

section
variable (s : State) (i : Instr)

@[simp] theorem waitcBody_mem (cls : CCls) (n : Nat) : (waitcBody i cls n s).mem = s.mem := by
  unfold waitcBody
  split
  · simp
  · split <;> simp

@[simp] theorem yieldBody_mem (cls : CCls) (n : Nat) (off : BitVec 18) : (yieldBody i cls n off s).mem = s.mem := by
  unfold yieldBody
  dsimp only
  split
  · rfl
  · split
    · simp
    · rfl

@[simp] theorem markWBody_mem (n : Nat) : (markWBody i n s).mem = s.mem := by
  unfold markWBody
  split
  · simp
  · split
    · simp
    · dsimp only
      split <;> simp

@[simp] theorem copyBody_mem (x : Slice) : (copyBody i x s).mem = s.mem := by
  unfold copyBody
  split
  · simp
  · rfl
end

section
variable {s : State} (h : s.Canonical) (dly : BitVec 3)
include h

theorem execWaitc_canonical (cls : CCls) (n : BitVec 6) : CanonicalOutcome (execWaitc dly cls n s) :=
  canonical_of_mem (State.issue_mem s _ .pt _ fun t => State.gate_mem t _ _ (waitcBody_mem ..)) h

theorem execYieldC_canonical (cls : CCls) (n : BitVec 6) (off : BitVec 18) : CanonicalOutcome (execYieldC dly cls n off s) :=
  canonical_of_mem (State.issue_mem s _ .pt _ fun t => State.gate_mem t _ _ (yieldBody_mem ..)) h

theorem execBatch_canonical : CanonicalOutcome (execBatch dly s) :=
  canonical_of_mem (State.issue_mem s _ .pt _ fun _ => ite_mem rfl rfl) h

theorem execBatchComplete_canonical (uid : Nat) : CanonicalOutcome (execBatchComplete uid s) := by
  have hf := State.focus_canonical h uid
  refine ite_canonical (fun _ => hf) fun _ => ?_
  generalize s.focus uid = t at hf ⊢
  have h1 : (if t.cur.d.dmode then t else { t with cur := t.completeBatches t.cur }).Canonical :=
    ite_canonical (fun _ => hf) fun _ => hf
  exact ite_canonical (fun _ => canonical_of_mem (State.endTeam_mem _) h1) fun _ => h1

theorem execMarkW_canonical (n : BitVec 16) : CanonicalOutcome (execMarkW dly n s) :=
  canonical_of_mem (State.issue_mem s _ .pt _ fun t => State.gate_mem t _ _ (markWBody_mem ..)) h

theorem execMark_canonical (n : BitVec 16) : CanonicalOutcome (execMark dly n s) := by
  refine canonical_of_mem (State.issue_mem s _ .pt _ fun t => ?_) h
  dsimp only
  split
  · simp
  · split
    · simp
    · split
      · simp
      · split
        · rfl
        · simp

theorem execCopy_canonical (a b c : Reg) (s2g : Bool) (rec : Option (BitVec 6)) :
    CanonicalOutcome (execCopy dly a b c s2g rec s) := by
  refine canonical_of_mem (State.issue_mem s _ .pt _ fun t => ?_) h
  dsimp only
  split
  · exact State.gate_mem t _ _ (copyBody_mem ..)
  all_goals
    split
    · rfl
    · split
      · exact State.trapAll_mem ..
      · exact (State.gate_mem _ _ _ (copyBody_mem ..)).trans rfl
end

/-! ### The block-transfer engine (R305 to R307) -/

section
variable (s : State)

@[simp] theorem State.spadCells_mem (cells : List Host.Cell) : (s.spadCells cells).mem = s.mem := rfl
@[simp] theorem State.onCopy_mem (k : Nat) (f : Copy → Copy) : (s.onCopy k f).mem = s.mem := rfl
@[simp] theorem State.chargeBeat_mem (core : Nat) : (s.chargeBeat core).mem = s.mem := rfl

@[simp] theorem State.deadBeat_mem (n : Nat) (x : Slice) (off : Nat) (k : Dead) (va : DWord) :
    (s.deadBeat n x off k va).mem = s.mem := by
  unfold State.deadBeat
  split
  · simp
  · rfl

@[simp] theorem State.finishCopy_mem (c : Copy) : (s.finishCopy c).mem = s.mem := by
  unfold State.finishCopy
  extract_lets b ring has s1 s2 s3
  have h3 : s3.mem = s.mem := by
    dsimp only [s3, s2, s1]
    cases ring <;> rfl
  split
  · exact h3
  · exact ite_mem ((State.killWith_mem ..).trans h3) h3
end

section
variable {s : State} (h : s.Canonical)
include h

theorem State.beatPieces_canonical (b : Block) (x : Slice) (off : Nat) : (s.beatPieces b x off).1.Canonical := by
  refine foldl_fst_canonical ?_ _ ?_
  · exact fun _ _ ha => State.translate_canonical ha ..
  · exact h

theorem foldl_writeAt_canonical (us : List (Nat × List Byte)) : (us.foldl (fun s u => s.writeAt u.1 u.2) s).Canonical :=
  foldl_canonical (fun _ u ht => State.writeAt_canonical ht u.1 u.2) us h

theorem State.movePiece_canonical (c : Copy) (x : Slice) (pa off : Nat) (torn : Bool) : (s.movePiece c x pa off torn).Canonical := by
  unfold State.movePiece
  split
  · have h1 : (if torn then { s with free := s.free + 2 } else s).Canonical := ite_canonical (fun _ => h) fun _ => h
    exact foldl_writeAt_canonical h1 _
  · have hr := State.readAt_canonical h pa 16
    generalize s.readAt pa 16 = r at hr ⊢
    obtain ⟨s1, v⟩ := r
    refine canonical_of_mem (foldl_mem _ ?_ _ _) (ite_canonical (fun _ => ?_) fun _ => ?_)
    · exact fun _ _ => rfl
    · exact hr
    · exact hr

theorem State.holdBeat_canonical (k : Nat) (x : Slice) (off : Nat) (va : DWord) (reason : Nat) :
    (s.holdBeat k x off va reason).Canonical := by
  unfold State.holdBeat
  dsimp only
  split
  · exact h
  · exact State.pageRequest_canonical h ..

theorem State.beat_canonical (c : Copy) (x : Slice) (off : Nat) : (s.beat c x off).Canonical := by
  unfold State.beat
  have hp := State.beatPieces_canonical h s.blk x off
  dsimp only
  split
  · exact canonical_of_mem (State.deadBeat_mem ..) hp
  · exact State.isolateWalker_canonical hp ..
  · exact canonical_of_mem (State.onCore_mem ..) (State.isolate_canonical hp ..)
  · exact State.holdBeat_canonical hp ..
  · exact foldl_canonical (fun _ _ ht => State.movePiece_canonical ht ..) _ hp

theorem execCopyBeat_canonical (bid : Nat) : CanonicalOutcome (execCopyBeat bid s) := by
  have hf := State.focusBlock_canonical h bid
  unfold execCopyBeat
  rw [canonicalOutcome_next]
  dsimp only
  split
  · exact h
  · split
    · exact h
    · split
      · exact h
      · refine State.beat_canonical ?_ ..
        exact hf

theorem execCopyComplete_canonical (bid : Nat) : CanonicalOutcome (execCopyComplete bid s) := by
  have hf := State.focusBlock_canonical h bid
  unfold execCopyComplete
  rw [canonicalOutcome_next]
  dsimp only
  split
  · exact h
  · exact ite_canonical (fun _ => h) fun _ => canonical_of_mem (State.finishCopy_mem ..) hf

/-! ### Messages (R310 to R312) -/

theorem execSend_canonical (dly : BitVec 3) (g : Guard) (a b : Reg) (hd : BitVec 8) (w : BitVec 4) :
    CanonicalOutcome (execSend dly g a b hd w s) := by
  refine State.issue_canonical (fun t ht => ?_) h
  refine ite_canonical (fun _ => canonical_of_mem (State.trapAll_mem ..) ht) fun _ => ?_
  refine ite_canonical (fun _ => ht) fun _ => ?_
  refine ite_canonical (fun _ => canonical_of_mem ((State.stall_mem ..).trans ((State.begin_mem ..).trans rfl)) ht) fun _ => ?_
  refine ite_canonical (fun _ => State.isolateTeam_canonical ht) fun _ => ?_
  exact canonical_of_mem ((State.withHits_mem _ _ _ _ rfl).trans rfl) ht

theorem execMessageAccept_canonical (idx : Nat) : CanonicalOutcome (execMessageAccept idx s) := by
  unfold execMessageAccept
  rw [canonicalOutcome_next]
  split
  · exact h
  · refine ite_canonical (fun _ => h) fun _ => ?_
    extract_lets p s1 known s2
    have h2 : s2.Canonical := by
      clear_value known
      cases known with
      | some k => exact h
      | none =>
        refine State.postFault_canonical ?_ ..
        exact h
    exact ite_canonical (fun _ => h2) fun _ => h2
end

/-! ### The setting-out table (R315 to R317) -/

@[simp] theorem State.setEntry_mem (s : State) (lid bid idx : Nat) (st : EntSt) : (s.setEntry lid bid idx st).mem = s.mem := rfl

section
variable {s : State} (h : s.Canonical)
include h

theorem State.putUnits_canonical (us : List (Nat × List Byte)) : (s.putUnits us).Canonical := foldl_writeAt_canonical h us
theorem State.putTorn_canonical (us : List (Nat × List Byte)) : (s.putTorn us).Canonical := State.putUnits_canonical h _

theorem State.faultEntry_canonical (l : Launch) (bid idx : Nat) (e : SetEntry) (wher : DWord) (data : Word) :
    (s.faultEntry l bid idx e wher data).Canonical := by
  refine State.postFault_canonical (s := s.setEntry l.lid bid idx .faulted) ?_ ..
  exact h

theorem State.freezeTier_canonical (l : Launch) (e : SetEntry) (pa : Nat) : (s.freezeTier l e pa).Canonical :=
  State.isolate_canonical h l.d.part 0x06 (s.engineId (192 + e.slice) 1) (some l.lid) (BitVec.ofNat 64 pa) 0

theorem State.cancelEntry_canonical (l : Launch) (bid index : Nat) (x : Nat × SetEntry) :
    (s.cancelEntry l bid index x).Canonical := State.putTorn_canonical h _
end

/-- A chunk of an entry reads: it writes at most the bits of table entries. -/
theorem EntWork.chunk_canonical (e : SetEntry) (d : Desc) (index : Nat) {w : EntWork} (h : w.st.Canonical) (j : Nat) :
    (w.chunk e d index j).st.Canonical := by
  unfold EntWork.chunk
  split
  · exact h
  · extract_lets va spa k
    have hx := State.translate_canonical h none e.slice d.part d.asid va k 256
    generalize w.st.translate none e.slice d.part d.asid va k 256 = r at hx ⊢
    obtain ⟨s1, r⟩ := r
    cases r with
    | ok pa dev =>
      dsimp only
      split
      · split
        · exact hx
        · exact canonical_of_mem (State.activate_mem ..) hx
      · split <;> exact hx
    | fault reason =>
      dsimp only
      split <;> exact hx
    | refused =>
      dsimp only
      split <;> exact hx
    | violation b pa => exact hx
    | dead k => exact hx

section
variable {s : State} (h : s.Canonical)
include h

theorem State.entryWork_canonical (e : SetEntry) (d : Desc) (index : Nat) : (s.entryWork e d index).st.Canonical := by
  unfold State.entryWork
  split
  · exact h
  · exact h
  · have hw : ((List.range (e.len / 256)).foldl (EntWork.chunk e d index) ⟨s, [], none⟩).st.Canonical :=
      List.foldlRecOn (motive := fun w : EntWork => w.st.Canonical) _ _ h fun _ hw j _ => EntWork.chunk_canonical e d index hw j
    dsimp only
    split <;> exact hw

theorem State.startEntry_canonical (bid idx : Nat) : (s.startEntry bid idx).Canonical := by
  unfold State.startEntry
  split
  · exact h
  · split
    · exact h
    · split
      · exact h
      · dsimp only
        split
        · exact h
        · split
          · refine foldl_canonical (fun _ _ ht => State.cancelEntry_canonical ht ..) _ ?_
            exact h
          · split
            · exact State.isolateWalker_canonical (s := s.onLaunch _ _) h ..
            · exact State.freezeTier_canonical (s := s.onLaunch _ _) h ..
            · exact h

theorem execSetoutEntryStart_canonical (bid idx : Nat) : CanonicalOutcome (execSetoutEntryStart bid idx s) :=
  ite_canonical (fun _ => h) fun _ => State.startEntry_canonical h bid idx

theorem State.deadEntry_canonical {w : EntWork} (hw : w.st.Canonical) (l : Launch) (r : EntRun) (e : SetEntry) (k : Dead)
    (va : DWord) : (s.deadEntry w l r e k va).Canonical := by
  have ht : (w.st.putTorn w.units).Canonical := State.putTorn_canonical hw _
  unfold State.deadEntry
  dsimp only
  split
  · exact canonical_of_mem ((State.killWith_mem ..).trans rfl) ht
  · exact ite_canonical (fun _ => ht) fun _ => h

theorem State.runEntry_canonical (l : Launch) (r : EntRun) (e : SetEntry) : (s.runEntry l r e).Canonical := by
  have hw := State.entryWork_canonical h e l.d r.index
  unfold State.runEntry
  dsimp only
  split
  · exact State.putUnits_canonical hw _
  · exact State.isolateWalker_canonical hw ..
  · exact State.freezeTier_canonical hw ..
  · exact State.faultEntry_canonical (State.putTorn_canonical hw _) ..
  · exact State.deadEntry_canonical h hw ..
  · exact State.pageRequest_canonical hw ..

theorem execSetoutEntryComplete_canonical (bid idx : Nat) : CanonicalOutcome (execSetoutEntryComplete bid idx s) := by
  unfold execSetoutEntryComplete
  rw [canonicalOutcome_next]
  dsimp only
  split
  · exact h
  · split
    · exact ite_canonical (fun _ => State.runEntry_canonical h ..) fun _ => h
    · exact h

/-! ### Answers to page requests (R250) -/

theorem State.answerCopy_canonical (token : Nat) (fail : Bool) : (s.answerCopy token fail).Canonical := by
  unfold State.answerCopy
  split
  · exact h
  · refine foldl_canonical (fun t x ht => ?_) _ ?_
    · split
      · exact ht
      · split
        · refine foldl_canonical (fun u p hu => ?_) _ (State.beatPieces_canonical ht ..)
          split
          · exact State.movePiece_canonical hu ..
          all_goals exact hu
        · exact State.beat_canonical ht ..
    · exact h

theorem State.answerEntry_canonical (lid idx bid : Nat) (fail : Bool) : (s.answerEntry lid idx bid fail).Canonical := by
  unfold State.answerEntry
  split
  · exact h
  · split
    · split
      · split
        · exact State.faultEntry_canonical (State.putTorn_canonical (State.entryWork_canonical h ..) _) ..
        · exact h
      all_goals exact h
    · exact h

theorem State.answer_canonical (f token : Nat) (fail : Bool) : (s.answer f token fail).Canonical := by
  unfold State.answer
  split
  · exact h
  · dsimp only
    split
    · have hf := State.focus_canonical (s := { s with holders := s.holders.filter fun x => x.1 ≠ token }) h
      split
      · exact h
      · split
        · exact hf _
        · exact State.answerTeam_canonical (hf _) ..
    · exact h
    · have hf := State.focusBlock_canonical (s := { s with holders := s.holders.filter fun x => x.1 ≠ token }) h
      exact ite_canonical (fun _ => State.answerCopy_canonical (hf _) ..) fun _ => h
    · refine ite_canonical (fun _ => State.answerEntry_canonical ?_ ..) fun _ => h
      exact h
end

end Sys2Proof.Machine
end

section
/-! PROOFS. Predicted windows (R143 to R149), the choice of a team and the fetch (R29, R30, R95): memory stays in canonical
form. -/

namespace Sys2Proof.Machine

/-! ### Predicted windows -/

section
variable (s : State)

@[simp] theorem State.truncate_mem (w : Window) (k : Nat) : (s.truncate w k).mem = s.mem := by
  unfold State.truncate
  split <;> rfl

/-- The scratchpad accesses of a window are those of the block's scratchpad alone. -/
@[simp] theorem State.commitSpad_mem (xs : List WinSpad) : (s.commitSpad xs).mem = s.mem := by
  unfold State.commitSpad
  refine (foldl_mem _ (fun t mine => ?_) _ _).trans (foldl_mem _ (fun t (x : WinSpad) => State.stsLane_mem t x.lane x.off x.bytes) _ s)
  dsimp only
  split
  · rfl
  · refine foldl_fst_mem _ (fun a x => ?_) _ _
    split <;> rfl

@[simp] theorem State.dropItem_mem (x : WinItem) : (s.dropItem x).mem = s.mem := by
  unfold State.dropItem
  split
  · split <;> rfl
  · rfl
end

section
variable {s : State} (h : s.Canonical)
include h

theorem State.commitHeld_canonical (held : List (Nat × DWord × Nat)) (mem : List HeldAccess) (n : Nat) :
    (s.commitHeld held mem n).Canonical := by
  unfold State.commitHeld
  split
  · exact h
  · exact canonical_of_mem (State.parkHandler_mem ..) (State.hold_canonical h ..)

theorem State.commitInstr_canonical (w : Window) (k : Nat) (i : Instr) (mem : List HeldAccess) (lk : Look) :
    (s.commitInstr w k i mem lk).Canonical := by
  refine State.commitHeld_canonical (canonical_of_mem (State.lay_mem ..) (canonical_of_mem (State.commitSpad_mem ..) ?_)) ..
  refine foldl_canonical (fun t r ht => ?_) lk.ok ?_
  · split
    · exact canonical_of_mem (State.putHeld_mem ..) ht
    · exact ht
  · exact h

theorem State.commitItem_canonical (w : Window) (k : Nat) : (s.commitItem w k).1.Canonical := by
  unfold State.commitItem
  split
  · exact h
  · split
    · exact canonical_of_mem (State.dropItem_mem ..) h
    · extract_lets hits mem lk moved
      have hlk : lk.st.Canonical := by
        clear_value mem
        cases mem with
        | nil => exact h
        | cons a r => exact State.look_canonical h ..
      split
      · exact canonical_of_mem (State.truncate_mem ..) h
      · split
        · exact canonical_of_mem (State.killTrap_mem ..) (canonical_of_mem rfl h)
        · dsimp only
          split
          · exact hlk
          · split
            · refine canonical_of_mem (State.truncate_mem ..) (State.commitInstr_canonical ?_ ..)
              exact hlk
            · refine State.commitInstr_canonical ?_ ..
              exact hlk

theorem State.commitItems_canonical (w : Window) (ks : List Nat) : (s.commitItems w ks).1.Canonical := by
  induction ks generalizing s with
  | nil => exact h
  | cons k r ih =>
    have hc := State.commitItem_canonical h w k
    unfold State.commitItems
    split
    · next heq =>
      rw [heq] at hc
      exact ih hc
    · next heq =>
      rw [heq] at hc
      exact hc

theorem State.commitItems_canonical_of_eq {w : Window} {ks : List Nat} {t : State} {b : Bool} (he : s.commitItems w ks = (t, b)) :
    t.Canonical := by
  have hc := State.commitItems_canonical h w ks
  rw [he] at hc
  exact hc

theorem execMaskPredictionResolve_canonical (uid : Nat) : CanonicalOutcome (execMaskPredictionResolve uid s) := by
  have hf := State.focus_canonical h uid
  unfold execMaskPredictionResolve
  rw [canonicalOutcome_next]
  extract_lets s0
  split
  · exact hf
  · refine ite_canonical (fun _ => hf) fun _ => ?_
    extract_lets
    refine ite_canonical (fun _ => hf) fun _ => ?_
    refine ite_canonical (fun _ => ?_) fun _ => hf
    split
    · next s2 heq =>
      refine State.commitItems_canonical_of_eq (t := s2) ?_ heq
      exact hf
    · next s2 heq =>
      refine State.commitItems_canonical_of_eq (t := s2) ?_ heq
      exact hf

theorem State.redone_canonical (w : Window) (r : Redo) (k : Nat) (rest : List Nat) : (s.redone w r k rest).Canonical := by
  have hc := State.commitItem_canonical h w k
  unfold State.redone
  split
  · exact canonical_of_mem (State.truncate_mem ..) h
  · generalize s.commitItem w k = x at hc ⊢
    obtain ⟨s1, b⟩ := x
    cases b with
    | false => exact hc
    | true =>
      have hi := State.commitItems_canonical hc w rest
      dsimp only
      split
      · generalize s1.commitItems w rest = y at hi ⊢
        obtain ⟨s2, b⟩ := y
        cases b <;> exact hi
      · exact hc

/-! ### Fetch, headers, and the choice of a team -/

theorem State.fetchNext_canonical : s.fetchNext.1.Canonical := by
  unfold State.fetchNext
  have h1 := State.fetch_canonical h s.cur.at_.pc
  dsimp only
  generalize s.fetch s.cur.at_.pc = x at h1 ⊢
  obtain ⟨s1, r⟩ := x
  cases r with
  | error r => exact h1
  | ok w0 =>
    dsimp only
    split
    · exact h1
    · split
      · have h2 := State.fetch_canonical h1 (s.cur.at_.pc + 4)
        generalize s1.fetch (s.cur.at_.pc + 4) = y at h2 ⊢
        obtain ⟨s2, r⟩ := y
        cases r with
        | error r => exact h2
        | ok w1 =>
          dsimp only
          split <;> exact h2
      · split <;> exact h1
end

section
variable (s : State)

@[simp] theorem State.trapWord_mem (cause : Nat) (datum : Word) (len : Nat) : (s.trapWord cause datum len).mem = s.mem := by
  unfold State.trapWord
  dsimp only
  split
  · rfl
  · split
    · simp
    · split <;> simp

@[simp] theorem State.illegal_mem (w : Word) (long : Bool) : (s.illegal w long).mem = s.mem :=
  (State.trapWord_mem ..).trans (State.settle_mem s)

@[simp] theorem State.chooseTeam_mem (core quad : Nat) (t : Team) : (s.chooseTeam core quad t).mem = s.mem :=
  (State.focus_mem ..).trans (State.onQuad_mem ..)

@[simp] theorem State.pick_mem (core quad : Nat) (force : Bool) : (s.pick core quad force).mem = s.mem := by
  unfold State.pick
  dsimp only
  split
  · simp
  · split <;> simp
  · simp
  · rfl

@[simp] theorem State.tick_mem : s.tick.mem = s.mem := rfl
end

section
variable {s : State} (h : s.Canonical)
include h

theorem execClauseHeader_canonical (w : Word) : CanonicalOutcome (execClauseHeader w s) := by
  refine canonical_of_mem (s := s.settle) ?_ h
  dsimp only
  split
  · exact State.trapWord_mem ..
  · split
    · exact State.trapWord_mem ..
    · split
      · split
        · split <;> rfl
        · rfl
      · rfl

theorem execIssueCycle_canonical (core quad : Nat) : CanonicalOutcome (execIssueCycle core quad s) :=
  canonical_of_mem (ite_mem (State.pick_mem ..) rfl) h

theorem execGreedyLimit_canonical (core quad : Nat) : CanonicalOutcome (execGreedyLimit core quad s) :=
  canonical_of_mem (ite_mem (State.pick_mem ..) rfl) h

theorem execStarvationOverride_canonical (core quad : Nat) : CanonicalOutcome (execStarvationOverride core quad s) :=
  canonical_of_mem (ite_mem (State.pick_mem ..) rfl) h
end

end Sys2Proof.Machine
end

section
/-! PROOFS. Command queues, launches and completion records (R64 to R76, R84): memory stays in canonical form. The queue's block in the
host's memory is what most of them write. -/

namespace Sys2Proof.Machine

/-! ### The block of a queue and its completion records -/

section
variable {s : State} (h : s.Canonical) (f q : Nat)
include h

theorem State.qcbPut_canonical (off n x : Nat) : (s.qcbPut f q off n x).Canonical :=
  ite_canonical (fun _ => State.store_canonical h ..) fun _ => h

theorem State.setQState_canonical (st : QState) : (s.setQState f q st).Canonical :=
  State.qcbPut_canonical (canonical_of_mem (State.onQueue_mem ..) h) ..

theorem State.setLastFault_canonical (code : Nat) : (s.setLastFault f q code).Canonical :=
  State.qcbPut_canonical (canonical_of_mem (State.onQueue_mem ..) h) ..

theorem State.putInflight_canonical : (s.putInflight f q).Canonical := State.qcbPut_canonical h ..

theorem State.faultQueue_canonical : (s.faultQueue f q).Canonical :=
  State.setLastFault_canonical (State.setQState_canonical h ..) ..

theorem State.noteIdle_canonical : (s.noteIdle f q).Canonical := canonical_of_mem (State.onQueue_mem ..) h

theorem State.completionIrq_canonical : (s.completionIrq f q).Canonical := by
  have hq : (s.onQueue f q fun x => { x with pending := 0 }).Canonical := canonical_of_mem (State.onQueue_mem ..) h
  exact ite_canonical (fun _ => canonical_of_mem (State.raiseIrq_mem ..) hq) fun _ => hq

theorem State.queueXlate_canonical (va : DWord) (k : AccKind) (n : Nat) : (s.queueXlate f q va k n).1.Canonical :=
  State.translate_canonical h ..

theorem State.writeRecord_canonical (tag : Word) (status kind fault : Nat) (blocks : Word) :
    (s.writeRecord f q tag status kind fault blocks).Canonical := by
  unfold State.writeRecord
  extract_lets x slot bs
  have hx := State.queueXlate_canonical h f q (x.half.cmplbase + BitVec.ofNat 64 (slot * 32)) .store 32
  split
  next s1 r heq =>
  rw [heq] at hx
  extract_lets s2 s3 s4
  have h2 : s2.Canonical := by
    cases r with
    | ok pa c => exact ite_canonical (fun _ => State.writeAt_canonical hx ..) fun _ => hx
    | _ => exact hx
  have h3 : s3.Canonical := canonical_of_mem (State.onQueue_mem ..) h2
  have h4 : s4.Canonical := State.qcbPut_canonical h3 ..
  exact ite_canonical (fun _ => State.completionIrq_canonical h4 ..) fun _ => h4

theorem State.complete_canonical (tag : Word) (status kind fault : Nat) (blocks : Word) :
    (s.complete f q tag status kind fault blocks).Canonical :=
  State.noteIdle_canonical
    (ite_canonical (fun _ => canonical_of_mem (State.onQueue_mem ..) h) fun _ => State.writeRecord_canonical h ..) ..

theorem State.payOwed_canonical (rs : List (Word × Nat × Nat × Nat × Word)) : (s.payOwed f q rs).Canonical := by
  induction rs generalizing s with
  | nil => exact canonical_of_mem (State.onQueue_mem ..) h
  | cons r rest ih =>
    have h0 : (s.onQueue f q fun x => { x with owed := [] }).Canonical := canonical_of_mem (State.onQueue_mem ..) h
    exact ite_canonical (fun _ => canonical_of_mem (State.onQueue_mem ..) h0) fun _ => ih (State.writeRecord_canonical h0 ..)

theorem State.cancelRecords_canonical (ls : List Launch) : (s.cancelRecords f q ls).Canonical := by
  induction ls generalizing s with
  | nil => exact h
  | cons l r ih =>
    exact ite_canonical (fun _ => State.setLastFault_canonical h ..) fun _ => ih (State.writeRecord_canonical h ..)

end

/-! ### The registers of a queue -/

section
variable {s : State} (h : s.Canonical) (f q : Nat)
include h

theorem execCoalescingTimer_canonical : CanonicalOutcome (execCoalescingTimer f q s) :=
  ite_canonical (fun _ => State.completionIrq_canonical h ..) fun _ => h

theorem execIdleFlush_canonical : CanonicalOutcome (execIdleFlush f q s) := by
  unfold execIdleFlush
  rw [canonicalOutcome_next]
  dsimp only
  split
  · exact ite_canonical (fun _ => State.completionIrq_canonical h ..) fun _ => h
  · exact h

theorem execQtailWrite_canonical (v : Word) : CanonicalOutcome (execQtailWrite f q v s) := by
  have h1 : ((s.onQueue f q fun x => { x with tail := v }).qcbPut f q 0x84 4 v.toNat).Canonical :=
    State.qcbPut_canonical (canonical_of_mem (State.onQueue_mem ..) h) ..
  exact State.noteIdle_canonical (ite_canonical (fun _ => State.faultQueue_canonical h1 ..) fun _ => h1) ..

theorem execQcheadWrite_canonical (v : Word) : CanonicalOutcome (execQcheadWrite f q v s) := by
  have h1 : ((s.onQueue f q fun x => { x with chead := v }).qcbPut f q 0x8C 4 v.toNat).Canonical :=
    State.qcbPut_canonical (canonical_of_mem (State.onQueue_mem ..) h) ..
  exact ite_canonical (fun _ => h) fun _ => State.noteIdle_canonical (State.payOwed_canonical h1 ..) ..

/-- A queue that takes a half of its block and goes active, or is refused (R64, R67). -/
theorem enableQueue_canonical (half : QcbHalf) (bad : Bool) :
    (let s1 := s.onQueue f q fun x => { x with half := half, stopped := false, frozen := false, silent := false }
     if bad then s1.faultQueue f q
     else
       let s2 := s1.setQState f q .active
       (if (s2.queue f q).tailBad then s2.faultQueue f q else s2).noteIdle f q).Canonical := by
  have h1 : (s.onQueue f q fun x => { x with half := half, stopped := false, frozen := false, silent := false }).Canonical :=
    canonical_of_mem (State.onQueue_mem ..) h
  have h2 := State.setQState_canonical h1 f q .active
  exact ite_canonical (fun _ => State.faultQueue_canonical h1 ..) fun _ =>
    State.noteIdle_canonical (ite_canonical (fun _ => State.faultQueue_canonical h2 ..) fun _ => h2) ..

theorem execQctlEnable_canonical : CanonicalOutcome (execQctlEnable f q s) := by
  unfold execQctlEnable
  rw [canonicalOutcome_next]
  refine ite_canonical (fun _ => h) fun _ => ?_
  generalize (s.queue f q).st = st
  cases st with
  | active => exact State.noteIdle_canonical (canonical_of_mem (State.onQueue_mem ..) h) ..
  | resetting | faulted => exact h
  | idle | reset => exact enableQueue_canonical h ..

theorem execQctlStop_canonical : CanonicalOutcome (execQctlStop f q s) :=
  State.noteIdle_canonical (canonical_of_mem (State.onQueue_mem ..) h) ..

end

/-! ### Commands -/

section
variable {s : State} (h : s.Canonical) (f q : Nat)
include h

theorem State.queueRead_canonical (va : DWord) (n : Nat) : (s.queueRead f q va n).1.Canonical := by
  refine foldl_fst_canonical ?_ _ ?_
  · rintro ⟨t, r⟩ j ht
    cases r with
    | error c => exact ht
    | ok bs =>
      have hx := State.queueXlate_canonical ht f q (va + BitVec.ofNat 64 (16 * j - va.toNat % 16)) .load 4
      dsimp only
      generalize t.queueXlate f q (va + BitVec.ofNat 64 (16 * j - va.toNat % 16)) .load 4 = y at hx ⊢
      obtain ⟨s1, r⟩ := y
      cases r with
      | ok pa c =>
        dsimp only
        split
        · exact hx
        · exact canonical_of_mem (State.touch_mem ..) hx
      | _ => exact hx
  · exact h

theorem State.queueRead_canonical_of_eq {va : DWord} {n : Nat} {t : State} {r : Except Nat (List Byte)}
    (he : s.queueRead f q va n = (t, r)) : t.Canonical := by
  have hr := State.queueRead_canonical h f q va n
  rw [he] at hr
  exact hr

theorem State.nextCommand_canonical : (s.nextCommand f q).1.Canonical := by
  unfold State.nextCommand
  dsimp only
  split
  · next heq => exact State.queueRead_canonical_of_eq h f q heq
  · next heq => exact State.queueRead_canonical_of_eq h f q heq

theorem State.advanceHead_canonical : (s.advanceHead f q).Canonical :=
  State.qcbPut_canonical (canonical_of_mem (State.onQueue_mem ..) h) ..

theorem State.takeCommand_canonical (mine : Nat → Bool) (unreadable : Bool) {act : State → Command → State}
    (ha : ∀ t c, t.Canonical → (act t c).Canonical) : (s.takeCommand f q mine unreadable act).Canonical := by
  have hn := State.nextCommand_canonical h f q
  unfold State.takeCommand
  refine ite_canonical (fun _ => h) fun _ => ?_
  generalize s.nextCommand f q = y at hn ⊢
  obtain ⟨s1, r⟩ := y
  have hh := State.advanceHead_canonical hn f q
  cases r with
  | error code => exact ite_canonical (fun _ => State.complete_canonical hh ..) fun _ => h
  | ok c =>
    refine ite_canonical (fun _ => h) fun _ => ?_
    exact ite_canonical (fun _ => h) fun _ => ite_canonical (fun _ => State.complete_canonical hh ..) fun _ => ha _ _ hh

theorem State.commandDone_canonical (c : Command) : (s.commandDone f q c).Canonical :=
  ite_canonical (fun _ => State.complete_canonical h ..) fun _ => State.noteIdle_canonical h ..

theorem execCmdNop_canonical : CanonicalOutcome (execCmdNop f q s) :=
  State.takeCommand_canonical h f q _ _ fun _ c ht => State.commandDone_canonical ht f q c

theorem execCmdWait_canonical : CanonicalOutcome (execCmdWait f q s) :=
  State.takeCommand_canonical h f q _ _ fun _ c ht => State.commandDone_canonical ht f q c

theorem execCmdSignal_canonical : CanonicalOutcome (execCmdSignal f q s) := by
  refine State.takeCommand_canonical h f q _ _ fun t c ht => ?_
  have hx := State.queueXlate_canonical ht f q c.addr .store 8
  generalize t.queueXlate f q c.addr .store 8 = y at hx ⊢
  obtain ⟨s1, r⟩ := y
  cases r with
  | ok pa k =>
    refine ite_canonical (fun _ => State.complete_canonical hx ..) fun _ => State.commandDone_canonical ?_ ..
    exact ite_canonical (fun _ => State.writeAt_canonical hx ..) fun _ => hx
  | violation c pa =>
    exact canonical_of_mem (State.onQueue_mem ..) (State.complete_canonical (State.isolate_canonical hx ..) ..)
  | _ => exact State.complete_canonical hx ..

end

/-! ### Launches, and a queue's reset -/

section
variable {s : State} (h : s.Canonical)
include h

theorem execCmdLaunch_canonical (f q : Nat) : CanonicalOutcome (execCmdLaunch f q s) := by
  refine State.takeCommand_canonical h f q _ _ fun t c ht => ?_
  dsimp only
  split
  · next heq => exact State.complete_canonical (State.queueRead_canonical_of_eq ht f q heq) ..
  · next heq =>
    have h1 := State.queueRead_canonical_of_eq ht f q heq
    split
    · next heq => exact State.complete_canonical (State.queueRead_canonical_of_eq h1 f q heq) ..
    · next heq =>
      have h2 := State.queueRead_canonical_of_eq h1 f q heq
      split
      · next heq => exact State.complete_canonical (State.queueRead_canonical_of_eq h2 f q heq) ..
      · next heq =>
        have h3 := State.queueRead_canonical_of_eq h2 f q heq
        split
        · refine State.noteIdle_canonical (State.putInflight_canonical ?_ ..) ..
          exact h3
        · exact State.complete_canonical h3 ..

theorem execLaunchComplete_canonical (lid : Nat) : CanonicalOutcome (execLaunchComplete lid s) := by
  unfold execLaunchComplete
  rw [canonicalOutcome_next]
  split
  · exact h
  · refine ite_canonical (fun _ => h) fun _ => ?_
    extract_lets bad code s1 s2 s3
    have h2 : s2.Canonical := by
      refine State.putInflight_canonical ?_ ..
      exact h
    have h3 : s3.Canonical := ite_canonical (fun _ => State.setLastFault_canonical h2 ..) fun _ => h2
    exact ite_canonical (fun _ => State.complete_canonical h3 ..) fun _ => State.noteIdle_canonical h3 ..

theorem State.abandonEntries_canonical (l : Launch) : (s.abandonEntries l).Canonical := by
  refine foldl_canonical ?_ _ h
  intro t r ht
  split
  · exact State.cancelEntry_canonical ht ..
  · exact State.cancelEntry_canonical ht ..
  · exact ht

theorem State.resetQueue_canonical (f q : Nat) : (s.resetQueue f q).Canonical := by
  refine ite_canonical (fun _ => h) fun _ => ?_
  exact foldl_canonical (fun _ l ht => State.abandonEntries_canonical ht l) _ (State.setQState_canonical h ..)

theorem execQctlReset_canonical (f q : Nat) : CanonicalOutcome (execQctlReset f q s) := State.resetQueue_canonical h f q

theorem execQueueResetComplete_canonical (f q : Nat) : CanonicalOutcome (execQueueResetComplete f q s) := by
  refine ite_canonical (fun _ => h) fun _ => ?_
  have h1 := State.cancelRecords_canonical (State.payOwed_canonical h f q (s.queue f q).owed) f q
    (s.launches.filter fun l => decide (l.f = f ∧ l.q = q))
  refine State.noteIdle_canonical (State.completionIrq_canonical (State.setQState_canonical
    (State.putInflight_canonical (State.qcbPut_canonical ?_ ..) ..) ..) ..) ..
  exact h1

end
end Sys2Proof.Machine
end

section
/-! PROOFS. Dealing, placing, ending and stealing blocks (R77 to R88): memory stays in canonical form. -/

namespace Sys2Proof.Machine

/-! ### Blocks placed and dropped -/

section
variable (s : State)

@[simp] theorem State.movePtrs_mem (tenant : Nat) (x : Placing) : (s.movePtrs tenant x).mem = s.mem := by
  unfold State.movePtrs
  split <;> rfl

@[simp] theorem State.startBlock_mem (d : Desc) (args : List Word) (lid index : Nat) (x : Placing) :
    (s.startBlock d args lid index x).mem = s.mem :=
  (State.pushStarts_mem ..).trans (State.movePtrs_mem ..)

@[simp] theorem State.leafTake_mem (pier : Nat) : (s.leafTake pier).mem = s.mem := rfl
@[simp] theorem State.dropBlock_mem (bid : Nat) : (s.dropBlock bid).mem = s.mem := rfl
@[simp] theorem State.report_mem (core : Nat) (r : Report) : (s.report core r).mem = s.mem := rfl
@[simp] theorem State.requeue_mem (b : Block) (head : Bool) : (s.requeue b head).mem = s.mem := rfl
@[simp] theorem State.takeReports_mem (pier : Nat) (p : Report → Bool) : (s.takeReports pier p).mem = s.mem := rfl

@[simp] theorem State.charge_mem (b : Block) : (s.charge b).mem = s.mem := ite_mem rfl rfl

theorem State.placeGrid_mem (l : Launch) (bs : List Nat) {t : State} (ht : s.placeGrid l bs = some t) : t.mem = s.mem := by
  induction bs generalizing s with
  | nil =>
    cases ht
    rfl
  | cons b r ih =>
    unfold State.placeGrid at ht
    split at ht
    · exact (ih _ ht).trans (State.startBlock_mem ..)
    · cases ht

end

section
variable {s : State} (h : s.Canonical)
include h

theorem State.cancelEntries_canonical (b : Block) : (s.cancelEntries b).Canonical := by
  unfold State.cancelEntries
  split
  · exact h
  · refine foldl_canonical ?_ _ h
    intro t r ht
    refine ite_canonical (fun _ => ht) fun _ => ?_
    split
    · exact State.cancelEntry_canonical ht ..
    · exact State.cancelEntry_canonical ht ..
    · exact ht

end

/-! ### The dispatcher's and the leaves' steps -/

section
variable {s : State} (h : s.Canonical)
include h

theorem execDispatch_canonical (part : Nat) : CanonicalOutcome (execDispatch part s) := by
  unfold execDispatch
  rw [canonicalOutcome_next]
  dsimp only
  split
  · exact h
  · refine ite_canonical (fun _ => h) fun _ => ite_canonical (fun _ => ?_) fun _ => ite_canonical (fun _ => h) fun _ => h
    split
    · next t heq => exact canonical_of_mem (s := s) (State.placeGrid_mem s _ _ (t := t) heq) h
    · exact h

theorem execBlockPlace_canonical (pier part : Nat) : CanonicalOutcome (execBlockPlace pier part s) := by
  have h0 : (s.leafTake pier).Canonical := h
  unfold execBlockPlace
  rw [canonicalOutcome_next]
  generalize s.leafTake pier = t at h0 ⊢
  dsimp only
  split
  · exact h0
  · refine ite_canonical (fun _ => h0) fun _ => ?_
    split
    · exact h0
    · split
      · exact h0
      · exact canonical_of_mem (State.startBlock_mem ..) h0

theorem execHandlerSpawn_canonical (core : Nat) : CanonicalOutcome (execHandlerSpawn core s) := by
  unfold execHandlerSpawn
  rw [canonicalOutcome_next]
  dsimp only
  split
  · split
    · exact ite_canonical (fun _ => h) fun _ => h
    · exact h
  · exact h

theorem execBlockEnd_canonical (bid : Nat) : CanonicalOutcome (execBlockEnd bid s) := by
  have hc (b : Block) : (((s.charge b).dropBlock bid).report b.home (.done b.lid)).Canonical :=
    canonical_of_mem (State.charge_mem ..) h
  unfold execBlockEnd
  rw [canonicalOutcome_next]
  split
  · exact h
  · next b _ =>
    extract_lets ts
    split
    · next k _ =>
      refine ite_canonical (fun _ => h) fun _ => ?_
      have h1 : (if k.report then s.postBlockFault b k else s).Canonical :=
        ite_canonical (fun _ => State.postBlockFault_canonical h b k) fun _ => h
      exact ite_canonical (fun _ => h1) fun _ => canonical_of_mem (State.charge_mem ..) h1
    · refine ite_canonical (fun _ => ite_canonical (fun _ => State.cancelEntries_canonical h b) fun _ => h) fun _ => ?_
      exact ite_canonical (fun _ => ite_canonical (fun _ => h) fun _ => hc b) fun _ => h

theorem execDone_canonical (pier lid : Nat) : CanonicalOutcome (execDone pier lid s) :=
  ite_canonical (fun _ => h) fun _ => h

theorem execKilled_canonical (bid : Nat) : CanonicalOutcome (execKilled bid s) := by
  unfold execKilled
  rw [canonicalOutcome_next]
  dsimp only
  split
  · exact h
  · exact ite_canonical (fun _ => h) fun _ => h

theorem execStealRequest_canonical (pier part : Nat) : CanonicalOutcome (execStealRequest pier part s) :=
  ite_canonical (fun _ => h) fun _ => ite_canonical (fun _ => h) fun _ => h

theorem execStealAnswer_canonical (pier part : Nat) : CanonicalOutcome (execStealAnswer pier part s) := by
  unfold execStealAnswer
  rw [canonicalOutcome_next]
  dsimp only
  split
  · exact h
  · split
    · exact h
    · exact h

theorem execStealBackoffEnd_canonical (pier part : Nat) : CanonicalOutcome (execStealBackoffEnd pier part s) := h

theorem execCancel_canonical (pier lid : Nat) : CanonicalOutcome (execCancel pier lid s) := by
  unfold execCancel
  rw [canonicalOutcome_next]
  dsimp only
  split
  · exact h
  · refine ite_canonical (fun _ => h) fun _ => ?_
    refine canonical_of_mem (foldl_mem (fun t (b : Block) => t.killWith b.bid ⟨0, 0, 0, 0, 0, 0, false⟩) ?_ _ (s.leafTake pier)) h
    exact fun t b => State.killWith_mem ..

end
end Sys2Proof.Machine
end

section
/-! PROOFS. Time slices, blocks that leave and blocks restored (R221 to R230): memory stays in canonical form. -/

namespace Sys2Proof.Machine

/-! ### Slices -/

section
variable (s : State)

@[simp] theorem State.leave_mem (bid : Nat) (how : Leaving) : (s.leave bid how).mem = s.mem := ite_mem rfl rfl

@[simp] theorem State.giveSlice_mem (part tenant : Nat) : (s.giveSlice part tenant).mem = s.mem := rfl

@[simp] theorem State.holdSave_mem (b : Block) : (s.holdSave b).mem = s.mem := by
  unfold State.holdSave
  extract_lets drop
  exact ite_mem (foldl_mem drop (fun _ _ => rfl) _ s) rfl

end

section
variable {s : State} (h : s.Canonical)
include h

theorem State.evict_canonical (bid budget : Nat) : (s.evict bid budget).Canonical := by
  unfold State.evict
  split
  · exact h
  · refine ite_canonical (fun _ => h) fun _ => ite_canonical (fun _ => ?_) fun _ => ite_canonical (fun _ => ?_) fun _ => ?_
    · refine ite_canonical (fun _ => ?_) fun _ => ?_
      · exact foldl_canonical (fun _ _ ht => canonical_of_mem (State.leave_mem ..) ht) _ h
      · refine canonical_of_mem rfl (foldl_canonical (f := fun t (x : Block) => (t.cancelEntries x).dropBlock x.bid) ?_ _ h)
        exact fun _ _ ht => canonical_of_mem (State.dropBlock_mem ..) (State.cancelEntries_canonical ht _)
    · exact canonical_of_mem ((State.requeue_mem ..).trans (State.dropBlock_mem ..)) (State.cancelEntries_canonical h _)
    · exact canonical_of_mem (State.leave_mem ..) h

theorem State.evictAll_canonical (bs : List Block) (budget : Nat) : (s.evictAll bs budget).Canonical :=
  foldl_canonical (fun _ _ ht => State.evict_canonical ht ..) _ h

theorem State.passSlice_canonical (part holder : Nat) (urgent : Option Nat) : (s.passSlice part holder urgent).Canonical := by
  unfold State.passSlice
  extract_lets p next mine s1 s2
  have h1 : s1.Canonical := State.evictAll_canonical h ..
  have h2 : s2.Canonical := canonical_of_mem rfl h1
  refine ite_canonical (fun _ => h) fun _ => ?_
  clear_value s2 next
  cases next with
  | none => exact canonical_of_mem rfl h2
  | some t => exact canonical_of_mem (State.giveSlice_mem ..) h2

theorem execSliceEnd_canonical (part : Nat) : CanonicalOutcome (execSliceEnd part s) := by
  refine ite_canonical (fun _ => h) fun _ => ?_
  split
  · split
    · exact canonical_of_mem (State.giveSlice_mem ..) h
    · exact h
  · exact ite_canonical (fun _ => State.passSlice_canonical h ..) fun _ => h

theorem execEnergyLimit_canonical (part : Nat) : CanonicalOutcome (execEnergyLimit part s) := by
  unfold execEnergyLimit
  rw [canonicalOutcome_next]
  dsimp only
  split
  · exact h
  · split
    · exact h
    · exact ite_canonical (fun _ => State.passSlice_canonical h ..) fun _ => h

theorem execLowestClassRestore_canonical (part : Nat) : CanonicalOutcome (execLowestClassRestore part s) := by
  unfold execLowestClassRestore
  rw [canonicalOutcome_next]
  split
  · exact ite_canonical (fun _ => h) fun _ => h
  · exact h

theorem execPreempt_canonical (core : Nat) (why : PreemptReason) : CanonicalOutcome (execPreempt core why s) := by
  refine ite_canonical (fun _ => h) fun _ => ?_
  cases why with
  | class0 =>
    dsimp only
    split
    · exact h
    · exact State.evictAll_canonical h ..
  | lowest =>
    dsimp only
    split
    · exact h
    · exact ite_canonical (fun _ => h) fun _ => State.evictAll_canonical h ..
  | slice => exact State.evictAll_canonical h ..

end

/-! ### Contexts saved, and blocks that wait for their place -/

section
variable {s : State} (h : s.Canonical)
include h

theorem State.writeContext_canonical (part : Nat) : (s.writeContext part).Canonical := memCells_wf _ _ h

theorem State.saveBlock_canonical (b : Block) : (s.saveBlock b).Canonical := by
  refine canonical_of_mem ?_ (State.writeContext_canonical h b.d.part)
  exact State.charge_mem ..

theorem execBlockSave_canonical (bid : Nat) : CanonicalOutcome (execBlockSave bid s) := by
  have hl (t : State) (ht : t.Canonical) (b : Block) (how : Leaving) : ((t.charge b).leave b.bid how).Canonical :=
    canonical_of_mem ((State.leave_mem ..).trans (State.charge_mem ..)) ht
  unfold execBlockSave
  rw [canonicalOutcome_next]
  split
  · exact h
  · split
    · refine ite_canonical (fun _ => h) fun _ => ite_canonical (fun _ => ?_) fun _ => ?_
      · exact foldl_canonical (fun t b ht => hl t ht b .save) _ h
      · exact canonical_of_mem ((State.leave_mem ..).trans (State.charge_mem ..)) h
    · refine ite_canonical (fun _ => canonical_of_mem (State.holdSave_mem ..) h) fun _ => ite_canonical (fun _ => h) fun _ => ?_
      split
      · exact h
      · exact ite_canonical (fun _ => State.saveBlock_canonical h _) fun _ => h
    · exact h

theorem execSaved_canonical (bid : Nat) : CanonicalOutcome (execSaved bid s) := by
  unfold execSaved
  rw [canonicalOutcome_next]
  split
  · exact h
  · exact ite_canonical (fun _ => h) fun _ => h

theorem execRestore_canonical (bid pier : Nat) : CanonicalOutcome (execRestore bid pier s) := by
  unfold execRestore
  rw [canonicalOutcome_next]
  split
  · exact h
  · exact ite_canonical (fun _ => h) fun _ => h

theorem execWatchdog_canonical (bid : Nat) : CanonicalOutcome (execWatchdog bid s) := by
  unfold execWatchdog
  rw [canonicalOutcome_next]
  split
  · exact h
  · exact ite_canonical (fun _ => canonical_of_mem (State.killWith_mem ..) h) fun _ => h

end

/-! ### Saved blocks seated again -/

section
variable {s : State} (h : s.Canonical)
include h

theorem State.moveSpots_canonical (xs : List Spot) : (s.moveSpots xs).1.Canonical := by
  induction xs generalizing s with
  | nil => exact h
  | cons x r ih =>
    have hx := State.xlate_canonical h x.va .store x.n
    unfold State.moveSpots
    generalize s.xlate x.va .store x.n = y at hx ⊢
    obtain ⟨s1, y⟩ := y
    cases y with
    | ok pa dev =>
      have hr := ih hx
      dsimp only
      generalize s1.moveSpots r = z at hr ⊢
      obtain ⟨s2, z⟩ := z
      cases z <;> exact hr
    | _ => exact hx

theorem State.freshen_canonical (e : StoreEntry) : (s.freshen e).1.Canonical := by
  have hm := State.moveSpots_canonical h e.spots
  unfold State.freshen
  split
  · exact h
  · generalize s.moveSpots e.spots = z at hm ⊢
    obtain ⟨s1, z⟩ := z
    cases z <;> exact hm

theorem State.refill_canonical (es done : List StoreEntry) : (s.refill es done).Canonical := by
  induction es generalizing s done with
  | nil => exact h
  | cons e r ih =>
    have hf := State.freshen_canonical h e
    unfold State.refill
    split
    · next heq =>
      rw [heq] at hf
      exact ih hf _
    · next heq =>
      rw [heq] at hf
      exact State.isolateWalker_canonical hf ..
    · next heq =>
      rw [heq] at hf
      exact State.isolateTeam_canonical hf
    · next heq =>
      rw [heq] at hf
      exact canonical_of_mem (State.killDead_mem ..) hf
    · next heq =>
      rw [heq] at hf
      exact canonical_of_mem (State.killWith_mem ..) hf

theorem State.resume_canonical : s.resume.Canonical := by
  have h1 := State.refill_canonical h s.cur.stores []
  unfold State.resume
  extract_lets s1 mine src s2
  have h2 : s2.Canonical := by
    refine State.replayAll_canonical ?_ _
    exact h1
  exact ite_canonical (fun _ => h1) fun _ => h2

theorem State.seatSaved_canonical (b : SavedBlock) (x : Placing) : (s.seatSaved b x).Canonical := by
  unfold State.seatSaved
  extract_lets s0 seated ts src k s1 cores s2 s3 s4
  have h1 : s1.Canonical := canonical_of_mem ((State.movePtrs_mem ..).trans rfl) h
  have h2 : s2.Canonical := canonical_of_mem (foldl_mem _ (fun t c => State.onCore_mem t c _) cores s1) h1
  have h3 : s3.Canonical := canonical_of_mem (foldl_mem _ (fun t (u : Team) => State.onQuad_mem t u.core u.quad _) ts s2) h2
  have h4 : s4.Canonical := foldl_canonical (fun _ t ht => State.resume_canonical (State.focus_canonical ht t.uid)) _ h3
  refine canonical_of_mem (foldl_mem _ ?_ cores s4) h4
  exact fun t c => State.onCore_mem t c _

theorem State.placeSaved_canonical (piers : List Nat) (bs : List SavedBlock) {t : State} (ht : s.placeSaved piers bs = some t) :
    t.Canonical := by
  induction bs generalizing s with
  | nil =>
    cases ht
    exact h
  | cons b r ih =>
    unfold State.placeSaved at ht
    dsimp only at ht
    split at ht
    · refine ih (State.seatSaved_canonical ?_ _ _) ht
      exact h
    · cases ht

theorem State.placeSaved_getD_canonical (piers : List Nat) (bs : List SavedBlock) : ((s.placeSaved piers bs).getD s).Canonical := by
  cases hp : s.placeSaved piers bs with
  | none => exact h
  | some t => exact State.placeSaved_canonical h piers bs hp

theorem execBlockRestore_canonical (pier part : Nat) : CanonicalOutcome (execBlockRestore pier part s) := by
  have h0 : (s.leafTake pier).Canonical := h
  unfold execBlockRestore
  rw [canonicalOutcome_next]
  generalize s.leafTake pier = t at h0 ⊢
  dsimp only
  split
  · exact h0
  · refine ite_canonical (fun _ => h0) fun _ => ite_canonical (fun _ => ?_) fun _ => State.placeSaved_getD_canonical h0 ..
    exact ite_canonical (fun _ => State.placeSaved_getD_canonical h0 ..) fun _ => h0

end
end Sys2Proof.Machine
end

section
/-! PROOFS. The commit of a D-mode grid (R268 to R273): memory stays in canonical form. -/

namespace Sys2Proof.Machine

/-! ### Held accesses performed -/

section
variable {s : State} (h : s.Canonical)
include h

theorem State.performHeld_canonical (d : DHeld) : (s.performHeld d).Canonical := by
  cases d with
  | store w => exact State.writeAt_canonical h ..
  | sts _ _ o bs => exact canonical_of_mem (State.spadPut_mem ..) h
  | atom _ _ l op d va pa b c =>
    have hr n : (s.readAt pa n).1.Canonical := canonical_of_mem (State.readAt_mem ..) h
    cases op with
    | atom op w64 =>
      refine ite_canonical (fun _ => canonical_of_mem (State.killData_mem ..) h) fun _ => State.writeAt_canonical ?_ _ _
      exact hr _
    | cas w64 =>
      refine ite_canonical (fun _ => canonical_of_mem (State.killData_mem ..) h) fun _ => ?_
      dsimp only
      split
      · refine State.writeAt_canonical ?_ _ _
        exact hr _
      · exact hr _
    | load _ => exact ite_canonical (fun _ => canonical_of_mem (State.killData_mem ..) h) fun _ => hr _
    | tile _ _ => exact ite_canonical (fun _ => canonical_of_mem (State.killData_mem ..) h) fun _ => hr _
  | atoms _ _ l op w64 d o b c =>
    refine ite_canonical (fun _ => canonical_of_mem (State.killWord_mem ..) h) fun _ => ?_
    exact canonical_of_mem (State.spadPut_mem ..) h

theorem State.performAll_canonical : s.performAll.Canonical := by
  refine canonical_of_mem (s := s.cur.dheld.foldl (fun t d => if t.blk.kill.isSome then t else t.performHeld d) s) rfl ?_
  exact foldl_canonical (fun _ _ ht => ite_canonical (fun _ => ht) fun _ => State.performHeld_canonical ht _) _ h

end

/-! ### Instructions committed -/

@[simp] theorem commitBody_mem (i : Instr) (s : State) : (commitBody i s).mem = s.mem := by
  unfold commitBody
  split
  · exact barArrBody_mem ..
  · exact barWaitBody_mem ..
  · exact barSyncBody_mem ..
  · exact reorderBody_mem ..
  · split <;> exact copyBody_mem ..
  · exact waitcBody_mem ..
  · exact yieldBody_mem ..
  · exact markWBody_mem ..
  · exact markWBody_mem ..
  · rfl

@[simp] theorem State.commitTeam_mem (s : State) (uid : Nat) (p : CommitStep → Bool) : (s.commitTeam uid p).mem = s.mem := by
  have hf : (s.focus uid).mem = s.mem := State.focus_mem s uid
  unfold State.commitTeam
  extract_lets t
  split
  · next i _ =>
    split
    · refine ite_mem ?_ hf
      have hb : (commitBody i { t with cur := { t.cur with wait := .none } }).mem = s.mem := (commitBody_mem ..).trans hf
      exact ite_mem hb hb
    · exact hf
  · exact hf

/-! ### The grid's copies and output entries -/

section
variable {s : State} (h : s.Canonical)
include h

theorem State.runCopy_canonical (k : Nat) : (s.runCopy k).Canonical := by
  unfold State.runCopy
  split
  · exact h
  · next c _ =>
    extract_lets bs home s1 s2 s3
    have h2 : s2.Canonical := by
      refine foldl_canonical ?_ _ (s := s1) h
      exact fun _ _ ht => ite_canonical (fun _ => ht) fun _ => State.beat_canonical ht ..
    have h3 : s3.Canonical := h2
    clear_value s3
    split
    · exact ite_canonical (fun _ => canonical_of_mem (State.finishCopy_mem ..) h3) fun _ => h3
    · exact h3

theorem State.runCopies_canonical (bid : Nat) : (s.runCopies bid).Canonical := by
  unfold State.runCopies
  extract_lets live t
  have ht : t.Canonical := canonical_of_mem ((State.focusBlock_mem ..).trans rfl) h
  exact ite_canonical (fun _ => foldl_canonical (fun _ k hu => State.runCopy_canonical hu k) _ ht) fun _ => ht

theorem State.startEntries_canonical (b : Block) : (s.startEntries b).Canonical := by
  unfold State.startEntries
  split
  · exact h
  · exact foldl_canonical (fun _ _ ht => State.startEntry_canonical ht ..) _ h

theorem State.runEntries_canonical (lid : Nat) : (s.runEntries lid).Canonical := by
  unfold State.runEntries
  split
  · exact h
  · refine foldl_canonical ?_ _ h
    intro t r ht
    split
    · exact ite_canonical (fun _ => ht) fun _ => State.runEntry_canonical ht ..
    · exact ht

end

/-! ### The commit -/

@[simp] theorem State.endFinished_mem (s : State) (uid : Nat) : (s.endFinished uid).mem = s.mem := by
  have hf : (s.focus uid).mem = s.mem := State.focus_mem s uid
  exact ite_mem ((State.endTeam_mem _).trans hf) hf

@[simp] theorem State.killTrapped_mem (s : State) (lid : Nat) : (s.killTrapped lid).mem = s.mem := by
  refine foldl_mem _ (fun t x => ?_) _ s
  split
  · exact State.killWith_mem ..
  · rfl

section
variable {s : State} (h : s.Canonical)
include h

theorem State.commitTeams_canonical (uids : List Nat) (p : CommitStep → Bool) :
    (uids.foldl (fun s u => s.commitTeam u p) s).Canonical :=
  canonical_of_mem (foldl_mem _ (fun t u => State.commitTeam_mem t u p) uids s) h

theorem State.commitGrid_canonical (lid : Nat) : (s.commitGrid lid).Canonical := by
  unfold State.commitGrid
  extract_lets sk uids s0 s1 s2 s3 bs met s4 s5 s6 s7 s8 s9 next
  have hk : sk.Canonical := canonical_of_mem (State.killTrapped_mem ..) h
  have h0 : s0.Canonical := canonical_of_mem (foldl_mem _ State.endFinished_mem uids sk) hk
  have h1 : s1.Canonical := by
    refine foldl_canonical (fun t u ht => ?_) _ h0
    exact ite_canonical (fun _ => State.performAll_canonical (State.focus_canonical ht u)) fun _ => State.focus_canonical ht u
  have h2 : s2.Canonical := State.commitTeams_canonical h1 ..
  have h3 : s3.Canonical := State.commitTeams_canonical h2 ..
  have hm : met.Canonical := by
    refine canonical_of_mem (foldl_mem _ (fun t b => ?_) bs s3) h3
    exact (State.tryReorder_mem ..).trans (State.tryReorder_mem ..)
  have h4 : s4.Canonical := State.commitTeams_canonical hm ..
  have h5 : s5.Canonical := foldl_canonical (fun _ b ht => State.runCopies_canonical ht b.bid) _ h4
  have h6 : s6.Canonical := foldl_canonical (fun _ b ht => State.startEntries_canonical ht b) _ h5
  have h7 : s7.Canonical := State.runEntries_canonical h6 lid
  clear_value s7
  have h8 : s8.Canonical := h7
  clear_value s8
  exact State.commitTeams_canonical h8 uids CommitStep.tests

theorem execDmodeCommit_canonical (lid : Nat) : CanonicalOutcome (execDmodeCommit lid s) := by
  unfold execDmodeCommit
  rw [canonicalOutcome_next]
  dsimp only
  split
  · exact h
  · exact ite_canonical (fun _ => h) fun _ => State.commitGrid_canonical h lid

end
end Sys2Proof.Machine
end

section
/-! PROOFS. Partitions, their commands, and the checkpoint (R330, R331, R336): memory stays in canonical form, also where it is
cleared or moved. -/

namespace Sys2Proof.Machine

/-! ### Partition tables and trusted functions -/

section
variable (s : State)

@[simp] theorem State.readTables_mem (p : Partition) : (s.readTables p).mem = s.mem := by
  have h1 : (s.touch p.pten (16 * (if p.ptenn ≤ 64 then p.ptenn else 0))).mem = s.mem := State.touch_mem ..
  exact ite_mem h1 ((State.touch_mem ..).trans h1)

@[simp] theorem State.setPerr_mem (p reason : Nat) : (s.setPerr p reason).mem = s.mem := rfl

end

section
variable {s : State} (h : s.Canonical)
include h

theorem State.setPerr_canonical (p reason : Nat) : (s.setPerr p reason).Canonical := h

/-- What runs over the queues of the functions of a partition keeps the form, if each queue's part does. -/
theorem foldl_queues_canonical {g : State → Nat → Nat → State} (hg : ∀ t f q, t.Canonical → (g t f q).Canonical) (p : Nat) :
    ((List.range Config.numFunctions).foldl (fun (s : State) f =>
      if (s.func f).fpart == p then (List.range Config.numQueues).foldl (fun (s : State) q => g s f q) s else s) s).Canonical := by
  refine foldl_canonical (fun t f ht => ?_) _ h
  exact ite_canonical (fun _ => foldl_canonical (fun _ q hu => hg _ f q hu) _ ht) fun _ => ht

theorem State.noteQueues_canonical (p : Nat) : (s.noteQueues p).Canonical :=
  foldl_queues_canonical h
    (fun _ f q ht => ite_canonical (fun _ => State.noteIdle_canonical ht f q) fun _ => ht) p

theorem execPcmdEnable_canonical (n : Nat) : CanonicalOutcome (execPcmdEnable n s) := by
  have hr : (s.readTables (s.part n)).Canonical := canonical_of_mem (State.readTables_mem ..) h
  refine ite_canonical (fun _ => h) fun _ => ite_canonical (fun _ => h) fun _ => ?_
  generalize s.readTables (s.part n) = t at hr ⊢
  dsimp only
  split
  · refine State.noteQueues_canonical ?_ n
    exact hr
  · exact hr

theorem execPcmdDrain_canonical (n : Nat) : CanonicalOutcome (execPcmdDrain n s) := by
  refine ite_canonical (fun _ => State.noteQueues_canonical ?_ n) fun _ => h
  exact h

theorem execPartitionDrained_canonical (n : Nat) : CanonicalOutcome (execPartitionDrained n s) :=
  ite_canonical (fun _ => h) fun _ => h

theorem State.enterError_canonical (f : Nat) : (s.enterError f).Canonical := by
  unfold State.enterError
  extract_lets s1 mine s2 s3
  have h2 : s2.Canonical := canonical_of_mem (foldl_mem _ (fun t (b : Block) => State.killWith_mem t b.bid _) _ s1) h
  have h3 : s3.Canonical := foldl_canonical (fun _ q ht => State.resetQueue_canonical ht f q) _ h2
  exact State.postFault_canonical h3 ..

theorem State.errorAll_canonical (n : Nat) : (s.errorAll n).Canonical :=
  foldl_canonical (fun _ f ht => State.enterError_canonical ht f) _ h

theorem State.zeroSlices_canonical (p : Partition) : (s.zeroSlices p).Canonical :=
  foldl_zero_wf _ (fun k => slicePa k 0) (fun _ => Config.sliceBytes) h

end

/-! ### Partitions released and reset -/

section
variable {s : State} (h : s.Canonical)
include h

theorem State.walkAgain_canonical (piers : List Nat) : (s.walkAgain piers).Canonical := by
  unfold State.walkAgain
  extract_lets s1
  have h1 : s1.Canonical := by
    refine foldl_canonical (fun t x ht => ?_) _ h
    refine State.answerTeam_canonical ?_ _ _
    exact State.focus_canonical ht x.2
  refine foldl_canonical (fun t b ht => ?_) _ h1
  exact foldl_canonical (fun _ k hu => State.answerCopy_canonical hu k false) _ (State.focusBlock_canonical ht b.bid)

theorem State.release_canonical (n : Nat) : (s.release n).Canonical := by
  refine State.walkAgain_canonical ?_ _
  exact h

theorem State.dropWork_canonical (n : Nat) : (s.dropWork n).Canonical := by
  refine canonical_of_mem ?_ h
  exact foldl_mem _ (fun t b => State.dropBlock_mem t b) _ s

theorem execPcmdReset_canonical (n : Nat) : CanonicalOutcome (execPcmdReset n s) := by
  unfold execPcmdReset
  rw [canonicalOutcome_next]
  extract_lets p s1 s2 s3 s3a s4 s5
  have h1 : s1.Canonical := State.errorAll_canonical h n
  have h2 : s2.Canonical := foldl_queues_canonical h1 (fun _ f q ht => State.resetQueue_canonical ht f q) n
  have h3 : s3.Canonical := State.zeroSlices_canonical (State.release_canonical (State.dropWork_canonical h2 n) n) p
  have h3a : s3a.Canonical := ite_canonical (fun _ => h3) fun _ => h3
  have h4 : s4.Canonical := memZero_wf _ _ h3a
  exact ite_canonical (fun _ => h) fun _ => ite_canonical (fun _ => h) fun _ => h4

theorem execPcmdRelease_canonical (n : Nat) : CanonicalOutcome (execPcmdRelease n s) := by
  have h1 : (((s.errorAll n).zeroSlices (s.part n)).countRows (s.part n)).Canonical :=
    State.zeroSlices_canonical (State.errorAll_canonical h n) _
  refine ite_canonical (fun _ => h) fun _ => ite_canonical (fun _ => h) fun _ => ?_
  exact foldl_zero_wf ((s.part n).regions.filter (·.valid)) (fun r => r.span.1) (fun r => r.span.2) h1

theorem execPerrRead_canonical (n : Nat) : CanonicalOutcome (execPerrRead n s) := h

theorem execFltlostRead_canonical (r : LostReg) : CanonicalOutcome (execFltlostRead r s) := ite_canonical (fun _ => h) fun _ => h

/-! ### The checkpoint -/

theorem execCkctlGo_canonical (n : Nat) (toDev : Bool) : CanonicalOutcome (execCkctlGo n toDev s) :=
  ite_canonical (fun _ => h) fun _ => h

theorem execCheckpointDone_canonical : CanonicalOutcome (execCheckpointDone s) := by
  unfold execCheckpointDone
  rw [canonicalOutcome_next]
  split
  · exact h
  · exact moveSpans_wf _ _ _ h

end
end Sys2Proof.Machine
end

section
/-! PROOFS. Registers, ports, the census, the requests of the host and of Ashlar, resets and corrected errors (R324 to R345):
memory stays in canonical form. -/

namespace Sys2Proof.Machine

/-! ### Register writes: at most an event follows, or a function goes to its error state -/

section
variable (s : State)

@[simp] theorem State.next_mem (i : Instr) : (s.next i).mem = s.mem := rfl

@[simp] theorem State.writeFunc_mem (f off v : Nat) : (s.writeFunc f off v).mem = s.mem := by
  unfold State.writeFunc
  refine ite_mem rfl (ite_mem ?_ (ite_mem rfl (ite_mem rfl (ite_mem rfl (ite_mem (ite_mem rfl rfl) (ite_mem rfl rfl))))))
  dsimp only
  split
  · rfl
  · rfl
  · exact ite_mem rfl (ite_mem rfl (ite_mem rfl rfl))
  · rfl

theorem State.writeFunc64_mem (f off v : Nat) {t : State} (ht : s.writeFunc64 f off v = some t) : t.mem = s.mem := by
  unfold State.writeFunc64 at ht
  split at ht
  · cases ht
  · split at ht
    · cases ht
      rfl
    · split at ht
      · cases ht
        rfl
      · cases ht

@[simp] theorem State.writePart_mem (n off v : Nat) : (s.writePart n off v).mem = s.mem := by
  unfold State.writePart
  refine ite_mem ?_ (ite_mem (ite_mem rfl rfl) rfl)
  split <;> rfl

@[simp] theorem State.writeFuncBlock_mem (f o v : Nat) : (s.writeFuncBlock f o v).mem = s.mem := by
  unfold State.writeFuncBlock
  extract_lets x shut
  exact ite_mem rfl (ite_mem rfl (ite_mem rfl rfl))

@[simp] theorem State.writeMgmt_mem (off v : Nat) : (s.writeMgmt off v).mem = s.mem := by
  unfold State.writeMgmt
  refine ite_mem rfl (ite_mem rfl (ite_mem rfl (ite_mem (ite_mem rfl rfl) (ite_mem (ite_mem rfl rfl) ?_))))
  exact ite_mem (State.writePart_mem ..) (ite_mem (State.writeFuncBlock_mem ..) rfl)

@[simp] theorem State.writeConfig_mem (f off v : Nat) : (s.writeConfig f off v).mem = s.mem := by
  unfold State.writeConfig
  exact ite_mem rfl (ite_mem rfl (ite_mem rfl rfl))

@[simp] theorem State.writeReg_mem (pa v : Nat) : (s.writeReg pa v).mem = s.mem := by
  unfold State.writeReg
  refine ite_mem ?_ ?_
  · exact ite_mem rfl (State.writeConfig_mem ..)
  · split
    · exact ite_mem (ite_mem rfl (State.writeFunc_mem ..)) (State.writeMgmt_mem ..)
    · rfl

end

section
variable {s : State} (h : s.Canonical)
include h

theorem State.frozenWord_canonical (pa : Nat) {t : State} (ht : s.frozenWord pa = some t) : t.Canonical := by
  have he (f : Nat) : (s.enterError f).Canonical := State.enterError_canonical h f
  have ha (p : Nat) : (s.errorAll p).Canonical := State.errorAll_canonical h p
  unfold State.frozenWord at ht
  split at ht
  · dsimp only at ht
    split at ht
    · rw [← Option.some.inj ht]
      exact he _
    · exact absurd ht (by simp)
  · split at ht
    · dsimp only at ht
      split at ht
      · rw [← Option.some.inj ht]
        exact State.setPerr_canonical (ha _) ..
      · split at ht
        · rw [← Option.some.inj ht]
          exact State.setPerr_canonical (he _) ..
        · exact absurd ht (by simp)
    · exact absurd ht (by simp)

theorem execRegisterWrite_canonical (pa bytes v : Nat) : CanonicalOutcome (execRegisterWrite pa bytes v s) := by
  have hw (t : State) (ht : t.Canonical) (a x : Nat) : (t.writeReg a x).Canonical := canonical_of_mem (State.writeReg_mem ..) ht
  have hf (a : Nat) (t : State) (ht : s.frozenWord a = some t) : t.Canonical := State.frozenWord_canonical h a ht
  unfold execRegisterWrite
  rw [canonicalOutcome_next]
  extract_lets whole frozen
  have h64 (t : State) (ht : whole = some t) : t.Canonical := by
    have h64 (x : Nat) (hx : s.writeFunc64 (x / 0x10000) (x % 0x10000) v = some t) : t.Canonical :=
      canonical_of_mem (State.writeFunc64_mem _ _ _ _ hx) h
    dsimp only [whole] at ht
    split at ht
    · split at ht
      · exact h64 _ ht
      · exact absurd ht (by simp)
    · exact absurd ht (by simp)
  have hz (t : State) (ht : frozen = some t) : t.Canonical := by
    dsimp only [frozen] at ht
    split at ht
    · obtain h1 | ⟨_, h2⟩ := Option.or_eq_some_iff.1 ht
      · exact hf _ t h1
      · exact hf _ t h2
    · split at ht
      · exact hf _ t ht
      · exact absurd ht (by simp)
  clear_value whole frozen
  split
  · exact hz _ rfl
  · exact h64 _ rfl
  · exact ite_canonical (fun _ => hw _ (hw _ h ..) ..) fun _ => ite_canonical (fun _ => hw _ h ..) fun _ => h

theorem execDevnoWrite_canonical (v : Nat) : CanonicalOutcome (execDevnoWrite v s) := ite_canonical (fun _ => h) fun _ => h

theorem execHostApertureAccess_canonical (f : Nat) (off : HostAddr) (bytes : Nat) (wr : Option Nat) :
    CanonicalOutcome (execHostApertureAccess f off bytes wr s) := by
  unfold execHostApertureAccess
  rw [canonicalOutcome_next]
  split
  · exact State.writeAt_canonical h ..
  · next a _ => exact canonical_of_mem (State.readAt_mem s a bytes) h
  · exact h
  · exact h

theorem execCensusRefresh_canonical : CanonicalOutcome (execCensusRefresh s) := ite_canonical (fun _ => h) fun _ => h

end

/-! ### Ports -/

section
variable (s : State)

@[simp] theorem State.onPort_mem (ash : Bool) (n : Nat) (f : Port → Port) : (s.onPort ash n f).mem = s.mem := ite_mem rfl rfl

@[simp] theorem State.quarantineAny_mem (n : Nat) : (s.quarantineAny n).mem = s.mem := State.quarantine_mem s n

end

section
variable {s : State} (h : s.Canonical)
include h

theorem execFlitReplay_canonical (ash : Bool) (r : PortReplay) : CanonicalOutcome (execFlitReplay ash r s) := by
  have hp (f : Port → Port) : (s.onPort ash r.port f).Canonical := canonical_of_mem (State.onPort_mem ..) h
  unfold execFlitReplay
  rw [canonicalOutcome_next]
  split
  · exact ite_canonical (fun _ => ite_canonical (fun _ => hp _) fun _ => hp _) fun _ => h
  · exact h

theorem execPortRetrain_canonical (ash : Bool) (n : Nat) : CanonicalOutcome (execPortRetrain ash n s) :=
  canonical_of_mem (State.onPort_mem ..) h

theorem execPortDown_canonical (ash : Bool) (n : Nat) : CanonicalOutcome (execPortDown ash n s) := by
  have hp (f : Port → Port) : (s.onPort ash n f).Canonical := canonical_of_mem (State.onPort_mem ..) h
  unfold execPortDown
  rw [canonicalOutcome_next]
  split
  · exact h
  · refine ite_canonical (fun _ => h) fun _ => ?_
    extract_lets s1 last
    have h1 : s1.Canonical := hp _
    have hl : last.Canonical := canonical_of_mem (foldl_mem State.quarantineAny State.quarantineAny_mem _ s1) h1
    clear_value last s1
    exact ite_canonical (fun _ => h1) fun _ => ite_canonical (fun _ => h1) fun _ => hl

theorem execPortUp_canonical (ash : Bool) (n lanes : Nat) : CanonicalOutcome (execPortUp ash n lanes s) := by
  have hp (f : Port → Port) : (s.onPort ash n f).Canonical := canonical_of_mem (State.onPort_mem ..) h
  unfold execPortUp
  rw [canonicalOutcome_next]
  split
  · exact h
  · refine ite_canonical (fun _ => h) fun _ => ?_
    extract_lets s1 r
    have h1 : s1.Canonical := hp _
    clear_value s1
    split
    · exact ite_canonical (fun _ => h1) fun _ => State.faultPut_canonical h1 ..
    · exact h1

/-! ### The key uses, and Ashlar's requests -/

theorem execAuthenticationFailure_canonical (r : KeyUse) : CanonicalOutcome (execAuthenticationFailure r s) :=
  ite_canonical (fun _ => h) fun _ =>
    ite_canonical (fun _ => State.enterError_canonical h _) fun _ => State.postFault_canonical h ..

theorem State.serve_canonical (r : AshReq) : (s.serve r).Canonical := by
  have hr : (s.readAt r.pa r.bytes).1.Canonical := canonical_of_mem (State.readAt_mem ..) h
  unfold State.serve
  generalize s.readAt r.pa r.bytes = x at hr ⊢
  obtain ⟨s1, m⟩ := x
  dsimp only
  split
  · exact hr
  · exact State.writeAt_canonical h ..
  · exact State.writeAt_canonical hr ..
  · exact ite_canonical (fun _ => State.writeAt_canonical hr ..) fun _ => hr

theorem execAshlarRequestArrival_canonical (port : Nat) (r : AshReq) : CanonicalOutcome (execAshlarRequestArrival port r s) :=
  ite_canonical (fun _ => State.serve_canonical h r) fun _ =>
    State.postFault_canonical (canonical_of_mem (State.quarantine_mem ..) h) ..

end

/-! ### The requests of the security protocols -/

section
variable {s : State} (h : s.Canonical)
include h

theorem execLockInterfaceRequest_canonical (f : Nat) : CanonicalOutcome (execLockInterfaceRequest f s) :=
  ite_canonical (fun _ => h) fun _ => h

theorem execStartInterfaceRequest_canonical (f : Nat) : CanonicalOutcome (execStartInterfaceRequest f s) :=
  ite_canonical (fun _ => h) fun _ => h

theorem execStopInterfaceRequest_canonical (f : Nat) : CanonicalOutcome (execStopInterfaceRequest f s) :=
  ite_canonical (fun _ => h) fun _ => h

theorem execGetDeviceInterfaceReport_canonical (f : Nat) : CanonicalOutcome (execGetDeviceInterfaceReport f s) :=
  ite_canonical (fun _ => h) fun _ => h

theorem execSpdmMeasurementRequest_canonical (r : SpdmReq) : CanonicalOutcome (execSpdmMeasurementRequest r s) := by
  cases r with
  | certificate slot => exact ite_canonical (fun _ => h) fun _ => h
  | challenge slot nonce => exact ite_canonical (fun _ => h) fun _ => h
  | _ => exact h

theorem execKeyExchange_canonical (f : Nat) (keys : Nat × Nat) : CanonicalOutcome (execKeyExchange f keys s) :=
  ite_canonical (fun _ => h) fun _ => h

theorem execFirmwareLoad_canonical (i : FwImage) : CanonicalOutcome (execFirmwareLoad i s) :=
  ite_canonical (fun _ => h) fun _ => h

end

/-! ### The device reset, row alerts and corrected errors -/

@[simp] theorem State.failUnit_mem (s : State) (u : UnitName) : (s.failUnit u).mem = s.mem := by
  cases u <;> rfl

@[simp] theorem State.noteCorrected_mem (s : State) (u : UnitName) (n : Nat) : (s.noteCorrected u n).mem = s.mem := by
  refine ite_mem rfl ?_
  cases u <;> rfl

section
variable {s : State} (h : s.Canonical)
include h

theorem execDeviceReset_canonical (bad : List UnitName) : CanonicalOutcome (execDeviceReset bad s) := by
  refine foldl_canonical (fun _ u ht => canonical_of_mem (State.failUnit_mem _ u) ht) _ ?_
  exact memZero_wf _ _ h

theorem execRowActivationAlert_canonical (ch bank row : Nat) : CanonicalOutcome (execRowActivationAlert ch bank row s) :=
  ite_canonical (fun _ => h) fun _ => h

theorem execBankHoldEnd_canonical (ch bank : Nat) : CanonicalOutcome (execBankHoldEnd ch bank s) := h

theorem execRowRefresh_canonical (ch bank row : Nat) : CanonicalOutcome (execRowRefresh ch bank row s) := h

/-- A correction counted for the unit that holds a word, if there is such a unit. -/
theorem noteCorrected_getD_canonical {α : Type} (o : Option α) (u : α → UnitName) (n : Nat) :
    ((o.map fun x => s.noteCorrected (u x) n).getD s).Canonical := by
  cases o with
  | none => exact h
  | some x => exact canonical_of_mem (State.noteCorrected_mem ..) h

theorem execScrub_canonical (place : EccPlace) (n m : Nat) : CanonicalOutcome (execScrub place n m s) := by
  have hu (u : UnitName) : (s.noteCorrected u n).Canonical := canonical_of_mem (State.noteCorrected_mem ..) h
  cases place with
  | unit u =>
    cases u with
    | slice k => exact hu (.slice k)
    | _ => exact hu _
  | word uid w =>
    have h1 := noteCorrected_getD_canonical h (s.team uid) (fun t => .core t.core) n
    exact ite_canonical (fun _ => h1) fun _ => h1
  | spad bid off =>
    have h1 := noteCorrected_getD_canonical h (s.block bid) (fun b => .core b.home) n
    exact ite_canonical (fun _ => h1) fun _ => h1

end
end Sys2Proof.Machine
end

section
/-! PROOFS. Memory (R4, R233) stays in canonical form in every instruction, in every event, and so in every step. -/

namespace Sys2Proof.Machine

/-! ### Instructions and events -/

theorem exec_canonical (i : Instr) {s : State} (h : s.Canonical) : CanonicalOutcome (exec i s) := by
  cases i with
  | nopShort | nopLong => exact canonical_of_mem (execNop_mem ..) h
  | iaddShort | iaddLong | isubShort | isubLong | imulShort | imulLong | imulh | iminShort | iminLong | imaxShort
  | imaxLong | andShort | andLong | orShort | orLong | xorShort | xorLong | shlShort | shlLong | shrShort | shrLong
  | sarShort | sarLong | bfx | rot => exact canonical_of_mem (State.alu2_mem ..) h
  | imad | bfi => exact canonical_of_mem (State.alu3_mem ..) h
  | popc | clz | brev | notB | iabs | ineg | iaddi => exact canonical_of_mem (State.alu1_mem ..) h
  | icmp | movShort | sel | pnot | pget | pset | ffma | fcmp | fclass | frnd | ffrac | dfma | dcmp | f2i | i2f | f2f
  | pack | unpk | dp2 | dp4 | dp8 | getsb | sbcmp => exact canonical_of_mem (State.lanewise_mem ..) h
  | movLong => exact execMovLong_canonical h ..
  | li => exact execLi_canonical h ..
  | lea | shlW | shrW => exact canonical_of_mem (State.wide1_mem ..) h
  | iaddW | isubW => exact canonical_of_mem (State.wide2_mem ..) h
  | imulWl => exact canonical_of_mem (State.wideMul_mem ..) h
  | pand | por | pxor => exact canonical_of_mem (State.pred2_mem ..) h
  | icvt => exact execIcvt_canonical h ..
  | rnd => exact execRnd_canonical h ..
  | faddShort | faddLong | fsubShort | fsubLong | fmulShort | fmulLong | fmin | fmax =>
    exact canonical_of_mem (State.fp32_mem ..) h
  | frcp | frsq | fsqrt | fexp2 | flog2 | fsin | fcos => exact canonical_of_mem (State.sfu_mem ..) h
  | dadd | dmul | dmin | dmax => exact canonical_of_mem (State.fp64_mem ..) h
  | hadd2 | hmul2 | hfma2 | hmin2 | hmax2 => exact canonical_of_mem (State.packed_mem ..) h
  | setsb => exact execSetsb_canonical h ..
  | shfl | voteAll | voteAny | voteBallot | voteEq | gred | gscan => exact canonical_of_mem (State.taggedRun_mem ..) h
  | reorder => exact execReorder_canonical h ..
  | ld => exact execLd_canonical h ..
  | st => exact execSt_canonical h ..
  | lds => exact execLds_canonical h ..
  | sts => exact execSts_canonical h ..
  | atom | cas => exact atomicAccess_canonical h ..
  | atoms => exact execAtoms_canonical h ..
  | fence => exact execFence_canonical h ..
  | mma | mmas => exact canonical_of_mem (State.mmaRun_mem ..) h
  | azero => exact execAzero_canonical h ..
  | ald => exact execAld_canonical h ..
  | ast => exact execAst_canonical h ..
  | amov => exact execAmov_canonical h ..
  | qtile => exact execQtile_canonical h ..
  | copy => exact execCopy_canonical h ..
  | waitc => exact execWaitc_canonical h ..
  | yieldC => exact execYieldC_canonical h ..
  | batch => exact execBatch_canonical h ..
  | mark => exact execMark_canonical h ..
  | markW => exact execMarkW_canonical h ..
  | send => exact execSend_canonical h ..
  | bra => exact execBra_canonical h ..
  | jmp | ret => exact canonical_of_mem (jumpTo_mem ..) h
  | call => exact execCall_canonical h ..
  | mjoin => exact execMjoin_canonical h ..
  | join => exact execJoin_canonical h ..
  | exit => exact execExit_canonical h ..
  | barArr => exact execBarArr_canonical h ..
  | barWait => exact execBarWait_canonical h ..
  | barSync => exact execBarSync_canonical h ..
  | balBurn => exact execBalBurn_canonical h ..
  | balShunt => exact execBalShunt_canonical h ..
  | balHold => exact execBalHold_canonical h ..
  | trap => exact execTrap_canonical h ..
  | rttRes | rttSkip | rttKill => exact canonical_of_mem (execRtt_mem ..) h
  | getsr => exact execGetsr_canonical h ..
  | setsr => exact execSetsr_canonical h ..
  | qend => exact execQend_canonical h ..
  | clauseHeader => exact execClauseHeader_canonical h ..
  | issueCycle => exact execIssueCycle_canonical h ..
  | greedyLimit => exact execGreedyLimit_canonical h ..
  | starvationOverride => exact execStarvationOverride_canonical h ..
  | resultWriteback => exact execResultWriteback_canonical h ..
  | taggedResultWrite => exact execTaggedResultWrite_canonical h ..
  | scratchpadAccessComplete => exact execScratchpadAccessComplete_canonical h ..
  | maskPredictionResolve => exact execMaskPredictionResolve_canonical h ..
  | blockEnd => exact execBlockEnd_canonical h ..
  | trapTake => exact execTrapTake_canonical h ..
  | windowEnd => exact execWindowEnd_canonical h ..
  | t3Trip => exact execT3Trip_canonical h ..
  | clampEnd => exact canonical_of_mem (State.onPier_mem ..) h
  | boostEnd | coolDownEnd => exact canonical_of_mem (State.onJoint_mem ..) h
  | burnExpire => exact canonical_of_mem (State.onTeam_mem ..) h
  | qtailWrite => exact execQtailWrite_canonical h ..
  | qcheadWrite => exact execQcheadWrite_canonical h ..
  | qctlEnable => exact execQctlEnable_canonical h ..
  | qctlStop => exact execQctlStop_canonical h ..
  | qctlReset => exact execQctlReset_canonical h ..
  | queueResetComplete => exact execQueueResetComplete_canonical h ..
  | cmdNop => exact execCmdNop_canonical h ..
  | cmdLaunch => exact execCmdLaunch_canonical h ..
  | cmdWait => exact execCmdWait_canonical h ..
  | cmdSignal => exact execCmdSignal_canonical h ..
  | launchComplete => exact execLaunchComplete_canonical h ..
  | coalescingTimer => exact execCoalescingTimer_canonical h ..
  | idleFlush => exact execIdleFlush_canonical h ..
  | dispatch => exact execDispatch_canonical h ..
  | restore => exact execRestore_canonical h ..
  | preempt => exact execPreempt_canonical h ..
  | cancel => exact execCancel_canonical h ..
  | done => exact execDone_canonical h ..
  | killed => exact execKilled_canonical h ..
  | saved => exact execSaved_canonical h ..
  | blockPlace => exact execBlockPlace_canonical h ..
  | stealRequest => exact execStealRequest_canonical h ..
  | stealAnswer => exact execStealAnswer_canonical h ..
  | stealBackoffEnd => exact execStealBackoffEnd_canonical h ..
  | lowestClassRestore => exact execLowestClassRestore_canonical h ..
  | messageAccept => exact execMessageAccept_canonical h ..
  | handlerSpawn => exact execHandlerSpawn_canonical h ..
  | sliceEnd => exact execSliceEnd_canonical h ..
  | blockSave => exact execBlockSave_canonical h ..
  | blockRestore => exact execBlockRestore_canonical h ..
  | watchdog => exact execWatchdog_canonical h ..
  | energyLimit => exact execEnergyLimit_canonical h ..
  | storeSend => exact execStoreSend_canonical h ..
  | loadSend => exact execLoadSend_canonical h ..
  | requestPerform => exact execRequestPerform_canonical h ..
  | storeAck => exact execStoreAck_canonical h ..
  | loadResponse => exact execLoadResponse_canonical h ..
  | ackForward => exact execAckForward_canonical h ..
  | tableWalk => exact execTableWalk_canonical h ..
  | prespRetry | prespFail => exact State.answer_canonical h ..
  | inval => exact execInval_canonical h ..
  | invalComplete => exact execInvalComplete_canonical h ..
  | asidctlWrite => exact execAsidctlWrite_canonical h ..
  | copyBeat => exact execCopyBeat_canonical h ..
  | copyComplete => exact execCopyComplete_canonical h ..
  | batchComplete => exact execBatchComplete_canonical h ..
  | setoutEntryStart => exact execSetoutEntryStart_canonical h ..
  | setoutEntryComplete => exact execSetoutEntryComplete_canonical h ..
  | dmodeCommit => exact execDmodeCommit_canonical h ..
  | pcmdEnable => exact execPcmdEnable_canonical h ..
  | pcmdDrain => exact execPcmdDrain_canonical h ..
  | pcmdReset => exact execPcmdReset_canonical h ..
  | pcmdRelease => exact execPcmdRelease_canonical h ..
  | partitionDrained => exact execPartitionDrained_canonical h ..
  | perrRead => exact execPerrRead_canonical h ..
  | fltlostRead => exact execFltlostRead_canonical h ..
  | registerWrite => exact execRegisterWrite_canonical h ..
  | devnoWrite => exact execDevnoWrite_canonical h ..
  | ckctlGo => exact execCkctlGo_canonical h ..
  | checkpointDone => exact execCheckpointDone_canonical h ..
  | hostApertureAccess => exact execHostApertureAccess_canonical h ..
  | censusRefresh => exact execCensusRefresh_canonical h ..
  | flitReplay => exact execFlitReplay_canonical h ..
  | portRetrain => exact execPortRetrain_canonical h ..
  | portDown => exact execPortDown_canonical h ..
  | portUp => exact execPortUp_canonical h ..
  | authenticationFailure => exact execAuthenticationFailure_canonical h ..
  | ashlarRequestArrival => exact execAshlarRequestArrival_canonical h ..
  | lockInterfaceRequest => exact execLockInterfaceRequest_canonical h ..
  | startInterfaceRequest => exact execStartInterfaceRequest_canonical h ..
  | stopInterfaceRequest => exact execStopInterfaceRequest_canonical h ..
  | getDeviceInterfaceReport => exact execGetDeviceInterfaceReport_canonical h ..
  | spdmMeasurementRequest => exact execSpdmMeasurementRequest_canonical h ..
  | firmwareLoad => exact execFirmwareLoad_canonical h ..
  | rowActivationAlert => exact execRowActivationAlert_canonical h ..
  | bankHoldEnd => exact execBankHoldEnd_canonical h ..
  | rowRefresh => exact execRowRefresh_canonical h ..
  | scrub => exact execScrub_canonical h ..
  | deviceReset => exact execDeviceReset_canonical h ..
  | keyExchange => exact execKeyExchange_canonical h ..

theorem exec_next_canonical {i : Instr} {s t : State} (h : s.Canonical) (he : exec i s = .next t) : t.Canonical := by
  have hi := exec_canonical i h
  rw [he] at hi
  exact hi

/-! ### What runs by itself -/

section
variable {s : State} (h : s.Canonical)
include h

theorem State.firstChange_canonical (es : List Instr) {t : State} (ht : s.firstChange es = some t) : t.Canonical := by
  induction es with
  | nil => cases ht
  | cons e r ih =>
    unfold State.firstChange at ht
    split at ht
    · next s' he =>
      split at ht
      · exact ih ht
      · rw [← Option.some.inj ht]
        exact exec_next_canonical h he
    · exact ih ht
    · exact ih ht

theorem State.unfetched_canonical (va : DWord) (r : XRes) : (s.unfetched va r).Canonical := by
  unfold State.unfetched
  split
  · exact h
  · refine State.fetchFault_canonical ?_ va r
    exact h

/-! ### The issue of a team -/

theorem State.redoStep_canonical (w : Window) (r : Redo) : CanonicalOutcome (s.redoStep w r) := by
  unfold State.redoStep
  split
  · exact h
  · next k rest _ =>
    split
    · exact h
    · next x _ =>
      extract_lets src s0
      have h0 : s0.Canonical := h
      clear_value s0
      split
      · refine State.redone_canonical ?_ _ r k rest
        exact h0
      · next i _ =>
        have hi := exec_canonical i h0
        generalize exec i s0 = o at hi ⊢
        cases o with
        | next s1 =>
          dsimp only
          split
          · split
            · exact hi
            · exact State.redone_canonical hi _ r k rest
          · exact hi
        | fault f => trivial
        | refused q => trivial

theorem State.runNext_canonical : CanonicalOutcome s.runNext := by
  have hf := State.fetchNext_canonical h
  unfold State.runNext
  generalize s.fetchNext = x at hf ⊢
  obtain ⟨s1, x⟩ := x
  cases x with
  | header w => exact exec_canonical _ hf
  | instr i => exact exec_canonical i hf
  | illegal w long => exact canonical_of_mem (State.illegal_mem ..) hf
  | fault va r => exact State.unfetched_canonical hf va r

theorem State.issueStep_canonical : CanonicalOutcome s.issueStep := by
  unfold State.issueStep
  split
  · split
    · exact State.redoStep_canonical h _ _
    · exact State.runNext_canonical h
  · exact State.runNext_canonical h

theorem State.headerStep_canonical (uid : Nat) : CanonicalOutcome (s.headerStep uid) := by
  refine State.runNext_canonical ?_
  exact State.focus_canonical h uid

/-! ### The step -/

theorem State.idleStep_canonical : CanonicalOutcome s.idleStep := by
  unfold State.idleStep
  split
  · exact exec_canonical _ h
  · split
    · next heq => exact State.firstChange_canonical h _ heq
    · split
      · exact State.headerStep_canonical h _
      · exact exec_canonical _ h
      · exact canonical_of_mem (State.tick_mem s) h

theorem State.timeStep_canonical : CanonicalOutcome s.timeStep := by
  unfold State.timeStep
  split
  · exact exec_canonical _ h
  · split
    · exact exec_canonical _ h
    · next heq => exact State.firstChange_canonical h _ heq
    · split
      · exact State.headerStep_canonical h _
      · split
        · exact State.issueStep_canonical h
        · split
          · exact exec_canonical _ h
          · exact canonical_of_mem (State.tick_mem s) h

theorem step_canonical : CanonicalOutcome (step s) := by
  unfold step State.stepOf
  split
  · next e r _ =>
    have hr : ({ s with agenda := r } : State).Canonical := h
    split
    · exact exec_canonical e hr
    · exact State.timeStep_canonical hr
  · split
    · exact State.issueStep_canonical h
    · exact State.idleStep_canonical h

end

/-- Settles O6: every instruction and every event writes memory through operations that keep its cells sorted and without the
default byte, and everything else in a step leaves memory as it is. -/
theorem memoryStaysCanonical : Obligations.MemoryStaysCanonical := by
  unfold Obligations.MemoryStaysCanonical
  intro s t h hs
  have ht := step_canonical h
  rw [hs] at ht
  exact ht

end Sys2Proof.Machine
end

section
/-! PROOFS. What instructions of fixed latency share (R20, R97, R103, R204 to R207): results on their way, the frame of a
retirement, a trap of every active lane, the opcode of a word. -/

namespace Sys2Proof.Machine

/-! ### Lists -/

theorem mem_distinct {α : Type} [BEq α] [LawfulBEq α] {l : List α} {a : α} : a ∈ distinct l ↔ a ∈ l := by
  suffices ∀ acc, a ∈ l.foldl (fun acc a => if acc.contains a then acc else acc ++ [a]) acc ↔ a ∈ acc ∨ a ∈ l from
    (this []).trans (by simp)
  induction l with
  | nil => simp
  | cons b r ih =>
    intro acc
    rw [List.foldl_cons, ih]
    by_cases hb : b ∈ acc
    · simp only [List.contains_iff_mem, hb, if_true, List.mem_cons]
      grind
    · simp [hb, or_assoc]

/-- The passes of an instruction are numbered in their order. -/
theorem zipIdx_ordered {α : Type} (l : List α) (n : Nat) : (l.zipIdx n).Pairwise fun a b => a.2 ≤ b.2 := by
  have h := List.pairwise_le_range' (s := n) (n := l.length)
  rw [← List.zipIdx_map_snd n l] at h
  exact List.pairwise_map.1 h

/-! ### Results on their way: a newer one discards none that lands no later (R103) -/

theorem mem_addFix_of_mem {fx : List FixWrite} {e o : FixWrite} (ho : o ∈ fx) (h : o.due ≤ e.due) : o ∈ addFix fx e :=
  List.mem_append_left _ (List.mem_filterMap.2 ⟨o, ho, if_neg (Nat.not_lt.2 h)⟩)

theorem mem_foldl_addFix_of_mem {n : Nat} {o : FixWrite} (h : o.due ≤ n) (ws : List RegWrite) {fx : List FixWrite} (ho : o ∈ fx) :
    o ∈ ws.foldl (fun fx w => addFix fx ⟨n, w⟩) fx :=
  List.foldlRecOn (motive := fun fx => o ∈ fx) ws _ ho fun _ hb _ _ => mem_addFix_of_mem hb h

theorem mem_schedule_of_mem {t : Team} {n : Nat} {o : FixWrite} (ho : o ∈ t.fix) (h : o.due ≤ n) (ws : List RegWrite) :
    o ∈ (t.schedule n ws).fix := mem_foldl_addFix_of_mem h ws ho

theorem mem_schedule (t : Team) (n : Nat) {ws : List RegWrite} {w : RegWrite} (hw : w ∈ ws) : ⟨n, w⟩ ∈ (t.schedule n ws).fix := by
  obtain ⟨a, b, rfl⟩ := List.append_of_mem hw
  simp only [Team.schedule, List.foldl_append, List.foldl_cons]
  exact mem_foldl_addFix_of_mem (Nat.le_refl _) b (mem_addFix ..)

/-- A lane without a trap is among the cells that its pass writes to a register (R115). -/
theorem passWrites_v {rs : List (Nat × LaneRes)} {l d : Nat} {r : LaneRes} {x : VCell} (hr : (l, r) ∈ rs) (ht : r.trap = none)
    (hx : r.vs.find? (fun c => c.1 == d) = some (d, x)) : ∃ cs, RegWrite.v d cs ∈ passWrites rs ∧ (l, x) ∈ cs := by
  have hok : (l, r) ∈ rs.filter fun r => r.2.trap.isNone := List.mem_filter.2 ⟨hr, by simp [ht]⟩
  refine ⟨_, List.mem_append_left _ (List.mem_append_left _ (List.mem_map.2 ⟨d, mem_distinct.2 ?_, rfl⟩)), ?_⟩
  · exact List.mem_flatMap.2 ⟨(l, r), hok, List.mem_map.2 ⟨(d, x), List.mem_of_find?_eq_some hx, rfl⟩⟩
  · exact List.mem_filterMap.2 ⟨(l, r), hok, by simp [hx]⟩

theorem RegistersKept.refl (t : Team) : RegistersKept t t := by constructor <;> rfl

theorem schedule_registersKept {a t : Team} (h : RegistersKept a t) (n : Nat) (ws : List RegWrite) :
    RegistersKept a (t.schedule n ws) := by
  obtain ⟨⟩ := h
  constructor <;> assumption

section
variable {α : Type} (due : α → Nat) (ws : α → List RegWrite)

/-- The results of one pass after another scheduled: pass `x` writes `ws x` at cycle `due x` (R20, R103). -/
def Team.scheduleAll (t : Team) (l : List α) : Team := l.foldl (fun t x => t.schedule (due x) (ws x)) t

theorem scheduleAll_keeps {β : Type} (f : Team → β) (hf : ∀ t n ws, f (t.schedule n ws) = f t) (t : Team) (l : List α) :
    f (t.scheduleAll due ws l) = f t :=
  List.foldlRecOn (motive := fun u => f u = f t) l _ rfl fun u hu x _ => (hf u (due x) (ws x)).trans hu

theorem scheduleAll_registersKept {a t : Team} (h : RegistersKept a t) (l : List α) :
    RegistersKept a (t.scheduleAll due ws l) :=
  List.foldlRecOn (motive := fun u => RegistersKept a u) l _ h fun _ hu x _ => schedule_registersKept hu (due x) (ws x)

/-- Where no pass lands before an earlier one, every result of every pass is on its way in the end. -/
theorem mem_scheduleAll {t : Team} {l : List α} (hl : l.Pairwise fun a b => due a ≤ due b) {x : α} (hx : x ∈ l) {w : RegWrite}
    (hw : w ∈ ws x) : ⟨due x, w⟩ ∈ (t.scheduleAll due ws l).fix := by
  obtain ⟨a, b, rfl⟩ := List.append_of_mem hx
  have hb : ∀ y ∈ b, due x ≤ due y := fun y hy => List.rel_of_pairwise_cons (List.pairwise_append.1 hl).2.1 hy
  simp only [Team.scheduleAll, List.foldl_append, List.foldl_cons]
  exact List.foldlRecOn (motive := fun u : Team => ⟨due x, w⟩ ∈ u.fix) b _ (mem_schedule _ _ hw)
    fun _ hu y hy => mem_schedule_of_mem hu (hb y hy) _
end

/-! ### What is left of a team and a machine when an instruction that changed the team `t` alone retires -/

theorem retire_outsideKept (s : State) (t : Team) (i : Instr) (n : Nat) :
    OutsideKept s (State.retire { s.settle with cur := t } i n) := by
  constructor <;> rfl

theorem retire_registersKept (s : State) {a t : Team} (h : RegistersKept a t) (i : Instr) (n : Nat) :
    RegistersKept a (State.retire { s with cur := t } i n).cur := by
  obtain ⟨⟩ := h
  constructor <;> assumption

theorem retire_at_ (s : State) {t : Team} (h : t.at_ = s.settle.cur.at_) (i : Instr) (n : Nat) :
    (State.retire { s.settle with cur := t } i n).cur.at_ = nextPt s.cur.at_ i :=
  congrArg (nextPt · i) (h.trans (landed_at_ ..))

theorem retire_fix (s : State) (t : Team) (i : Instr) (m : Nat) : (State.retire { s with cur := t } i m).cur.fix = t.fix := rfl

theorem retire_pendsV (s : State) {t : Team} {n r l : Nat} {x : VCell} (h : PendsV t n r l x) (i : Instr) (m : Nat) :
    PendsV (State.retire { s with cur := t } i m).cur n r l x := h

theorem retire_pendsS (s : State) {t : Team} {n r : Nat} {x : Word} (h : PendsS t n r x) (i : Instr) (m : Nat) :
    PendsS (State.retire { s with cur := t } i m).cur n r x := h

/-! ### A trap of every active lane (R204 to R207) -/

/-- Its record. -/
def State.wholeRecord (u : State) (i : Instr) (c : Nat) (d : Word) : TrapRec :=
  ⟨u.cur.at_, nextPt u.cur.at_ i, c, d, u.cur.mask⟩

/-- Every active lane recorded and gone from the path, the record not yet taken. -/
def State.allRecorded (u : State) (i : Instr) (c : Nat) (d : Word) : State :=
  { u with cur := { u.cur with recs := u.cur.recs ++ [u.wholeRecord i c d], mask := 0 }, sel := false }

theorem trapAll_takes {u : State} (i : Instr) (c : Nat) (d : Word) (hw : u.cur.window = none) (hm : u.cur.hmode = false)
    (hn : u.cur.recs = []) : u.trapAll i c d = (u.allRecorded i c d).takeTrap := by
  have hhits : u.trapAll i c d = u.withHits i [⟨c, d, u.cur.mask⟩] id := by simp only [State.trapAll, hw]
  have hfew : ¬ Config.maxRecords < u.cur.recs.length + 1 := by simp [hn, Config.maxRecords]
  have hmask : u.cur.mask &&& ~~~ hitMask [⟨c, d, u.cur.mask⟩] = 0 := by simp [hitMask]
  refine hhits.trans ((if_neg (by simp [hm])).trans ((if_neg hfew).trans ((if_pos hmask).trans ?_)))
  simp only [id_eq, hmask]
  rfl

theorem trapAll_trapped {s : State} (h : TrapsHere s) (i : Instr) (c : Nat) (d : Word) :
    TrappedAll s (s.settle.trapAll i c d) c d := by
  obtain ⟨hw, -, hm, hn, ht⟩ := h
  have hr : (s.settle.allRecorded i c d).cur.recs = [s.settle.wholeRecord i c d] := by
    rw [State.allRecorded, hn, List.nil_append]
  rw [trapAll_takes i c d ((settle_window s).trans hw) hm hn, takeTrap_enters hr ht]
  constructor
  case outside => constructor <;> rfl
  case trappc => exact congrArg CodePt.pc (landed_at_ ..)
  case stack => simp only [State.allRecorded, Team.enter, pushPath_none]
  all_goals rfl

/-- An operand outside its kind traps before anything else of the instruction (R100, R113). -/
theorem issue_badOperands {s : State} {i : Instr} (h : TrapsHere s) (hb : badOperands s.settle.cur i = true) (g : Guard)
    (act : State → State) : s.issue i g act = s.settle.trapAll i 0x03 (encodeWord0 i) := by
  have hw := (settle_window s).trans h.noWindow
  simp only [State.issue, State.issueIf, hw, h.noReport, h.user, hb, Bool.true_or, Bool.false_and, Bool.false_eq_true, if_false,
    if_true]

/-! ### The opcode (R97) -/

theorem opcode_word0 (f : Fields) : f.word0.extractLsb' 26 6 = f.op := by
  refine BitVec.eq_of_getLsbD_eq fun k hk => ?_
  simp only [Fields.word0, BitVec.getLsbD_extractLsb', BitVec.getLsbD_append, hk, decide_true, Bool.true_and]
  grind

end Sys2Proof.Machine
end

section
/-! PROOFS. GETSR (R27, R28, R105 to R107, R215, R271). -/

namespace Sys2Proof.Machine

@[simp] theorem passCycles_getsr (y : BitVec 3) (g : Guard) (d : Reg) (k : Bool) (r : SysReg) :
    passCycles (.getsr y g d k r) = 1 := by
  have h : opcodeOf (.getsr y g d k r) = 0x3F := congrArg BitVec.toNat (opcode_word0 _)
  simp [passCycles, h]

/-! ### The registers that run, and those that a D-mode team may not read -/

theorem srRuns_iff (r : SysReg) : srRuns r = true ↔ r ∈ [SysReg.clockLo, .clockHi, .msm] := by cases r <;> decide

theorem forbiddenRead_iff (r : SysReg) :
    (srRuns r || r == .replays) = true ↔ r ∈ [SysReg.clockLo, .clockHi, .msm, .replays] := by cases r <;> decide

theorem notForbidden_of {t : Team} {r : SysReg} (h : t.d.dmode = true → r ∉ [SysReg.clockLo, .clockHi, .msm, .replays]) :
    (t.d.dmode && (srRuns r || r == .replays)) = false := by
  rw [Bool.and_eq_false_imp]
  exact fun hd => Bool.eq_false_iff.2 fun hr => h hd ((forbiddenRead_iff r).1 hr)

/-! ### The high half caught with a low half (R106) -/

@[simp] theorem latch_at_ (t : Team) (s : State) (r : SysReg) : (t.latch s r).at_ = t.at_ := by cases r <;> rfl

theorem latch_registersKept (t : Team) (s : State) (r : SysReg) : RegistersKept t (t.latch s r) := by
  cases r <;> constructor <;> rfl

/-! ### What a GETSR makes of its team -/

/-- What pass `wk` of a GETSR into a v register writes (R27, R28, R215). -/
def State.getsrWrites (u : State) (g : Guard) (d : Reg) (r : SysReg) (wk : Nat × Nat) : List RegWrite :=
  passWrites (passLanes (u.cur.view (u.now + wk.2)) g wk.1 fun v l =>
    resV d (State.sysValue { u with blk := landBalctl u.blk (u.cur.due (u.now + wk.2)) } v l r))

/-- The team before these results are scheduled: the high half is caught, the later passes' reads are noted (R106, R107). -/
def State.getsrNoted (u : State) (i : Instr) (g : Guard) (d : Reg) (r : SysReg) : Team :=
  { u.cur.latch u r with srReads := (u.cur.latch u r).srReads ++ laterReads u.now d r (passWords u.cur i g) }

/-- The team of a GETSR into a v register, with the results of its passes scheduled (R103). -/
def State.getsrV (u : State) (i : Instr) (g : Guard) (d : Reg) (r : SysReg) : Team :=
  (u.getsrNoted i g d r).scheduleAll (fun wk => u.now + wk.2 + 4) (u.getsrWrites g d r) (passWords u.cur i g).zipIdx

/-- The team of a GETSR into an s register: one result, or none where the guard selects no lane (log 113). -/
def State.getsrS (u : State) (i : Instr) (g : Guard) (d : Reg) (r : SysReg) : Team :=
  if selectedLanes u.cur u.now g = 0 then u.cur
  else (u.cur.latch u r).schedule (u.now + ((passWords u.cur i g).length - 1) + 4)
    [.s d.toNat (u.sysValue u.cur (lowestLane u.cur.mask) r)]

section
variable {s : State} {y : BitVec 3} {g : Guard} {d : Reg} {r : SysReg}

theorem exec_getsr_v (h : Issues s (.getsr y g d false r) g)
    (hd : s.settle.cur.d.dmode = true → r ∉ [SysReg.clockLo, .clockHi, .msm, .replays]) :
    let i := Instr.getsr y g d false r
    exec i s = .next (State.retire { s.settle with cur := s.settle.getsrV i g d r } i (passWords s.settle.cur i g).length) := by
  show Host.Outcome.next _ = _
  rw [issue_of h]
  simp only [notForbidden_of hd, Bool.false_eq_true, if_false, List.zipIdx_map_fst, List.length_zipIdx]
  rfl

theorem exec_getsr_s (h : Issues s (.getsr y g d true r) g)
    (hd : s.settle.cur.d.dmode = true → r ∉ [SysReg.clockLo, .clockHi, .msm, .replays]) :
    let i := Instr.getsr y g d true r
    exec i s = .next (State.retire { s.settle with cur := s.settle.getsrS i g d r } i (passWords s.settle.cur i g).length) := by
  show Host.Outcome.next _ = _
  rw [issue_of h]
  simp only [notForbidden_of hd, Bool.false_eq_true, if_false, if_true, List.length_zipIdx]
  rfl

theorem exec_getsr_forbidden {k : Bool} (h : Issues s (.getsr y g d k r) g) (hd : s.settle.cur.d.dmode = true)
    (hr : r ∈ [SysReg.clockLo, .clockHi, .msm, .replays]) :
    exec (.getsr y g d k r) s = .next (s.settle.trapAll (.getsr y g d k r) 0x15 3) := by
  show Host.Outcome.next _ = _
  rw [issue_of h]
  simp only [hd, (forbiddenRead_iff r).2 hr, Bool.and_self, if_true]

end

/-! ### The v form -/

theorem getsrNoted_registersKept (u : State) (i : Instr) (g : Guard) (d : Reg) (r : SysReg) :
    RegistersKept u.cur (u.getsrNoted i g d r) := by
  obtain ⟨⟩ := latch_registersKept u.cur u r
  constructor <;> assumption

theorem getsrV_registersKept (u : State) (i : Instr) (g : Guard) (d : Reg) (r : SysReg) :
    RegistersKept u.cur (u.getsrV i g d r) := scheduleAll_registersKept _ _ (getsrNoted_registersKept ..) _

theorem getsrV_at_ (u : State) (i : Instr) (g : Guard) (d : Reg) (r : SysReg) : (u.getsrV i g d r).at_ = u.cur.at_ :=
  (scheduleAll_keeps _ _ (·.at_) (fun _ _ _ => rfl) ..).trans (latch_at_ ..)

theorem getsrV_srReads (u : State) (i : Instr) (g : Guard) (d : Reg) (r : SysReg) :
    (u.getsrV i g d r).srReads = (u.cur.latch u r).srReads ++ laterReads u.now d r (passWords u.cur i g) :=
  scheduleAll_keeps _ _ (·.srReads) (fun _ _ _ => rfl) ..

theorem getsrWrites_mem {u : State} {g : Guard} {w k l : Nat} (d : Reg) (r : SysReg) (hl : l ∈ wordLanes u.cur.mask w)
    (hg : (u.cur.view (u.now + k)).guardOn g l = true) :
    ∃ cs, RegWrite.v d.toNat cs ∈ u.getsrWrites g d r (w, k) ∧ (l, ⟨State.sysValue
      { u with blk := landBalctl u.blk (u.cur.due (u.now + k)) } (u.cur.view (u.now + k)) l r, 63⟩) ∈ cs := by
  have hactive : l ∈ wordLanes (u.cur.view (u.now + k)).mask w := (congrArg (l ∈ wordLanes · w) (landed_mask ..)).mpr hl
  exact passWrites_v (List.mem_map.2 ⟨l, List.mem_filter.2 ⟨hactive, hg⟩, rfl⟩) rfl (by simp [resV])

/-- The cell of a lane that a pass runs is on its way, 4 cycles after the pass (R103). -/
theorem getsrV_pends {s : State} {y : BitVec 3} {g : Guard} {d : Reg} {r : SysReg} {w k l : Nat}
    (h : Runs s.settle (.getsr y g d false r) g w k l) :
    PendsV (s.settle.getsrV (.getsr y g d false r) g d r) (s.now + k + 4) d.toNat l ⟨State.sysValue
      { s.settle with blk := landBalctl s.settle.blk (s.settle.cur.due (s.now + k)) }
      (s.settle.view (.getsr y g d false r) k) l r, 63⟩ := by
  obtain ⟨hpass, hlane, hguard⟩ := h
  simp only [State.view, passCycles_getsr, Nat.mul_one] at hguard ⊢
  rw [← settle_now s]
  obtain ⟨cs, hcs, hl⟩ := getsrWrites_mem d r hlane hguard
  have hordered : ((passWords s.settle.cur (.getsr y g d false r) g).zipIdx).Pairwise
      fun a b => s.settle.now + a.2 + 4 ≤ s.settle.now + b.2 + 4 := (zipIdx_ordered _ 0).imp fun _ => by omega
  exact ⟨cs, mem_scheduleAll _ _ hordered hpass hcs, hl⟩

/-- Every pass behind the first is noted to read a register that runs (R107). -/
theorem laterReads_mem {now w k : Nat} {d : Reg} {r : SysReg} {words : List Nat} (hr : srRuns r = true) (hk : k ≠ 0)
    (hw : (w, k) ∈ words.zipIdx) : ⟨now + k, d.toNat, w, r⟩ ∈ laterReads now d r words := by
  rw [laterReads, if_pos hr]
  refine List.mem_map.2 ⟨(w, k), ?_, rfl⟩
  cases words with
  | nil => simp at hw
  | cons a ws =>
    rw [List.zipIdx_cons, List.mem_cons] at hw
    exact hw.resolve_left fun h => hk (Prod.ext_iff.1 h).2

/-- GETSR into a v register: each lane's value 4 cycles after its pass, or its pass's read noted (R27, R28, R107). -/
theorem getsr_v_completes (s : State) (y : BitVec 3) (g : Guard) (d : Reg) (r : SysReg) (h : Issues s (.getsr y g d false r) g)
    (hd : s.settle.cur.d.dmode = true → r ∉ [SysReg.clockLo, .clockHi, .msm, .replays]) :
    ∃ t, exec (.getsr y g d false r) s = .next t ∧ t.cur.at_ = nextPt s.cur.at_ (.getsr y g d false r) ∧ OutsideKept s t
      ∧ RegistersKept s.settle.cur t.cur
      ∧ ∀ w k l, Runs s.settle (.getsr y g d false r) g w k l →
          (r ∉ [SysReg.clockLo, .clockHi, .msm] ∨ k = 0 → PendsV t.cur (s.now + k + 4) d.toNat l ⟨State.sysValue
            { s.settle with blk := landBalctl s.settle.blk (s.settle.cur.due (s.now + k)) }
            (s.settle.view (.getsr y g d false r) k) l r, 63⟩)
          ∧ (r ∈ [SysReg.clockLo, .clockHi, .msm] → k ≠ 0 → (⟨s.now + k, d.toNat, w, r⟩ : SrRead) ∈ t.cur.srReads
              ∧ ∃ x, PendsV t.cur (s.now + k + 4) d.toNat l ⟨x, 63⟩) := by
  refine ⟨_, exec_getsr_v h hd, retire_at_ s (getsrV_at_ ..) .., retire_outsideKept ..,
    retire_registersKept s.settle (getsrV_registersKept ..) .., fun w k l hrun => ?_⟩
  have hpends := retire_pendsV s.settle (getsrV_pends hrun) (.getsr y g d false r)
    (passWords s.settle.cur (.getsr y g d false r) g).length
  refine ⟨fun _ => hpends, fun hr hk => ⟨?_, _, hpends⟩⟩
  have hread := laterReads_mem (now := s.settle.now) (d := d) ((srRuns_iff r).2 hr) hk hrun.pass
  rw [← settle_now s]
  exact (getsrV_srReads ..).symm ▸ List.mem_append_right _ hread

/-- A noted read takes the register's value in the cycle in which its pass issues, and none before (R107). -/
theorem srTick_reads (s : State) (t : Team) (x : SrRead) (l : Nat) (c : VCell) (hx : t.srReads = [x]) (hl : l / 32 = x.word)
    (hf : t.fix = [⟨x.at_ + 4, .v x.dst [(l, c)]⟩]) :
    (s.openCycle t.core = true → (s.core t.core).opens = x.at_ →
      (s.srTick t).fix = [⟨x.at_ + 4, .v x.dst [(l, ⟨s.sysValue t l x.sr, c.cnt⟩)]⟩] ∧ (s.srTick t).srReads = [])
    ∧ (s.openCycle t.core = false ∨ (s.core t.core).opens < x.at_ → s.srTick t = t) := by
  refine ⟨fun ho hn => ?_, fun h => ?_⟩
  · simp [State.srTick, ho, hn, hx, Team.readSr, hf, hl]
  · by_cases ho : s.openCycle t.core = true
    · have hlater : (s.core t.core).opens < x.at_ := h.resolve_left (by simp [ho])
      have hnot : (x.at_ == (s.core t.core).opens) = false := beq_false_of_ne (Nat.ne_of_gt hlater)
      simp only [State.srTick, ho, if_true, hx, List.filter_cons, List.filter_nil, hnot, Bool.false_eq_true, if_false,
        List.foldl_nil, hlater, decide_true]
      rw [← hx]
    · simp [State.srTick, ho]

/-! ### The s form (log 113) -/

theorem getsrS_unselected {u : State} {g : Guard} (h : selectedLanes u.cur u.now g = 0) (i : Instr) (d : Reg) (r : SysReg) :
    u.getsrS i g d r = u.cur := if_pos h

theorem getsrS_selected {u : State} {g : Guard} (h : selectedLanes u.cur u.now g ≠ 0) (i : Instr) (d : Reg) (r : SysReg) :
    u.getsrS i g d r = (u.cur.latch u r).schedule (u.now + ((passWords u.cur i g).length - 1) + 4)
      [.s d.toNat (u.sysValue u.cur (lowestLane u.cur.mask) r)] := if_neg h

theorem getsrS_pends {u : State} {g : Guard} (h : selectedLanes u.cur u.now g ≠ 0) (i : Instr) (d : Reg) (r : SysReg) :
    PendsS (u.getsrS i g d r) (u.now + ((passWords u.cur i g).length - 1) + 4) d.toNat
      (u.sysValue u.cur (lowestLane u.cur.mask) r) := by
  rw [getsrS_selected h]
  exact mem_schedule _ _ (List.mem_singleton_self _)

theorem getsrS_at_ (u : State) (i : Instr) (g : Guard) (d : Reg) (r : SysReg) : (u.getsrS i g d r).at_ = u.cur.at_ := by
  by_cases h : selectedLanes u.cur u.now g = 0
  · rw [getsrS_unselected h]
  · rw [getsrS_selected h, Team.schedule_at_, latch_at_]

theorem getsrS_registersKept (u : State) (i : Instr) (g : Guard) (d : Reg) (r : SysReg) :
    RegistersKept u.cur (u.getsrS i g d r) := by
  by_cases h : selectedLanes u.cur u.now g = 0
  · rw [getsrS_unselected h]
    exact .refl _
  · rw [getsrS_selected h]
    exact schedule_registersKept (latch_registersKept ..) ..

theorem getsr_s_completes (s : State) (y : BitVec 3) (g : Guard) (d : Reg) (r : SysReg) :
    let i := Instr.getsr y g d true r
    Issues s i g → (s.settle.cur.d.dmode = true → r ∉ [SysReg.clockLo, .clockHi, .msm, .replays]) →
      ∃ t, exec i s = .next t ∧ t.cur.at_ = nextPt s.cur.at_ i ∧ RegistersKept s.settle.cur t.cur ∧ OutsideKept s t
        ∧ (selectedLanes s.settle.cur s.now g = 0 → t.cur.fix = s.settle.cur.fix)
        ∧ (selectedLanes s.settle.cur s.now g ≠ 0 → PendsS t.cur (s.now + ((passWords s.settle.cur i g).length - 1) + 4) d.toNat
            (s.settle.sysValue s.settle.cur (lowestLane s.settle.cur.mask) r)) := by
  intro i h hd
  rw [← settle_now s]
  refine ⟨_, exec_getsr_s h hd, retire_at_ s (getsrS_at_ ..) .., retire_registersKept s.settle (getsrS_registersKept ..) ..,
    retire_outsideKept .., fun hsel => ?_, fun hsel => ?_⟩
  · exact (retire_fix ..).trans (congrArg Team.fix (getsrS_unselected hsel i d r))
  · exact retire_pendsS s.settle (getsrS_pends hsel i d r) ..

/-! ### A D-mode team (R271) -/

theorem getsr_forbidden_traps (s : State) (y : BitVec 3) (g : Guard) (d : Reg) (k : Bool) (r : SysReg)
    (h : Issues s (.getsr y g d k r) g) (hd : s.settle.cur.d.dmode = true)
    (hr : r ∈ [SysReg.clockLo, .clockHi, .msm, .replays]) (ht : TrapsHere s) :
    ∃ t, exec (.getsr y g d k r) s = .next t ∧ TrappedAll s t 0x15 3 :=
  ⟨_, exec_getsr_forbidden h hd hr, trapAll_trapped ht ..⟩

end Sys2Proof.Machine
end

section
/-! PROOFS. SETSR (R106, R209, R215): the values on their way, and the read-only registers. -/

namespace Sys2Proof.Machine

/-- The team of a SETSR, with the value of each pass on its way (R103, R106). -/
def State.setsrTeam (u : State) (b : Reg) (bk : Bool) (r : SysReg) : Team :=
  u.cur.scheduleAll (fun x => u.now + x.1 + 4) (fun x => [.sys r x.2]) (setsrValues (u.cur.view u.now) u.now b bk r)

theorem exec_setsr {s : State} {y : BitVec 3} {b : Reg} {bk : Bool} {r : SysReg} (h : Issues s (.setsr y b bk r) .pt) :
    let i := Instr.setsr y b bk r
    exec i s = .next (State.retire { s.settle with cur := s.settle.setsrTeam b bk r } i (s.settle.passes i .pt)) := by
  show Host.Outcome.next _ = _
  rw [issue_of h]
  rfl

theorem setsrValues_ordered (t : Team) (now : Nat) (b : Reg) (bk : Bool) (r : SysReg) :
    (setsrValues t now b bk r).Pairwise fun x z => x.1 ≤ z.1 := by
  unfold setsrValues
  split
  · split
    · exact List.pairwise_singleton ..
    · exact List.pairwise_map.2 (zipIdx_ordered ..)
  · exact List.pairwise_singleton ..

theorem setsrTeam_at_ (u : State) (b : Reg) (bk : Bool) (r : SysReg) : (u.setsrTeam b bk r).at_ = u.cur.at_ :=
  scheduleAll_keeps _ _ (·.at_) (fun _ _ _ => rfl) ..

theorem setsrTeam_registersKept (u : State) (b : Reg) (bk : Bool) (r : SysReg) : RegistersKept u.cur (u.setsrTeam b bk r) :=
  scheduleAll_registersKept _ _ (.refl _) _

theorem setsrTeam_pends {s : State} {b : Reg} {bk : Bool} {r : SysReg} {k : Nat} {xs : List (Nat × Word)}
    (h : (k, xs) ∈ setsrValues (s.settle.cur.view s.now) s.now b bk r) :
    (⟨s.now + k + 4, .sys r xs⟩ : FixWrite) ∈ (s.settle.setsrTeam b bk r).fix := by
  rw [← settle_now s] at h ⊢
  exact mem_scheduleAll _ _ ((setsrValues_ordered ..).imp fun _ => by omega) h (List.mem_singleton_self _)

/-- SETSR: its value, or TRAPMASK's words, are due 4 cycles after the pass that reads them (R103, R106, R209). -/
theorem setsr_completes (s : State) (y : BitVec 3) (b : Reg) (bk : Bool) (r : SysReg) (h : Issues s (.setsr y b bk r) Guard.pt) :
    let v := s.settle.cur.view s.now
    ∃ t, exec (.setsr y b bk r) s = .next t
      ∧ t.cur.at_ = nextPt s.cur.at_ (.setsr y b bk r)
      ∧ (r ≠ .trapmask → (⟨s.now + 4, .sys r [(0, v.srcB bk b (lowestLane v.mask))]⟩ : FixWrite) ∈ t.cur.fix)
      ∧ (r = .trapmask → bk = true →
          (⟨s.now + 4, .sys r ((List.range 32).map fun w => (w, v.rs b.toNat))⟩ : FixWrite) ∈ t.cur.fix)
      ∧ (r = .trapmask → bk = false → ∀ w k, (w, k) ∈ (activeWords v.mask).zipIdx →
          (⟨s.now + k + 4, .sys r [(w, ((v.view (s.now + k)).rv b.toNat ((wordLanes v.mask w).headD 0)).val)]⟩ : FixWrite)
            ∈ t.cur.fix)
      ∧ RegistersKept s.settle.cur t.cur ∧ OutsideKept s t := by
  intro v
  refine ⟨_, exec_setsr h, retire_at_ s (setsrTeam_at_ ..) .., fun hr => ?_, fun hr hb => ?_, fun hr hb w k hw => ?_,
    retire_registersKept s.settle (setsrTeam_registersKept ..) .., retire_outsideKept ..⟩
  · refine setsrTeam_pends (k := 0) ?_
    simp [setsrValues, hr, v]
  · refine setsrTeam_pends (k := 0) ?_
    simp [setsrValues, hr, hb, v]
  · refine setsrTeam_pends ?_
    simp only [setsrValues, hr, hb, if_true, Bool.false_eq_true, if_false]
    exact List.mem_map.2 ⟨(w, k), hw, rfl⟩

theorem setsr_readOnly_traps {s : State} (y : BitVec 3) (b : Reg) (bk : Bool) {r : SysReg} (hr : SysReg.writable r = false)
    (h : TrapsHere s) :
    ∃ t, exec (.setsr y b bk r) s = .next t ∧ TrappedAll s t 0x03 (encodeWord0 (.setsr y b bk r)) := by
  have hb : badOperands s.settle.cur (.setsr y b bk r) = true := by simp [badOperands, hr]
  exact ⟨_, congrArg Host.Outcome.next (issue_badOperands h hb .pt _), trapAll_trapped h ..⟩

end Sys2Proof.Machine
end

section
/-! PROOFS. What each system register keeps of a value that lands (R12, R105, R175, R176, R201, R208, R209, R308). -/

namespace Sys2Proof.Machine

/-! ### What the registers keep of a value -/

@[simp] theorem lo32_pair64 (lo hi : Word) : lo32 (pair64 lo hi) = lo := BitVec.extractLsb'_append_eq_right
@[simp] theorem hi32_pair64 (lo hi : Word) : hi32 (pair64 lo hi) = hi := BitVec.extractLsb'_append_eq_left

/-- θ above 24 is kept as 24 (R201). -/
theorem sbthrOf_eq (x : Word) : sbthrOf x = (x &&& 0x80000000) ||| BitVec.ofNat 32 (min 24 (x.toNat % 64)) := by
  have hnat : (x &&& 0x3F).toNat = x.toNat % 64 := by
    rw [BitVec.toNat_and]
    exact Nat.and_two_pow_sub_one_eq_mod x.toNat 6
  have hword : x &&& 0x3F = BitVec.ofNat 32 (x.toNat % 64) := by
    rw [← hnat, BitVec.ofNat_toNat, BitVec.setWidth_eq]
  rw [sbthrOf, hnat, hword]
  split
  · rw [Nat.min_eq_left (by omega)]
    rfl
  · rw [Nat.min_eq_right (by omega)]

theorem mappedCause_iff (c : BitVec 8) : mappedCause c = true ↔
    c ∈ ([0x04, 0x09, 0x0A, 0x0B, 0x0C, 0x0D, 0x0E, 0x10, 0x12, 0x15, 0x16] : List (BitVec 8)) := by
  revert c
  decide

theorem cpyerrSet_valid (old x : Word) : (cpyerrSet old x).getLsbD 31 = (old.getLsbD 31 && !x.getLsbD 31) := by
  simp [cpyerrSet]

theorem cpyerrSet_fields (old x : Word) : cpyerrSet old x &&& 0x7FFFFFFF = x &&& 0x073FFC00 := by
  rw [cpyerrSet, BitVec.and_or_distrib_right, BitVec.and_assoc, BitVec.and_assoc x]
  simp

/-- A one in word `w` clears its lane (R209). -/
theorem clearWord_getLsbD (m : LaneMask) (w : Nat) (x : Word) {l : Nat} (hl : l < 1024) :
    (clearWord m (w, x)).getLsbD l = (m.getLsbD l && !(decide (l / 32 = w) && x.getLsbD (l % 32))) := by
  have hbit : (!decide (l < 32 * w) && x.getLsbD (l - 32 * w)) = (decide (l / 32 = w) && x.getLsbD (l % 32)) := by
    by_cases hw : l / 32 = w
    · have hlow : ¬ l < 32 * w := by omega
      have hmod : l - 32 * w = l % 32 := by omega
      simp [hw, hlow, hmod]
    · by_cases hlow : l < 32 * w
      · simp [hw, hlow]
      · simp [hw, BitVec.getLsbD_of_ge x (l - 32 * w) (by omega)]
  simp [clearWord, hl, hbit]

/-! ### A SETSR's value lands: one register takes it, the others are as before -/

section
variable (t : Team) (r : SysReg) (w : Nat) (x : Word)

@[simp] theorem sysWrite_v (xs : List (Nat × Word)) : (t.sysWrite r xs).v = t.v := by cases r <;> rfl
@[simp] theorem sysWrite_s (xs : List (Nat × Word)) : (t.sysWrite r xs).s = t.s := by cases r <;> rfl
@[simp] theorem sysWrite_p (xs : List (Nat × Word)) : (t.sysWrite r xs).p = t.p := by cases r <;> rfl

theorem sysWrite_fpctl : (t.sysWrite r [(w, x)]).fpctl = if r = .fpctl then x &&& 0x11F else t.fpctl := by cases r <;> rfl
theorem sysWrite_fpstat : (t.sysWrite r [(w, x)]).fpstat = if r = .fpstat then x &&& 0x1F else t.fpstat := by cases r <;> rfl
theorem sysWrite_amask : (t.sysWrite r [(w, x)]).amask = if r = .trapn then x.getLsbD 30 else t.amask := by cases r <;> rfl
theorem sysWrite_nopre : (t.sysWrite r [(w, x)]).nopre = if r = .trapn then x.getLsbD 29 else t.nopre := by cases r <;> rfl
theorem sysWrite_replays : (t.sysWrite r [(w, x)]).replays = if r = .replays then x else t.replays := by cases r <;> rfl
theorem sysWrite_cause : (t.sysWrite r [(w, x)]).cause = if r = .trapcause then x.extractLsb' 0 8 else t.cause := by
  cases r <;> rfl
theorem sysWrite_cpyerr : (t.sysWrite r [(w, x)]).cpyerr = if r = .cpyerr then cpyerrSet t.cpyerr x else t.cpyerr := by
  cases r <;> rfl

theorem sysWrite_sbthr : (t.sysWrite r [(w, x)]).sbthr
    = if r = .sbthr then (x &&& 0x80000000) ||| BitVec.ofNat 32 (min 24 (x.toNat % 64)) else t.sbthr := by
  cases r
  case sbthr => exact sbthrOf_eq x
  all_goals rfl

theorem sysWrite_datum : (t.sysWrite r [(w, x)]).datum = if r = .trapdata ∧ t.cause ∉
    ([0x04, 0x09, 0x0A, 0x0B, 0x0C, 0x0D, 0x0E, 0x10, 0x12, 0x15, 0x16] : List (BitVec 8)) then x else t.datum := by
  cases r
  case trapdata =>
    simp only [Team.sysWrite, mappedCause_iff, true_and, ite_not]
    rfl
  all_goals rfl

theorem sysWrite_trapmask {l : Nat} (hl : l < 1024) : (t.sysWrite r [(w, x)]).trapmask.getLsbD l = (t.trapmask.getLsbD l
    && !(r == .trapmask && decide (l / 32 = w) && x.getLsbD (l % 32))) := by
  cases r
  case trapmask => exact clearWord_getLsbD t.trapmask w x hl
  all_goals exact (Bool.and_true _).symm

theorem sysWrite_trappc_lo : lo32 (t.sysWrite r [(w, x)]).trappc = if r = .trappcLo then x else lo32 t.trappc := by
  cases r
  case trappcLo => exact lo32_pair64 ..
  case trappcHi => exact lo32_pair64 ..
  all_goals rfl

theorem sysWrite_trappc_hi : hi32 (t.sysWrite r [(w, x)]).trappc = if r = .trappcHi then x else hi32 t.trappc := by
  cases r
  case trappcLo => exact hi32_pair64 ..
  case trappcHi => exact hi32_pair64 ..
  all_goals rfl

theorem sysWrite_rndkey_lo : lo32 (t.sysWrite r [(w, x)]).rndkey = if r = .rndkeyLo then x else lo32 t.rndkey := by
  cases r
  case rndkeyLo => exact lo32_pair64 ..
  case rndkeyHi => exact lo32_pair64 ..
  all_goals rfl

theorem sysWrite_rndkey_hi : hi32 (t.sysWrite r [(w, x)]).rndkey = if r = .rndkeyHi then x else hi32 t.rndkey := by
  cases r
  case rndkeyLo => exact hi32_pair64 ..
  case rndkeyHi => exact hi32_pair64 ..
  all_goals rfl

end

/-! ### One result alone on its way -/

theorem due_single {t : Team} {n m : Nat} {w : RegWrite} (hf : t.fix = [⟨n, w⟩]) (hn : n ≤ m) : t.due m = [⟨n, w⟩] := by
  simp [Team.due, hf, hn, sortBy, insertBy]

theorem landed_single {t : Team} {n m : Nat} {w : RegWrite} (hf : t.fix = [⟨n, w⟩]) (hs : t.spad = []) (hn : n ≤ m) :
    t.landed m = { t.put w with fix := [], spad := [] } := by
  have harrives : t.arrivals m = [⟨n, w⟩] := by simp [Team.arrivals, hf, hs, hn, sortBy, insertBy]
  simp [Team.landed, harrives, hf, hs, hn]

theorem setsr_lands (t : Team) (n m w : Nat) (r : SysReg) (x : Word) (hf : t.fix = [⟨n, .sys r [(w, x)]⟩]) (hs : t.spad = [])
    (hn : n ≤ m) :
    let u := t.landed m
    u.fix = [] ∧ u.v = t.v ∧ u.s = t.s ∧ u.p = t.p
      ∧ u.fpctl = (if r = .fpctl then x &&& 0x11F else t.fpctl)
      ∧ u.fpstat = (if r = .fpstat then x &&& 0x1F else t.fpstat)
      ∧ u.sbthr = (if r = .sbthr then (x &&& 0x80000000) ||| BitVec.ofNat 32 (min 24 (x.toNat % 64)) else t.sbthr)
      ∧ u.amask = (if r = .trapn then x.getLsbD 30 else t.amask) ∧ u.nopre = (if r = .trapn then x.getLsbD 29 else t.nopre)
      ∧ u.cause = (if r = .trapcause then x.extractLsb' 0 8 else t.cause) ∧ u.datum = (if r = .trapdata
          ∧ t.cause ∉ ([0x04, 0x09, 0x0A, 0x0B, 0x0C, 0x0D, 0x0E, 0x10, 0x12, 0x15, 0x16] : List (BitVec 8)) then x else t.datum)
      ∧ (∀ l, l < 1024 → u.trapmask.getLsbD l = (t.trapmask.getLsbD l
          && !(r == .trapmask && decide (l / 32 = w) && x.getLsbD (l % 32))))
      ∧ u.trappc.extractLsb' 0 32 = (if r = .trappcLo then x else t.trappc.extractLsb' 0 32)
      ∧ u.trappc.extractLsb' 32 32 = (if r = .trappcHi then x else t.trappc.extractLsb' 32 32)
      ∧ (r = .cpyerr → u.cpyerr.getLsbD 31 = (t.cpyerr.getLsbD 31 && !x.getLsbD 31) ∧ u.cpyerr &&& 0x7FFFFFFF = x &&& 0x073FFC00)
      ∧ (r ≠ .cpyerr → u.cpyerr = t.cpyerr)
      ∧ u.replays = (if r = .replays then x else t.replays)
      ∧ u.rndkey.extractLsb' 0 32 = (if r = .rndkeyLo then x else t.rndkey.extractLsb' 0 32)
      ∧ u.rndkey.extractLsb' 32 32 = (if r = .rndkeyHi then x else t.rndkey.extractLsb' 32 32) := by
  have hcpyerr : (t.put (.sys r [(w, x)])).cpyerr = if r = .cpyerr then cpyerrSet t.cpyerr x else t.cpyerr := sysWrite_cpyerr ..
  rw [landed_single hf hs hn]
  refine ⟨rfl, sysWrite_v .., sysWrite_s .., sysWrite_p .., sysWrite_fpctl .., sysWrite_fpstat .., sysWrite_sbthr ..,
    sysWrite_amask .., sysWrite_nopre .., sysWrite_cause .., sysWrite_datum .., fun l hl => sysWrite_trapmask t r w x hl,
    sysWrite_trappc_lo .., sysWrite_trappc_hi .., fun hr => ?_, fun hr => hcpyerr.trans (if_neg hr), sysWrite_replays ..,
    sysWrite_rndkey_lo .., sysWrite_rndkey_hi ..⟩
  rw [hcpyerr, if_pos hr]
  exact ⟨cpyerrSet_valid .., cpyerrSet_fields ..⟩

/-- BALCTL is the block's: its limits only fall, and 0 counts as 1 (R12; log 94). -/
theorem balctl_lands (s : State) (n : Nat) (x : Word) (hf : s.cur.fix = [⟨n, .sys .balctl [(0, x)]⟩])
    (hn : n ≤ s.landAt s.cur.core) :
    let b := s.settle.blk
    b.t1 = min s.blk.t1 (max 1 (x.toNat / 2 ^ 16 % 32)) ∧ b.t2 = min s.blk.t2 (max 1 (x.toNat / 2 ^ 21 % 32))
      ∧ b.auto = x.getLsbD 4 ∧ b.alvl = x.toNat % 16 ∧ b.hold = s.blk.hold ∧ b.t1win = s.blk.t1win ∧ b.t2win = s.blk.t2win := by
  simp [due_single hf hn, landBalctl, Block.setBalctl, bitsOf, Nat.shiftRight_eq_div_pow]

/-! ### The statement -/

/-- Settles O29: GETSR and SETSR run as the two forms and the traps above, `State.sysValue` has a line for each register, and a
value that lands alone writes what its register keeps. -/
theorem systemRegisters : Obligations.SystemRegisters := by
  unfold Obligations.SystemRegisters
  refine ⟨⟨getsr_v_completes, srTick_reads, getsr_s_completes, getsr_forbidden_traps, fun s t l => ?_⟩, fun s y b bk r => ?_,
    fun t n m w r x hf hs hn _ => setsr_lands t n m w r x hf hs hn, balctl_lands⟩
  · exact ⟨rfl, rfl, rfl, rfl, rfl, rfl, rfl, rfl, rfl, rfl⟩
  · exact ⟨setsr_completes s y b bk r, setsr_readOnly_traps y b bk⟩

end Sys2Proof.Machine
end

section
/-! PROOFS. What a step runs (R29, R36, R95, R113, R114): the fetch of the current team, the issue of a chosen team, and the
step of a machine in which a team goes on without an issue cycle. -/

namespace Sys2Proof.Machine

/-! ### The fetch at the current team's place -/

section
variable {s s1 s2 : State} {w0 w1 : Word} {i : Instr}

/-- Before a clause the word fetched is a header (R95). -/
theorem fetchNext_header (hf : s.fetch s.cur.at_.pc = (s1, .ok w0)) (hl : s.cur.at_.left = 0) :
    s.fetchNext = (s1, .header w0) := by
  simp [State.fetchNext, hf, hl]

theorem fetchNext_short (hf : s.fetch s.cur.at_.pc = (s1, .ok w0)) (hl : s.cur.at_.left ≠ 0) (h25 : w0.getLsbD 25 = false)
    (hd : decode (bytesOfWord w0) = .ok (i, [])) : s.fetchNext = (s1, .instr i) := by
  simp only [State.fetchNext, hf, hl, h25, hd, if_false, Bool.false_eq_true]

theorem fetchNext_long (hf : s.fetch s.cur.at_.pc = (s1, .ok w0)) (hl : s.cur.at_.left ≠ 0) (h25 : w0.getLsbD 25 = true)
    (hf' : s1.fetch (s.cur.at_.pc + 4) = (s2, .ok w1)) (hd : decode (bytesOfWord w0 ++ bytesOfWord w1) = .ok (i, [])) :
    s.fetchNext = (s2, .instr i) := by
  simp only [State.fetchNext, hf, hl, h25, hf', hd, if_false, if_true]

theorem runNext_header (h : s.fetchNext = (s1, .header w0)) : s.runNext = exec (.clauseHeader w0) s1 := by
  simp [State.runNext, h]

theorem runNext_instr (h : s.fetchNext = (s1, .instr i)) : s.runNext = exec i s1 := by simp [State.runNext, h]
end

/-! ### Which step it is -/

section
variable {s : State}

/-- Outside a selective replay the chosen team runs what it fetches (R146). -/
theorem issueStep_of_not_redoing (h : s.cur.redoing = false) : s.issueStep = s.runNext := by
  unfold State.issueStep
  split
  next w hw =>
    split
    next r hr => simp [Team.redoing, hw, hr] at h
    next => rfl
  next => rfl

theorem step_of_issuing (ha : s.agenda = []) (hi : s.issuing = true) : step s = s.issueStep := by
  simp [step, State.stepOf, ha, hi]

theorem step_of_not_issuing (ha : s.agenda = []) (hi : s.issuing = false) : step s = s.idleStep := by
  simp [step, State.stepOf, ha, hi]

/-- Of the teams with something to do without an issue cycle the current one is the first. -/
theorem headerTeam_current (h : (s.headerDue s.cur || s.silentDue s.cur) = true) : s.headerTeam = some s.cur.uid := by
  simp [State.headerTeam, State.allTeams, h]

theorem idleStep_of_headerTeam {uid : Nat} (ho : s.ownEvent = none) (hd : s.firstChange s.deviceEvents = none)
    (hu : s.headerTeam = some uid) : s.idleStep = s.headerStep uid := by
  simp [State.idleStep, ho, hd, hu]

theorem headerStep_current (hh : Homed s) : s.headerStep s.cur.uid = State.runNext { s with sel := false } := by
  obtain ⟨hst, hlive, hbid⟩ := hh
  rw [State.headerStep, focus_current hst hlive hbid]

/-- Where nothing else is to be done before, a current team that needs no issue cycle runs what it fetches (R36, R95). -/
theorem step_without_issue (ha : s.agenda = []) (hi : s.issuing = false) (ho : s.ownEvent = none)
    (hd : s.firstChange s.deviceEvents = none) (hs : (s.headerDue s.cur || s.silentDue s.cur) = true) (hh : Homed s) :
    step s = State.runNext { s with sel := false } := by
  rw [step_of_not_issuing ha hi, idleStep_of_headerTeam ho hd (headerTeam_current hs), headerStep_current hh]

theorem left_of_headerDue {t : Team} (h : s.headerDue t = true) : t.at_.left = 0 := by
  simp only [State.headerDue, Bool.and_eq_true, beq_iff_eq] at h
  exact h.1.2
end

/-! ### The statement -/

/-- Settles O4: a chosen team and one that needs no issue cycle both run what `State.fetchNext` gives. -/
theorem stepRunsFetched : Obligations.StepRunsFetched := by
  unfold Obligations.StepRunsFetched
  refine ⟨fun s s1 w0 ha hi hr hf hl => ?_, fun s s1 w0 ha hi ho hd hdue hh hf => ?_,
    fun s s1 i ha hi ho hd hdue hh hf => ?_⟩
  · have hstep : step s = s.runNext := (step_of_issuing ha hi).trans (issueStep_of_not_redoing hr)
    refine ⟨fun i h25 hdec => ?_, fun s2 w1 i h25 hf' hdec => ?_⟩
    · exact hstep.trans (runNext_instr (fetchNext_short hf hl h25 hdec))
    · exact hstep.trans (runNext_instr (fetchNext_long hf hl h25 hf' hdec))
  · have hrun : step s = State.runNext { s with sel := false } := step_without_issue ha hi ho hd (by simp [hdue]) hh
    exact hrun.trans (runNext_header (fetchNext_header hf (left_of_headerDue hdue)))
  · have hrun : step s = State.runNext { s with sel := false } := step_without_issue ha hi ho hd (by simp [hdue]) hh
    exact hrun.trans (runNext_instr hf)

end Sys2Proof.Machine
end

section
/-! PROOFS. The choice of a team by a quadrant (R30, R31). -/

namespace Sys2Proof.Machine

/-! ### The oldest of some teams -/

theorem minBy_exists {α : Type} (key : α → Nat) {l : List α} (h : l ≠ []) : ∃ a, minBy key l = some a := by
  cases l with
  | nil => exact absurd rfl h
  | cons x r =>
    simp only [minBy]
    split
    · exact ⟨_, rfl⟩
    · split <;> exact ⟨_, rfl⟩

/-- The first element with the least key is one of the list, and none has a lesser key. -/
theorem minBy_least {α : Type} {key : α → Nat} {l : List α} {a : α} (h : minBy key l = some a) :
    a ∈ l ∧ ∀ b ∈ l, key a ≤ key b := by
  induction l generalizing a with
  | nil => cases h
  | cons x r ih =>
    cases hr : minBy key r with
    | none =>
      have hnil : r = [] := Decidable.byContradiction fun hne => by
        obtain ⟨b, hb⟩ := minBy_exists key hne
        rw [hr] at hb
        cases hb
      simp only [minBy, hr, Option.some.injEq] at h
      simp [hnil, h]
    | some b =>
      obtain ⟨hmem, hle⟩ := ih hr
      simp only [minBy, hr] at h
      split at h
      next hlt =>
        cases h
        exact ⟨List.mem_cons_of_mem _ hmem, List.forall_mem_cons.2 ⟨Nat.le_of_lt hlt, hle⟩⟩
      next hge =>
        cases h
        exact ⟨List.mem_cons_self, List.forall_mem_cons.2 ⟨Nat.le_refl _, fun c hc => Nat.le_trans (Nat.not_lt.1 hge) (hle c hc)⟩⟩

@[simp] theorem starved_iff (t : Team) : t.starved = true ↔ 65536 ≤ t.starve := decide_eq_true_iff

/-- Of teams none of which has starved the oldest is chosen (R30). -/
theorem pickOldest_oldest {ts : List Team} (hne : ts ≠ []) (hn : ∀ t ∈ ts, t.starve < 65536) :
    ∃ u, pickOldest ts = some u ∧ u ∈ ts ∧ ∀ w ∈ ts, u.age ≤ w.age := by
  obtain ⟨u, hu⟩ := minBy_exists (·.age) hne
  have hnone : ts.filter Team.starved = [] := by
    refine List.filter_eq_nil_iff.2 fun t ht => ?_
    rw [starved_iff]
    exact Nat.not_le.2 (hn t ht)
  exact ⟨u, by rw [pickOldest, hnone]; exact hu, minBy_least hu⟩

/-- Where a team has starved the oldest of those that have is chosen (R30). -/
theorem pickOldest_starved {ts : List Team} (h : ∃ t ∈ ts, 65536 ≤ t.starve) :
    ∃ u, pickOldest ts = some u ∧ u ∈ ts ∧ 65536 ≤ u.starve ∧ ∀ w ∈ ts, 65536 ≤ w.starve → u.age ≤ w.age := by
  obtain ⟨t, ht, hstarve⟩ := h
  have hmem : t ∈ ts.filter Team.starved := List.mem_filter.2 ⟨ht, (starved_iff t).2 hstarve⟩
  obtain ⟨u, hu⟩ := minBy_exists (·.age) (List.ne_nil_of_mem hmem)
  obtain ⟨humem, hle⟩ := minBy_least hu
  obtain ⟨huts, hust⟩ := List.mem_filter.1 humem
  exact ⟨u, by rw [pickOldest, hu], huts, (starved_iff u).1 hust,
    fun w hw hws => hle w (List.mem_filter.2 ⟨hw, (starved_iff w).2 hws⟩)⟩

theorem pickOldest_exists {ts : List Team} (hne : ts ≠ []) : ∃ u, pickOldest ts = some u ∧ u ∈ ts := by
  by_cases h : ∃ t ∈ ts, 65536 ≤ t.starve
  · obtain ⟨u, hu, hmem, -⟩ := pickOldest_starved h
    exact ⟨u, hu, hmem⟩
  · obtain ⟨u, hu, hmem, -⟩ := pickOldest_oldest hne fun t ht => Nat.not_le.1 fun hs => h ⟨t, ht, hs⟩
    exact ⟨u, hu, hmem⟩

/-! ### A team made the one that acts -/

section
variable {s : State} {c q : Nat} {t : Team}

@[simp] theorem State.focusBlock_cur (s : State) (bid : Nat) : (s.focusBlock bid).cur = s.cur := by
  unfold State.focusBlock
  split
  · rfl
  · split <;> rfl

theorem focus_uid (ht : t ∈ s.allTeams) (hst : t.st ≠ .vacant) : (s.focus t.uid).cur.uid = t.uid := by
  unfold State.focus
  split
  next hcur =>
    simp only [Bool.and_eq_true, beq_iff_eq] at hcur
    rw [State.focusBlock_cur]
    exact hcur.2
  next hcur =>
    have hrest : t ∈ s.teams := by
      rcases List.mem_cons.1 ht with rfl | h
      · simp [hst] at hcur
      · exact h
    split
    next hnone => exact absurd (List.find?_eq_none.1 hnone t hrest) (by simp [hst])
    next u hu =>
      have hfound := List.find?_some hu
      simp only [Bool.and_eq_true, beq_iff_eq] at hfound
      rw [State.focusBlock_cur]
      exact hfound.2

theorem mem_allTeams_of_readyOn (h : t ∈ s.readyOn c q) : t ∈ s.allTeams ∧ t.st ≠ .vacant := by
  obtain ⟨hmem, hready⟩ := List.mem_filter.1 h
  simp only [Bool.and_eq_true, bne_iff_ne] at hready
  exact ⟨hmem, hready.1.1.1⟩

theorem chooseTeam_uid (h : t ∈ s.readyOn c q) : (s.chooseTeam c q t).cur.uid = t.uid := by
  obtain ⟨hmem, hst⟩ := mem_allTeams_of_readyOn h
  exact focus_uid (s := s.onQuad c q _) hmem hst

@[simp] theorem chooseTeam_sel (s : State) (c q : Nat) (t : Team) : (s.chooseTeam c q t).sel = true := rfl
end

/-! ### The choice -/

/-- The team a quadrant issued from last, by name. -/
def State.currentOn (s : State) (c q : Nat) : Nat := ((s.core c).quads.getD q .reset).current

/-- The ready teams of a quadrant other than its current one. -/
def State.othersOn (s : State) (c q : Nat) : List Team := (s.readyOn c q).filter fun t => t.uid ≠ s.currentOn c q

section
variable {s : State} {c q : Nat} {u : Team}

theorem mem_othersOn : u ∈ s.othersOn c q ↔ u ∈ s.readyOn c q ∧ u.uid ≠ s.currentOn c q := by simp [State.othersOn]

/-- A current team that is ready and need not give way goes on (R30). -/
theorem pick_goes_on (h : ∃ u ∈ s.readyOn c q, u.uid = s.currentOn c q) :
    ∃ u ∈ s.readyOn c q, u.uid = s.currentOn c q ∧ s.pick c q false = s.chooseTeam c q u := by
  have hsome : ((s.readyOn c q).find? fun t => t.uid = s.currentOn c q).isSome = true := by simpa using h
  obtain ⟨t, ht⟩ := Option.isSome_iff_exists.1 hsome
  refine ⟨t, List.mem_of_find?_eq_some ht, by simpa using List.find?_some ht, ?_⟩
  unfold State.currentOn at ht
  simp only [State.pick, ht]
  cases pickOldest ((s.readyOn c q).filter fun t => t.uid ≠ ((s.core c).quads.getD q .reset).current) <;> rfl

/-- A current team that gives way, or is not ready, is followed by the oldest of the others (R30). -/
theorem pick_other {force : Bool} (hu : pickOldest (s.othersOn c q) = some u)
    (h : force = true ∨ ∀ t ∈ s.readyOn c q, t.uid ≠ s.currentOn c q) : s.pick c q force = s.chooseTeam c q u := by
  unfold State.othersOn State.currentOn at hu
  unfold State.currentOn at h
  cases hfind : (s.readyOn c q).find? fun t => t.uid = ((s.core c).quads.getD q .reset).current with
  | none => simp only [State.pick, hfind, hu]
  | some t =>
    have hready : ∃ t ∈ s.readyOn c q, t.uid = ((s.core c).quads.getD q .reset).current :=
      ⟨t, List.mem_of_find?_eq_some hfind, by simpa using List.find?_some hfind⟩
    have hforce : force = true := h.resolve_right fun hn => hready.elim fun w hw => hn w hw.1 hw.2
    simp only [State.pick, hfind, hu, hforce, if_true]
end

/-! ### The events of a free quadrant -/

section
variable {s : State} {c q : Nat}

theorem exec_issueCycle (hf : s.quadFree c q = true) : exec (.issueCycle c q) s = .next (s.pick c q (s.giveWay c q)) :=
  congrArg Host.Outcome.next (if_pos hf)

theorem exec_greedyLimit (hf : s.quadFree c q = true) (hg : 4096 ≤ ((s.core c).quads.getD q .reset).greedy) :
    exec (.greedyLimit c q) s = .next (s.pick c q true) :=
  congrArg Host.Outcome.next (if_pos (by rw [hf, decide_eq_true (p := Config.greedyLimit ≤ _) hg]; rfl))

theorem exec_starvationOverride (hf : s.quadFree c q = true) (hs : s.starves c q = true) :
    exec (.starvationOverride c q) s = .next (s.pick c q true) :=
  congrArg Host.Outcome.next (if_pos (by simp [hf, hs]))

theorem starves_of (h : ∃ u ∈ s.readyOn c q, u.uid ≠ s.currentOn c q ∧ 65536 ≤ u.starve) : s.starves c q = true := by
  obtain ⟨u, hu, hne, hst⟩ := h
  refine List.any_eq_true.2 ⟨u, hu, ?_⟩
  rw [Bool.and_eq_true, bne_iff_ne, starved_iff]
  exact ⟨hne, hst⟩

theorem issueCycle_goes_on (hf : s.quadFree c q = true) (hg : s.giveWay c q = false)
    (h : ∃ u ∈ s.readyOn c q, u.uid = s.currentOn c q) :
    ∃ t, exec (.issueCycle c q) s = .next t ∧ t.sel = true ∧ t.cur.uid = s.currentOn c q ∧ t.mem = s.mem := by
  obtain ⟨u, hu, huid, hpick⟩ := pick_goes_on h
  have he := exec_issueCycle hf
  rw [hg, hpick] at he
  exact ⟨_, he, chooseTeam_sel .., (chooseTeam_uid hu).trans huid, State.chooseTeam_mem ..⟩

theorem issueCycle_takes_oldest (hf : s.quadFree c q = true) (hcur : ∀ u ∈ s.readyOn c q, u.uid ≠ s.currentOn c q)
    (hst : ∀ u ∈ s.readyOn c q, u.starve < 65536) (hne : s.readyOn c q ≠ []) :
    ∃ t, ∃ u ∈ s.readyOn c q, exec (.issueCycle c q) s = .next t ∧ t.sel = true ∧ t.cur.uid = u.uid
      ∧ ∀ w ∈ s.readyOn c q, u.age ≤ w.age := by
  have hall : s.othersOn c q = s.readyOn c q := List.filter_eq_self.2 fun u hu => decide_eq_true (hcur u hu)
  obtain ⟨u, hu, hmem, hage⟩ := pickOldest_oldest hne hst
  have he := exec_issueCycle hf
  rw [pick_other (hall.symm ▸ hu) (.inr hcur)] at he
  exact ⟨_, u, hmem, he, chooseTeam_sel .., chooseTeam_uid hmem, hage⟩

theorem greedyLimit_takes_another (hf : s.quadFree c q = true) (hg : 4096 ≤ ((s.core c).quads.getD q .reset).greedy)
    (h : ∃ u ∈ s.readyOn c q, u.uid ≠ s.currentOn c q) :
    ∃ t, exec (.greedyLimit c q) s = .next t ∧ t.sel = true ∧ t.cur.uid ≠ s.currentOn c q := by
  obtain ⟨w, hw⟩ := h
  obtain ⟨u, hu, hmem⟩ := pickOldest_exists (List.ne_nil_of_mem (mem_othersOn.2 hw))
  obtain ⟨hready, hne⟩ := mem_othersOn.1 hmem
  have he := exec_greedyLimit hf hg
  rw [pick_other hu (.inl rfl)] at he
  exact ⟨_, he, chooseTeam_sel .., by rwa [chooseTeam_uid hready]⟩

theorem starvationOverride_takes_oldest_starved (hf : s.quadFree c q = true)
    (h : ∃ u ∈ s.readyOn c q, u.uid ≠ s.currentOn c q ∧ 65536 ≤ u.starve) :
    ∃ t, ∃ u ∈ s.readyOn c q, exec (.starvationOverride c q) s = .next t ∧ t.sel = true ∧ t.cur.uid = u.uid
      ∧ u.uid ≠ s.currentOn c q ∧ 65536 ≤ u.starve
      ∧ ∀ w ∈ s.readyOn c q, w.uid ≠ s.currentOn c q → 65536 ≤ w.starve → u.age ≤ w.age := by
  have hex : ∃ u ∈ s.othersOn c q, 65536 ≤ u.starve := by
    obtain ⟨u, hu, hne, hst⟩ := h
    exact ⟨u, mem_othersOn.2 ⟨hu, hne⟩, hst⟩
  obtain ⟨u, hu, hmem, hst, hage⟩ := pickOldest_starved hex
  obtain ⟨hready, hne⟩ := mem_othersOn.1 hmem
  have he := exec_starvationOverride hf (starves_of h)
  rw [pick_other hu (.inl rfl)] at he
  exact ⟨_, u, hready, he, chooseTeam_sel .., chooseTeam_uid hready, hne, hst,
    fun w hw hwne hwst => hage w (mem_othersOn.2 ⟨hw, hwne⟩) hwst⟩
end

end Sys2Proof.Machine
end

section
/-! PROOFS. Trips, clamps, boosts and burns (R50, R52, R53), and what a record that is posted leaves unchanged (R218). -/

namespace Sys2Proof.Machine

/-! ### A posted record -/

/-- What no item of a list changes, the whole list does not change. -/
theorem foldl_keeps {α β : Type} (g : State → β) {f : State → α → State} (hf : ∀ s a, g (f s a) = g s) (l : List α) (s : State) :
    g (l.foldl f s) = g s :=
  List.foldlRecOn (motive := fun t => g t = g s) l f rfl fun t ht a _ => (hf t a).trans ht

section
variable (s : State)

/-- A record goes to memory and to the ring of a function, and changes nothing else. -/
theorem ringPut_keeps {β : Type} (g : State → β) (hg : ∀ (s : State) fs m, g { s with funcs := fs, mem := m } = g s) (f : Nat)
    (get : Func → Ring) (set : Func → Ring → Func) (bs : List Byte) : g (s.ringPut f get set bs) = g s := by
  unfold State.ringPut
  dsimp only
  split
  · rfl
  · split
    · exact hg s _ _
    · exact hg s _ s.mem

/-- Nor does a record posted, but to the list of recent faults (R338). -/
theorem postFault_keeps {β : Type} (g : State → β) (hg : ∀ (s : State) fs m, g { s with funcs := fs, mem := m } = g s)
    (hr : ∀ (s : State) r, g { s with recent := r } = g s) (fs : List Nat) (r : FaultRec) : g (s.postFault fs r) = g s :=
  (hr _ _).trans (foldl_keeps g (fun t f => ringPut_keeps t g hg f ..) (distinct fs) s)

@[simp] theorem postFault_cur (fs : List Nat) (r : FaultRec) : (s.postFault fs r).cur = s.cur :=
  postFault_keeps s State.cur (fun _ _ _ => rfl) (fun _ _ => rfl) fs r

@[simp] theorem postFault_pier (fs : List Nat) (r : FaultRec) (n : Nat) : (s.postFault fs r).pier n = s.pier n :=
  postFault_keeps s (State.pier · n) (fun _ _ _ => rfl) (fun _ _ => rfl) fs r

/-- The record is the newest of the recent faults (R338). -/
theorem postFault_recent_head (fs : List Nat) (r : FaultRec) :
    (s.postFault fs r).recent.head? = some ⟨r.code, r.part, r.srcid, s.clock.toNat⟩ := rfl
end

/-! ### A pier and its joints -/

section
variable {s : State} {n j : Nat}

theorem onPier_pier_same (f : Pier → Pier) (h : n < s.piers.length) : (s.onPier n f).pier n = f (s.pier n) := by
  simp only [State.pier, List.getD_eq_getElem?_getD, State.onPier_piers, upd_getElem?, List.getElem?_eq_getElem h, if_true]
  rfl

theorem upd_getElem?_some {α : Type} {l : List α} {a : α} (f : α → α) (h : l[n]? = some a) : (upd l n f)[n]? = some (f a) := by
  simp [upd_getElem?, h]

theorem onJoint_joint {x : Joint} (f : Joint → Joint) (h : n < s.piers.length) (hx : (s.pier n).joints[j]? = some x) :
    ((s.onJoint n j f).pier n).joints[j]? = some (f x) := by
  rw [State.onJoint, onPier_pier_same _ h]
  exact upd_getElem?_some f hx

theorem onJoint_clampTo (f : Joint → Joint) (h : n < s.piers.length) : ((s.onJoint n j f).pier n).clampTo = (s.pier n).clampTo := by
  rw [State.onJoint, onPier_pier_same _ h]

@[simp] theorem onJoint_cur (s : State) (n j : Nat) (f : Joint → Joint) : (s.onJoint n j f).cur = s.cur := rfl
end

/-! ### The events -/

section
variable {s : State} {n j : Nat} {x : Joint}

theorem tripsT3_iff (m : Int) : tripsT3 m = true ↔ 2750 < m.natAbs := decide_eq_true_iff

/-- A mismatch of 2.75 A or less, the voltage in its window, is no trip (R50). -/
theorem t3Trip_without_cause {m : Int} (h : m.natAbs ≤ 2750) : exec (.t3Trip n j m false) s = .next s := by
  have hno : tripsT3 m = false := decide_eq_false (Nat.not_lt.2 h)
  exact congrArg Host.Outcome.next (if_pos (by simp [hno]))

/-- A trip clamps its pier from now on and posts its record (R50). -/
theorem t3Trip_clamps {m : Int} {b : Bool} (hn : n < s.piers.length) (hx : (s.pier n).joints[j]? = some x)
    (h : b = true ∨ 2750 < m.natAbs) :
    ∃ t r, exec (.t3Trip n j m b) s = .next t ∧ (t.pier n).clampTo = s.clock.toNat + 125000
      ∧ (t.pier n).joints[j]? = some { x with t3trips := x.t3trips + 1 }
      ∧ t.recent.head? = some r ∧ r.code = faultCode 0 0x0B 0x22 ∧ r.clock = s.clock.toNat ∧ t.cur = s.cur := by
  have hcause : ¬ (!b && !tripsT3 m) = true := by
    rw [Bool.and_eq_true, Bool.not_eq_true', Bool.not_eq_true', ← Bool.not_eq_true, ← Bool.not_eq_true, tripsT3_iff]
    exact fun hno => h.elim hno.1 hno.2
  refine ⟨_, _, congrArg Host.Outcome.next (if_neg hcause), ?_, ?_, postFault_recent_head .., rfl, rfl, postFault_cur ..⟩
  · rw [postFault_pier, onJoint_clampTo _ (by simpa using hn), onPier_pier_same _ hn]
    rfl
  · rw [postFault_pier]
    refine onJoint_joint _ (by simpa using hn) ?_
    rw [onPier_pier_same _ hn]
    exact hx

theorem boostEnd_cools (hn : n < s.piers.length) (hx : (s.pier n).joints[j]? = some x) :
    ∃ t, exec (.boostEnd n j) s = .next t ∧ t.cur = s.cur
      ∧ (t.pier n).joints[j]? = some (if x.boostOver then { x with boostOver := false, cool := 200 } else x) :=
  ⟨_, rfl, rfl, onJoint_joint _ hn hx⟩

theorem coolDownEnd_idles (hn : n < s.piers.length) (hx : (s.pier n).joints[j]? = some x) :
    ∃ t, exec (.coolDownEnd n j) s = .next t ∧ t.cur = s.cur ∧ (t.pier n).joints[j]? = some { x with coolOver := false } :=
  ⟨_, rfl, rfl, onJoint_joint _ hn hx⟩

theorem clampEnd_ends (hn : n < s.piers.length) (hc : (s.pier n).clampTo ≤ s.clock.toNat) :
    ∃ t, exec (.clampEnd n) s = .next t ∧ (t.pier n).clampTo = 0 ∧ t.cur = s.cur := by
  refine ⟨_, rfl, ?_, rfl⟩
  rw [onPier_pier_same _ hn, if_pos hc]

theorem burnExpire_ends (hh : Homed s) (hb : s.cur.burn.2 = 0) :
    ∃ t, exec (.burnExpire s.cur.uid) s = .next t ∧ t.cur = { s.cur with burn := (0, 0) } ∧ t.mem = s.mem := by
  refine ⟨_, rfl, ?_, rfl⟩
  simp [State.onTeam, hh.1, hb]
end

end Sys2Proof.Machine
end

section
/-! PROOFS. The end of a window (R39, R42, R44 to R48): what a joint's judgement gives, the course imbalance traps that are
delivered, and the issue and balance events as a whole. -/

namespace Sys2Proof.Machine

/-! ### The judgement of a joint -/

/-- The limit of a joint is 0.5 A more in a window of a boost (R52). -/
theorem limitSum_boosted (n : Nat) (x : Joint) :
    limitSum n x.boosted = (n * 125 + if 1 ≤ x.boost ∧ x.boost ≤ 40 then 500 else 0) * 250 := by
  simp only [limitSum, Joint.boosted, decide_eq_true_eq]
  rfl

section
variable (s : State)

/-- The mismatch of the joint above core `lo` (R42). -/
def State.mismatchAt (lo : Nat) : Int := ((s.core (lo + 1)).sum : Int) - ((s.core lo).sum : Int)

/-- Whether the joint above core `lo` is beyond its limit T1, or T2 (R44, R45). -/
abbrev State.BeyondT1 (lo : Nat) (x : Joint) : Prop :=
  (min (s.coreT1 lo) (s.coreT1 (lo + 1)) * 125 + if 1 ≤ x.boost ∧ x.boost ≤ 40 then 500 else 0) * 250 < (s.mismatchAt lo).natAbs
abbrev State.BeyondT2 (lo : Nat) (x : Joint) : Prop :=
  (min (s.coreT2 lo) (s.coreT2 (lo + 1)) * 125 + if 1 ≤ x.boost ∧ x.boost ≤ 40 then 500 else 0) * 250 < (s.mismatchAt lo).natAbs

/-- The windows beyond T2 in a row, with the one that ends (R45). -/
def State.t2Row (lo : Nat) (x : Joint) : Nat := if s.BeyondT2 lo x then x.t2count + 1 else 0

/-- The heavier core of a joint (R44). -/
def State.heavier (lo : Nat) : Nat := if 0 < s.mismatchAt lo then lo + 1 else lo

/-- The trap's core as `State.chooseCore` finds it. -/
def State.chosen (lo : Nat) : Option Nat := s.chooseCore lo (s.core lo).sum (s.core (lo + 1)).sum
end

section
variable {s : State} {p j : Nat} {x : Joint}

theorem jointEnd_m : (s.jointEnd p j x).joint.m = s.mismatchAt (4 * p + j) := rfl

theorem jointEnd_halve : (s.jointEnd p j x).halve =
    if s.BeyondT1 (4 * p + j) x then some (s.heavier (4 * p + j)) else none := by
  simp only [State.BeyondT1, ← limitSum_boosted]
  rfl

/-- The count starts again at the fourth window, which has the trap (R45, R46). -/
theorem jointEnd_row : (s.jointEnd p j x).joint.t2count = (if 4 ≤ s.t2Row (4 * p + j) x then 0 else s.t2Row (4 * p + j) x)
    ∧ (s.jointEnd p j x).trap = if 4 ≤ s.t2Row (4 * p + j) x then s.chosen (4 * p + j) else none := by
  simp only [State.t2Row, State.BeyondT2, ← limitSum_boosted]
  exact ⟨rfl, rfl⟩

theorem four_le_t2Row (lo : Nat) (h : x.t2count < 4) : 4 ≤ s.t2Row lo x ↔ s.BeyondT2 lo x ∧ x.t2count = 3 := by
  unfold State.t2Row
  split <;> omega

theorem jointEnd_t2count (h : x.t2count < 4) : (s.jointEnd p j x).joint.t2count =
    if s.BeyondT2 (4 * p + j) x then (if x.t2count = 3 then 0 else x.t2count + 1) else 0 := by
  rw [jointEnd_row.1]
  by_cases hb : s.BeyondT2 (4 * p + j) x
  · have hrow : s.t2Row (4 * p + j) x = x.t2count + 1 := if_pos hb
    have hfourth : 4 ≤ x.t2count + 1 ↔ x.t2count = 3 := by omega
    simp only [hrow, hfourth, hb, if_true]
  · have hrow : s.t2Row (4 * p + j) x = 0 := if_neg hb
    rw [hrow, if_neg hb]
    rfl

theorem jointEnd_trap (h : x.t2count < 4) : (s.jointEnd p j x).trap =
    if s.BeyondT2 (4 * p + j) x ∧ x.t2count = 3 then s.chosen (4 * p + j) else none := by
  simp only [jointEnd_row.2, four_le_t2Row _ h]

/-- A trap goes to a core where one of the two has an ordinary team (R46). -/
theorem chosen_isSome (lo : Nat) : (s.chosen lo).isSome = true ↔ ¬ (s.ordinary lo = [] ∧ s.ordinary (lo + 1) = []) := by
  rw [State.chosen, State.chooseCore]
  cases hlo : s.ordinary lo <;> cases hup : s.ordinary (lo + 1)
  case nil.nil => simp
  case nil.cons => simp
  case cons.nil => simp
  case cons.cons =>
    simp only [List.isEmpty_cons]
    split
    · simp
    · split <;> simp

theorem jointEnd_t2traps (h : x.t2count < 4) : (s.jointEnd p j x).joint.t2traps = x.t2traps
    + (if s.BeyondT2 (4 * p + j) x ∧ x.t2count = 3
        ∧ ¬ (s.ordinary (4 * p + j) = [] ∧ s.ordinary (4 * p + j + 1) = []) then 1 else 0) := by
  have hcount : (s.jointEnd p j x).joint.t2traps = if (s.jointEnd p j x).trap.isSome then x.t2traps + 1 else x.t2traps := rfl
  simp only [hcount, jointEnd_trap h, ← chosen_isSome, ← and_assoc]
  by_cases hfourth : s.BeyondT2 (4 * p + j) x ∧ x.t2count = 3
  · simp only [hfourth, true_and, if_true]
    split <;> rfl
  · simp only [hfourth, false_and, if_false, Option.isSome_none, Bool.false_eq_true, Nat.add_zero]

/-- The core that R46 names is the one the joint's trap is for. -/
theorem chosen_of_trapped {lo c o : Nat} (hco : c = lo ∧ o = lo + 1 ∨ c = lo + 1 ∧ o = lo) (h : Trapped s c o) :
    s.chosen lo = some c := by
  have hdist (k : Nat) : fromNominal s k = (((s.core k).sum : Int) - (((s.coreClass k + 1) * 250 * 1250 : Nat) : Int)).natAbs := rfl
  obtain ⟨hc, ho⟩ := h
  have hne {k : Nat} (hk : s.ordinary k ≠ []) : (s.ordinary k).isEmpty = false := List.isEmpty_eq_false_iff.2 hk
  simp only [State.chosen, State.chooseCore, ← hdist]
  by_cases hother : s.ordinary o = []
  · rcases hco with ⟨rfl, rfl⟩ | ⟨rfl, rfl⟩ <;> simp only [hne hc, hother, List.isEmpty_nil]
  · rcases hco with ⟨rfl, rfl⟩ | ⟨rfl, rfl⟩ <;> simp only [hne hc, hne hother]
    · rcases ho.resolve_left hother with hfar | ⟨htie, hheavy⟩
      · rw [if_neg (Nat.lt_asymm hfar), if_pos hfar]
      · rw [if_neg (Nat.not_lt.2 (Nat.le_of_eq htie)), if_neg (Nat.not_lt.2 (Nat.le_of_eq htie.symm)),
          if_neg (Nat.lt_asymm hheavy)]
    · rcases ho.resolve_left hother with hfar | ⟨htie, hheavy⟩
      · rw [if_pos hfar]
      · rw [if_neg (Nat.not_lt.2 (Nat.le_of_eq htie.symm)), if_neg (Nat.not_lt.2 (Nat.le_of_eq htie)), if_pos hheavy]
end

/-! ### The traps delivered -/

/-- The trap of a joint's judgement, with the joint's number in its pier, delivered (R47). -/
def State.trapJoint (s : State) (e : JointEnd × Nat) : State :=
  match e.1.trap with
  | some c => s.imbalance c (imbalanceDatum e.2 e.1.joint.m)
  | none => s

/-- The traps of the joints of every pier. -/
def State.trapPiers (s : State) (ends : List (List JointEnd)) : State :=
  (List.range Config.numPiers).foldl (fun s p => (ends.getD p []).zipIdx.foldl State.trapJoint s) s

/-- Every ordinary team of a core has a course imbalance trap pending. -/
def Warned (c : Nat) (s : State) : Prop :=
  ∀ u ∈ s.allTeams, u.st = .resident → u.handler = false → u.core = c → u.apend.isSome = true

/-- What one item of a list brings about and every item keeps, holds after the list. -/
theorem foldl_reaches {α : Type} {P : State → Prop} {f : State → α → State} {l : List α} {a : α} (ha : a ∈ l)
    (hget : ∀ s, P (f s a)) (hkeep : ∀ s b, P s → P (f s b)) (s : State) : P (l.foldl f s) := by
  obtain ⟨l1, l2, rfl⟩ := List.append_of_mem ha
  rw [List.foldl_append, List.foldl_cons]
  exact List.foldlRecOn (motive := P) l2 f (hget _) fun t ht b _ => hkeep t b ht

section
variable {s : State} {c : Nat}

@[simp] theorem State.mapTeams_allTeams (s : State) (f : Team → Team) : (s.mapTeams f).allTeams = s.allTeams.map f := rfl

theorem warned_imbalance (d : Word) : Warned c (s.imbalance c d) := by
  intro u hu hst hh hc
  rw [State.imbalance, State.mapTeams_allTeams] at hu
  obtain ⟨t, -, rfl⟩ := List.mem_map.1 hu
  by_cases hfor : (t.st == .resident && t.core == c && !t.handler) = true
  · rw [if_pos hfor]
    rfl
  · rw [if_neg hfor] at hst hh hc
    simp [hst, hh, hc] at hfor

theorem imbalance_keeps_warned (h : Warned c s) (c' : Nat) (d : Word) : Warned c (s.imbalance c' d) := by
  intro u hu hst hh hc
  rw [State.imbalance, State.mapTeams_allTeams] at hu
  obtain ⟨t, ht, rfl⟩ := List.mem_map.1 hu
  by_cases hfor : (t.st == .resident && t.core == c' && !t.handler) = true
  · rw [if_pos hfor]
    rfl
  · rw [if_neg hfor] at hst hh hc ⊢
    exact h t ht hst hh hc

theorem trapJoint_keeps_warned (h : Warned c s) (e : JointEnd × Nat) : Warned c (s.trapJoint e) := by
  unfold State.trapJoint
  split
  · exact imbalance_keeps_warned h _ _
  · exact h

theorem trapPiers_warned {ends : List (List JointEnd)} {p j : Nat} {e : JointEnd} (hp : p < 48) (he : (ends.getD p [])[j]? = some e)
    (ht : e.trap = some c) (s : State) : Warned c (s.trapPiers ends) := by
  have hmem : (e, j) ∈ (ends.getD p []).zipIdx := List.mk_mem_zipIdx_iff_getElem?.2 he
  refine foldl_reaches (List.mem_range.2 hp) (fun s => foldl_reaches hmem (fun s => ?_) (fun s b hs => ?_) s) (fun s q hs => ?_) s
  · simp only [State.trapJoint, ht]
    exact warned_imbalance _
  · exact trapJoint_keeps_warned hs b
  · exact List.foldlRecOn (motive := Warned c) _ _ hs fun t ht b _ => trapJoint_keeps_warned ht b

/-- What no single trap changes, their delivery does not change. -/
theorem trapPiers_keeps {β : Type} (g : State → β) (hg : ∀ (s : State) f, g (s.mapTeams f) = g s) (ends : List (List JointEnd))
    (s : State) : g (s.trapPiers ends) = g s := by
  refine foldl_keeps g (fun s p => foldl_keeps g (fun s e => ?_) _ s) _ s
  unfold State.trapJoint
  split
  · exact hg ..
  · rfl
end

/-! ### The end of a window -/

/-- The judgements of a pier's joints, and of every pier's. -/
def State.jointEnds (s : State) (p : Nat) : List JointEnd := (s.pier p).joints.mapIdx fun c j => s.jointEnd p c j
def State.pierEnds (s : State) : List (List JointEnd) := (List.range Config.numPiers).map s.jointEnds

section
variable {s : State} {p j : Nat} {x : Joint}

theorem jointEnds_getElem? (hx : (s.pier p).joints[j]? = some x) : (s.jointEnds p)[j]? = some (s.jointEnd p j x) := by
  simp [State.jointEnds, hx]

theorem pierEnds_getD (hp : p < 48) : s.pierEnds.getD p [] = s.jointEnds p := by
  have hp' : p < Config.numPiers := hp
  simp [State.pierEnds, hp', List.getD_eq_getElem?_getD]

/-- A core to be halved is among those of the judgements (R44). -/
theorem halved_mem {c : Nat} (hp : p < 48) (hx : (s.pier p).joints[j]? = some x) (hc : (s.jointEnd p j x).halve = some c) :
    c ∈ (s.pierEnds.flatMap id).filterMap (·.halve) := by
  refine List.mem_filterMap.2 ⟨s.jointEnd p j x, List.mem_flatMap.2 ⟨s.jointEnds p, ?_, ?_⟩, hc⟩
  · exact List.mem_map_of_mem (List.mem_range.2 hp)
  · exact List.mem_of_getElem? (jointEnds_getElem? hx)

/-- A window ends: estimates, halves and joints are set, and then the traps delivered (R39, R42 to R47). -/
theorem windowEnd_next (h : s.wins < s.clock.toNat / 1250) :
    ∃ t : State, exec .windowEnd s = .next (t.trapPiers s.pierEnds) ∧ t.wins = s.wins + 1 ∧ t.mem = s.mem
      ∧ t.cores = (s.cores.mapIdx fun c k => { k with
          est := k.sum, acc := k.acc + k.sum, sum := 0
          halved := ((s.pierEnds.flatMap id).filterMap (·.halve)).contains c, passes := s.resident c })
      ∧ t.piers = s.piers.mapIdx fun p x => { x with joints := (s.pierEnds.getD p []).map (·.joint) } :=
  ⟨_, congrArg Host.Outcome.next (if_neg (Nat.not_le.2 h)), rfl, rfl, rfl, rfl⟩
end

/-- R39, R42 to R47 of one machine whose window is over. -/
theorem windowEnd_judges {s : State} (h : s.wins < s.clock.toNat / 1250) :
    ∃ t, exec .windowEnd s = .next t ∧ t.wins = s.wins + 1 ∧ t.mem = s.mem
      ∧ (∀ (c : Nat) (k : Core), s.cores[c]? = some k →
          ∃ k', t.cores[c]? = some k' ∧ k'.est = k.sum ∧ k'.sum = 0 ∧ k'.acc = k.acc + k.sum)
      ∧ ∀ (p j : Nat) (x : Joint), p < 48 → p < s.piers.length → (s.pier p).joints[j]? = some x →
          (t.pier p).joints[j]? = some (s.jointEnd p j x).joint
            ∧ (∀ c, (s.jointEnd p j x).trap = some c → Warned c t)
            ∧ ∀ c, (s.jointEnd p j x).halve = some c → ∀ k, s.cores[c]? = some k →
                ∃ k', t.cores[c]? = some k' ∧ k'.halved = true := by
  obtain ⟨t, he, hwins, hmem, hcores, hpiers⟩ := windowEnd_next h
  have hcores' := (trapPiers_keeps State.cores (fun _ _ => rfl) s.pierEnds t).trans hcores
  have hpiers' := (trapPiers_keeps State.piers (fun _ _ => rfl) s.pierEnds t).trans hpiers
  refine ⟨_, he, (trapPiers_keeps State.wins (fun _ _ => rfl) ..).trans hwins,
    (trapPiers_keeps State.mem (fun _ _ => rfl) ..).trans hmem, fun c k hk => ?_, fun p j x hp hlen hx => ⟨?_, fun c hc => ?_, ?_⟩⟩
  · rw [hcores', List.getElem?_mapIdx, hk]
    exact ⟨_, rfl, rfl, rfl, rfl⟩
  · have hpier : ((t.trapPiers s.pierEnds).pier p).joints = (s.jointEnds p).map (·.joint) := by
      simp [State.pier, hpiers', hlen, List.getD_eq_getElem?_getD, ← pierEnds_getD hp]
    rw [hpier, List.getElem?_map, jointEnds_getElem? hx]
    rfl
  · refine trapPiers_warned (j := j) hp ?_ hc t
    rw [pierEnds_getD hp]
    exact jointEnds_getElem? hx
  · intro c hc k hk
    rw [hcores', List.getElem?_mapIdx, hk]
    exact ⟨_, rfl, List.contains_iff_mem.2 (halved_mem hp hx hc)⟩

/-! ### The statement -/

/-- Settles O56: the choice of a quadrant, the judgements of a window's end with their traps, and the events of joints, piers
and burns. -/
theorem issueAndBalanceEvents : Obligations.IssueAndBalanceEvents := by
  unfold Obligations.IssueAndBalanceEvents
  refine ⟨fun s c q hf => ⟨issueCycle_goes_on hf, issueCycle_takes_oldest hf, greedyLimit_takes_another hf,
      starvationOverride_takes_oldest_starved hf⟩, fun s hw => ?_,
    fun s n j m b x hn hx => ⟨fun hb hm => ?_, t3Trip_clamps hn hx⟩,
    fun s n j x hn hx => ⟨boostEnd_cools hn hx, coolDownEnd_idles hn hx, clampEnd_ends hn⟩, fun s => burnExpire_ends⟩
  · obtain ⟨t, he, hwins, hmem, hcores, hjoints⟩ := windowEnd_judges hw
    refine ⟨t, he, hwins, hmem, hcores, fun p j x hp hlen hx hcount => ?_⟩
    obtain ⟨hjoint, htrap, hhalve⟩ := hjoints p j x hp hlen hx
    refine ⟨⟨_, hjoint, jointEnd_m, jointEnd_t2count hcount, jointEnd_t2traps hcount⟩, fun hthree hbeyond c o hco hc => ?_,
      fun hbeyond => ?_⟩
    · refine htrap c ?_
      rw [jointEnd_trap hcount, if_pos ⟨hbeyond, hthree⟩]
      exact chosen_of_trapped hco hc
    · refine hhalve _ ?_
      rw [jointEnd_halve]
      exact if_pos hbeyond
  · subst hb
    exact t3Trip_without_cause hm

end Sys2Proof.Machine
end

section
/-! PROOFS. Results that land (R92, R103, R175): a cell of a v register written, a result alone on its way and two for one cell,
an older result discarded, and the writes of a tagged instruction. -/

namespace Sys2Proof.Machine

/-! ### A cell of a v register written -/

section
variable (t : Team) (x : VCell) {r l : Nat}

theorem put_v_getElem? (k : Nat) :
    (t.put (.v r [(l, x)])).v[k]? = if r = k then t.v[k]?.map (·.set l x) else t.v[k]? := upd_getElem? ..

theorem put_v_rv_same (hr : r < t.v.length) (hl : l < (t.v.getD r []).length) : (t.put (.v r [(l, x)])).rv r l = x := by
  rw [List.getD_eq_getElem?_getD, List.getElem?_eq_getElem hr, Option.getD_some] at hl
  simp [Team.rv, List.getD_eq_getElem?_getD, put_v_getElem?, hr, hl]

theorem put_v_rv_other {r' l' : Nat} (h : (r', l') ≠ (r, l)) : (t.put (.v r [(l, x)])).rv r' l' = t.rv r' l' := by
  simp only [Team.rv, List.getD_eq_getElem?_getD, put_v_getElem?]
  by_cases hr : r = r'
  · subst hr
    have hl : l ≠ l' := fun hl => h (by rw [hl])
    cases t.v[r]? <;> simp [hl]
  · rw [if_neg hr]

theorem put_v_length : (t.put (.v r [(l, x)])).v.length = t.v.length := upd_length ..

theorem put_v_row_length : ((t.put (.v r [(l, x)])).v.getD r []).length = (t.v.getD r []).length := by
  simp only [List.getD_eq_getElem?_getD, put_v_getElem?, if_true]
  cases t.v[r]? <;> simp

end

/-! ### One result on its way, and two for one cell (R92, R103) -/

section
variable {t : Team} {n m : Nat}

/-- Before its cycle a result is not seen. -/
theorem landed_before {w : RegWrite} (hf : t.fix = [⟨n, w⟩]) (hs : t.spad = []) (h : m < n) : t.landed m = t := by
  have harrives : t.arrivals m = [] := by simp [Team.arrivals, hf, hs, h, sortBy]
  cases t
  simp_all [Team.landed]

/-- What a team shows of a result alone on its way. -/
theorem landed_alone {α : Type} (f : Team → α) (hkeeps : ∀ (t : Team) x y, f { t with fix := x, spad := y } = f t) {w : RegWrite}
    (hf : t.fix = [⟨n, w⟩]) (hs : t.spad = []) : f (t.landed m) = if n ≤ m then f (t.put w) else f t := by
  by_cases h : n ≤ m
  · rw [landed_single hf hs h, hkeeps, if_pos h]
  · rw [landed_before hf hs (Nat.lt_of_not_le h), if_neg h]

/-- A cell alone on its way is read from its cycle on, and nothing else of a v register changes. -/
theorem cell_lands {r l : Nat} {x : VCell} (hf : t.fix = [⟨n, .v r [(l, x)]⟩]) (hs : t.spad = []) (hr : r < t.v.length)
    (hl : l < (t.v.getD r []).length) :
    (n ≤ m → (t.landed m).rv r l = x ∧ (t.landed m).fix = []) ∧ (m < n → (t.landed m).rv r l = t.rv r l)
      ∧ ∀ r' l', (r', l') ≠ (r, l) → (t.landed m).rv r' l' = t.rv r' l' := by
  have hshows := fun r' l' => landed_alone (m := m) (·.rv r' l') (fun _ _ _ => rfl) hf hs
  refine ⟨fun h => ⟨?_, congrArg Team.fix (landed_single hf hs h)⟩, fun h => ?_, fun r' l' hne => ?_⟩
  · rw [hshows, if_pos h, put_v_rv_same t x hr hl]
  · rw [hshows, if_neg (Nat.not_le.2 h)]
  · rw [hshows, put_v_rv_other t x hne, ite_self]

theorem sortBy_pair {α : Type} (key : α → Nat) (a b : α) : sortBy key [a, b] = if key b < key a then [b, a] else [a, b] := by
  simp only [sortBy, List.foldl_cons, List.foldl_nil, insertBy]

/-- A fixed-latency result and one of a scratchpad pass for the same cell: the later one is read, the scratchpad's where the
cycles agree. -/
theorem cell_lands_twice {k r l tag ins : Nat} {x y : VCell} {ord : MemOrd} {st : Bool} (hf : t.fix = [⟨n, .v r [(l, x)]⟩])
    (hs : t.spad = [⟨tag, ins, k, ord, st, [.v r [(l, y)]]⟩]) (hr : r < t.v.length) (hl : l < (t.v.getD r []).length)
    (hn : n ≤ m) (hk : k ≤ m) : (t.landed m).rv r l = if n ≤ k then y else x := by
  have hlast : ∀ a b : VCell, ((t.put (.v r [(l, a)])).put (.v r [(l, b)])).rv r l = b := fun a b =>
    put_v_rv_same _ b ((put_v_length ..).symm ▸ hr) ((put_v_row_length ..).symm ▸ hl)
  have harrives : t.arrivals m = if 2 * k < 2 * n then [⟨k, .v r [(l, y)]⟩, ⟨n, .v r [(l, x)]⟩]
      else [⟨n, .v r [(l, x)]⟩, ⟨k, .v r [(l, y)]⟩] := by
    simp only [Team.arrivals, hf, hs, List.filter_cons, List.filter_nil, hn, hk, decide_true, if_true]
    exact sortBy_pair ..
  by_cases h : n ≤ k
  · rw [if_pos h, Team.landed, harrives, if_neg (by omega)]
    exact hlast x y
  · rw [if_neg h, Team.landed, harrives, if_pos (by omega)]
    exact hlast y x

/-- Flags that land are added to FPSTAT (R175). -/
theorem flags_land {f : Word} (hf : t.fix = [⟨n, .flags f⟩]) (hs : t.spad = []) :
    (t.landed m).fpstat = (if n ≤ m then t.fpstat ||| f else t.fpstat) ∧ (t.landed m).v = t.v :=
  ⟨landed_alone (·.fpstat) (fun _ _ _ => rfl) hf hs, (landed_alone (·.v) (fun _ _ _ => rfl) hf hs).trans (ite_self _)⟩

theorem sReg_lands {r : Nat} {x : Word} (hf : t.fix = [⟨n, .s r x⟩]) (hs : t.spad = []) :
    (t.landed m).s = (if n ≤ m then t.s.set r x else t.s) ∧ (t.landed m).v = t.v :=
  ⟨landed_alone (·.s) (fun _ _ _ => rfl) hf hs, (landed_alone (·.v) (fun _ _ _ => rfl) hf hs).trans (ite_self _)⟩

end

/-! ### An older result that would land later is discarded (R103) -/

theorem without_same_cell (r l : Nat) (x y : VCell) : (RegWrite.v r [(l, y)]).without (.v r [(l, x)]) = none := by
  simp [RegWrite.without]

/-- A result that a newer cell takes nothing from has no cell in its place. -/
theorem no_cell_of_without_self {r l : Nat} {x : VCell} {cs : List (Nat × VCell)}
    (h : (RegWrite.v r cs).without (.v r [(l, x)]) = some (.v r cs)) (z : VCell) : (l, z) ∉ cs := by
  intro hz
  have hkept : cs.filter (fun c => !([(l, x)].any fun d => d.1 == c.1)) = cs := by
    simp only [RegWrite.without, if_true] at h
    split at h
    · cases h
    · exact (RegWrite.v.inj (Option.some.inj h)).2
  have hmem := hkept.symm ▸ hz
  simp at hmem

/-- What is left of the older results behind a newer one of an earlier cycle. -/
theorem mem_addFix_later {fx : List FixWrite} {n m : Nat} {w old : RegWrite} (hnm : n < m) (h : ⟨m, old⟩ ∈ addFix fx ⟨n, w⟩) :
    ∃ o ∈ fx, o.due = m ∧ o.w.without w = some old := by
  rcases List.mem_append.1 h with ho | hnew
  · obtain ⟨o, hmem, ho⟩ := List.mem_filterMap.1 ho
    split at ho
    · obtain ⟨w', hw', heq⟩ := Option.map_eq_some_iff.1 ho
      cases heq
      exact ⟨o, hmem, rfl, hw'⟩
    · cases ho
      contradiction
  · cases List.mem_singleton.1 hnew
    exact (Nat.lt_irrefl _ hnm).elim

theorem newer_cell_discards {fx : List FixWrite} {n m r l : Nat} {x y : VCell} (hnm : n < m)
    (hothers : ∀ e ∈ fx, e = ⟨m, .v r [(l, y)]⟩ ∨ e.w.without (.v r [(l, x)]) = some e.w) (cs : List (Nat × VCell))
    (h : (⟨m, .v r cs⟩ : FixWrite) ∈ addFix fx ⟨n, .v r [(l, x)]⟩) (z : VCell) : (l, z) ∉ cs := by
  obtain ⟨o, hmem, -, hleft⟩ := mem_addFix_later hnm h
  rcases hothers o hmem with rfl | hself
  · rw [without_same_cell] at hleft
    cases hleft
  · have how : o.w = .v r cs := Option.some.inj (hself.symm.trans hleft)
    exact no_cell_of_without_self (how ▸ hself) z

/-! ### The events that write results (R92, R103) -/

theorem resultWriteback_settles {s : State} (h : Homed s) : exec (.resultWriteback s.cur.uid) s = .next s.settle := by
  obtain ⟨ht, hl, hb⟩ := h
  exact congrArg (fun u : State => Host.Outcome.next u.settle) (focus_current ht hl hb)

/-- What no single result changes, a list of results does not change. -/
theorem putAll_keeps {α : Type} (f : Team → α) (hf : ∀ t w, f (t.put w) = f t) (t : Team) (ws : List RegWrite) :
    f (t.putAll ws) = f t :=
  List.foldlRecOn (motive := fun u => f u = f t) ws _ rfl fun u hu w _ => (hf u w).trans hu

@[simp] theorem sysWrite_dheld (t : Team) (r : SysReg) (xs : List (Nat × Word)) : (t.sysWrite r xs).dheld = t.dheld := by
  cases r <;> rfl
@[simp] theorem put_dheld (t : Team) (w : RegWrite) : (t.put w).dheld = t.dheld :=
  put_keeps (·.dheld) (fun _ _ _ => rfl) (fun _ _ _ => rfl) (fun _ _ _ => rfl) (fun _ _ => rfl) sysWrite_dheld t w

theorem clearTag_clear (t : Team) (k : Nat) : (t.clearTag k).tags.getLsbD k = false := by
  simp [Team.clearTag, tagBit]

/-- Without its tagged results a team for which no access and no pass is to come waits for nothing of any tag. -/
theorem tagBusy_without_tagged {t : Team} (hacc : t.accesses = []) (hwait : t.waiting = []) (hheld : t.held = [])
    (hspad : t.spad = []) (hdheld : t.dheld = []) (k : Nat) : ({ t with tagged := [] } : Team).tagBusy k = false := by
  simp [Team.tagBusy, hacc, hwait, hheld, hspad, hdheld]

/-- A tag's only results written, with nothing else on its way: its registers hold them, and it clears. -/
theorem taggedResultWrite_writes {s : State} {tag : Tag} {ws : List RegWrite} (hh : Homed s)
    (htagged : s.settle.cur.tagged = [⟨tagIndex tag, ws⟩]) (hacc : s.settle.cur.accesses = [])
    (hwait : s.settle.cur.waiting = []) (hheld : s.settle.cur.held = []) (hspad : s.settle.cur.spad = [])
    (hdheld : s.settle.cur.dheld = []) :
    exec (.taggedResultWrite s.cur.uid tag) s =
      .next { s.settle with cur := ({ s.settle.cur.putAll ws with tagged := [] } : Team).clearTag (tagIndex tag) } := by
  obtain ⟨ht, hl, hb⟩ := hh
  have hfocus : (s.focus s.cur.uid).settle = s.settle := congrArg State.settle (focus_current ht hl hb)
  have hmine : s.settle.cur.tagged.filter (·.tag == tagIndex tag) = [⟨tagIndex tag, ws⟩] := by
    rw [htagged]
    simp
  have hrest : (s.settle.cur.putAll ws).tagged.filter (·.tag != tagIndex tag) = [] := by
    rw [putAll_keeps (·.tagged) put_tagged, htagged]
    simp
  have hfree : ({ s.settle.cur.putAll ws with tagged := [] } : Team).tagBusy (tagIndex tag) = false :=
    tagBusy_without_tagged ((putAll_keeps (·.accesses) put_accesses ..).trans hacc)
      ((putAll_keeps (·.waiting) put_waiting ..).trans hwait) ((putAll_keeps (·.held) put_held ..).trans hheld)
      ((putAll_keeps (·.spad) put_spad ..).trans hspad) ((putAll_keeps (·.dheld) put_dheld ..).trans hdheld) _
  show execTaggedResultWrite s.cur.uid tag s = _
  simp only [execTaggedResultWrite, hfocus, hmine, List.isEmpty_cons, Bool.false_eq_true, if_false, List.flatMap_singleton, hrest,
    Team.settleTag, hfree]

/-! ### The statement -/

/-- Settles O13: one result and two results for a cell land by `landed_single` and the order of the arrivals, a newer result takes
an older one's lanes out of `addFix`, and the two events write what the team's view gives them. -/
theorem resultsLandInTime : Obligations.ResultsLandInTime := by
  unfold Obligations.ResultsLandInTime
  refine ⟨fun t n m r l x hf hs hr hl => cell_lands hf hs hr hl,
    fun fx n m r l x y _ hnm hothers => ⟨mem_addFix .., newer_cell_discards hnm hothers⟩, fun s hh => ?_,
    fun t n k m r l tag ins x y ord st hf hs hr hl hn hk => cell_lands_twice hf hs hr hl hn hk,
    fun s tag ws hh htagged hacc hwait hheld hspad hdheld => ?_,
    fun t n m r x f => ⟨flags_land, fun hf hs _ => sReg_lands hf hs⟩⟩
  · refine ⟨s.settle, resultWriteback_settles hh, rfl, fun e he => ?_, rfl, rfl⟩
    exact of_decide_eq_true (List.mem_filter.1 he).2
  · exact ⟨_, taggedResultWrite_writes hh htagged hacc hwait hheld hspad hdheld, clearTag_clear .., rfl, rfl, rfl, rfl⟩

end Sys2Proof.Machine
end

section
/-! PROOFS. The special functions and the cross-lane instructions (R92, R155 to R158, R190): their tag, their lanes' results, and
the results behind the tag. -/

namespace Sys2Proof.Machine

/-! ### The tag in an instruction's words (R97) -/

theorem sbt_word1 (f : Fields) : f.word1.extractLsb' 18 3 = f.sbt := by
  refine BitVec.eq_of_getLsbD_eq fun k hk => ?_
  simp only [Fields.word1, BitVec.getLsbD_extractLsb', BitVec.getLsbD_append, hk, decide_true, Bool.true_and]
  grind

section
variable {i : Instr} {op : BitVec 6} {y : BitVec 3} {g : Guard} {c : Reg} {tag : Tag} {fn : BitVec 18}

theorem tagOf_words {f : Fields} (hw : encode i = f.words) (hop : 0x28 ≤ f.op.toNat ∨ f.op.toNat = 0x1E) (ht : f.sbt = tag.code) :
    tagOf i = some (tagIndex tag) := by
  simp only [tagOf, hw, Fields.words, opcode_word0, sbt_word1, if_pos hop, ht]
  cases tag <;> rfl

theorem tagOf_encDA {o : OpsDA} (hw : encode i = encDA op y g o c tag.code fn) (hop : 0x28 ≤ op.toNat ∨ op.toNat = 0x1E) :
    tagOf i = some (tagIndex tag) := tagOf_words hw hop rfl

theorem tagOf_encOps {o : Ops} (hw : encode i = encOps op y g o c tag.code fn) (hop : 0x28 ≤ op.toNat ∨ op.toNat = 0x1E) :
    tagOf i = some (tagIndex tag) := tagOf_words hw hop rfl

end

/-- A special function or cross-lane instruction allocates the tag that it names. -/
theorem taggedSpec_tagOf {i : Instr} {g : Guard} {tag : Tag} {f : Team → Nat → LaneRes} (h : taggedSpec i = some (g, tag, f)) :
    tagOf i = some (tagIndex tag) := by
  unfold taggedSpec at h
  split at h <;> cases h
  -- SHFL, which has a source B
  case h_8 => exact tagOf_encOps rfl (by decide)
  all_goals exact tagOf_encDA rfl (by decide)

/-! ### Lanes that take no trap -/

/-- A lane's results where it takes no trap and writes no register twice. -/
structure LaneRes.Plain (r : LaneRes) : Prop where
  trap : r.trap = none
  vs : (r.vs.map (·.1)).Nodup
  ps : (r.ps.map (·.1)).Nodup

theorem plain_cell (d : Nat) (x : VCell) (f : Word) : LaneRes.Plain ⟨[(d, x)], [], f, none⟩ :=
  ⟨rfl, List.pairwise_singleton .., List.nodup_nil⟩

theorem plain_pair (d : Reg) (x : DWord) : (resV64 d x).Plain := ⟨rfl, by simp [resV64], List.nodup_nil⟩

theorem plain_pred (d : Reg) (x : Bool) : (resP d x).Plain := ⟨rfl, List.nodup_nil, List.pairwise_singleton ..⟩

theorem taggedSpec_plain {i : Instr} {g : Guard} {tag : Tag} {f : Team → Nat → LaneRes} (h : taggedSpec i = some (g, tag, f))
    (t : Team) (l : Nat) : (f t l).Plain := by
  unfold taggedSpec at h
  split at h <;> cases h
  -- VOTE.ALL, ANY and EQ, and VOTE.BALLOT
  case h_9 | h_10 | h_11 => exact plain_pred ..
  case h_12 =>
    dsimp only
    split
    · exact plain_pair ..
    · exact plain_cell ..
  all_goals exact plain_cell ..

/-! ### What a pass writes for a lane that takes no trap (R115, R177) -/

theorem find?_of_nodup {α β : Type} [DecidableEq α] {l : List (α × β)} (hl : (l.map (·.1)).Nodup) {c : α × β} (hc : c ∈ l) :
    l.find? (fun x => x.1 == c.1) = some c := by
  obtain ⟨a, b, rfl⟩ := List.append_of_mem hc
  rw [List.map_append, List.map_cons, List.nodup_append] at hl
  refine List.find?_eq_some_iff_append.2 ⟨beq_self_eq_true _, a, b, rfl, fun x hx => ?_⟩
  have hne : x.1 ≠ c.1 := hl.2.2 _ (List.mem_map_of_mem hx) _ List.mem_cons_self
  simp only [beq_false_of_ne hne, Bool.not_false]

/-- The flags of one lane are among those that its pass raises. -/
theorem foldl_or_contains {α : Type} (f : α → Word) {l : List α} {a : α} (ha : a ∈ l) (z : Word) :
    l.foldl (fun z a => z ||| f a) z &&& f a = f a := by
  obtain ⟨b, c, rfl⟩ := List.append_of_mem ha
  rw [List.foldl_append, List.foldl_cons]
  refine List.foldlRecOn (motive := fun z => z &&& f a = f a) c _ ?_ fun z hz x _ => ?_
  · ext k
    simp +contextual
  · rw [← hz]
    ext k
    simp only [BitVec.getElem_and, BitVec.getElem_or]
    grind

section
variable {rs : List (Nat × LaneRes)} {l : Nat} {r : LaneRes} (hr : (l, r) ∈ rs) (ht : r.trap = none)
include hr ht

theorem mem_untrapped : (l, r) ∈ rs.filter fun r => r.2.trap.isNone := List.mem_filter.2 ⟨hr, by simp [ht]⟩

theorem passWrites_p {d : Nat} {x : Bool} (hx : r.ps.find? (fun c => c.1 == d) = some (d, x)) :
    ∃ cs, RegWrite.p d cs ∈ passWrites rs ∧ (l, x) ∈ cs := by
  have hok := mem_untrapped hr ht
  refine ⟨_, List.mem_append_left _ (List.mem_append_right _ (List.mem_map.2 ⟨d, mem_distinct.2 ?_, rfl⟩)), ?_⟩
  · exact List.mem_flatMap.2 ⟨(l, r), hok, List.mem_map.2 ⟨(d, x), List.mem_of_find?_eq_some hx, rfl⟩⟩
  · exact List.mem_filterMap.2 ⟨(l, r), hok, by simp [hx]⟩

theorem passWrites_flags (hf : r.flags ≠ 0) : ∃ x, RegWrite.flags x ∈ passWrites rs ∧ x &&& r.flags = r.flags := by
  have hraised := foldl_or_contains (fun r : Nat × LaneRes => r.2.flags) (mem_untrapped hr ht) 0
  refine ⟨_, List.mem_append_right _ ?_, hraised⟩
  rw [if_neg]
  · exact List.mem_singleton_self _
  · intro hnone
    rw [beq_iff_eq.1 hnone] at hraised
    exact hf (hraised.symm.trans BitVec.zero_and)

end

/-- What a pass writes for a lane is what the lane works out. -/
theorem passWrites_lane {rs : List (Nat × LaneRes)} {l : Nat} {r : LaneRes} (hr : (l, r) ∈ rs) (hp : r.Plain) :
    (∀ c ∈ r.vs, ∃ cs, RegWrite.v c.1 cs ∈ passWrites rs ∧ (l, c.2) ∈ cs)
      ∧ (∀ c ∈ r.ps, ∃ cs, RegWrite.p c.1 cs ∈ passWrites rs ∧ (l, c.2) ∈ cs)
      ∧ (r.flags ≠ 0 → ∃ x, RegWrite.flags x ∈ passWrites rs ∧ x &&& r.flags = r.flags) :=
  ⟨fun _ hc => passWrites_v hr hp.trap (find?_of_nodup hp.vs hc), fun _ hc => passWrites_p hr hp.trap (find?_of_nodup hp.ps hc),
    passWrites_flags hr hp.trap⟩

/-! ### The passes of an instruction -/

theorem passHits_untrapped {rs : List (Nat × List (Nat × LaneRes))} (h : ∀ p ∈ rs, ∀ r ∈ p.2, r.2.trap = none) :
    passHits rs = [] := by
  refine List.foldlRecOn (motive := (· = [])) rs _ rfl fun hs hnil p hp => ?_
  have hnone : p.2.filterMap (fun r => r.2.trap.map fun c => (r.1, c)) = [] :=
    List.filterMap_eq_nil_iff.2 fun r hr => by simp [h p hp r hr]
  rw [hnone]
  exact hnil

/-- The results of a lane that runs in a pass are among those of the pass. -/
theorem mem_runPasses {s : State} {i : Instr} {g : Guard} {w k l : Nat} (f : Team → Nat → LaneRes) (hw : s.cur.window = none)
    (h : Runs s i g w k l) :
    ∃ p ∈ runPasses s.cur s.now i g f, (l, f (s.view i k) l) ∈ p.2 := by
  obtain ⟨hpass, hlane, hguard⟩ := h
  have hslots : passSlots s.cur i g = (passWords s.cur i g).zipIdx := by simp only [passSlots, hw, Option.bind_none]
  have hactive : l ∈ wordLanes (s.view i k).mask w := (congrArg (l ∈ wordLanes · w) (landed_mask ..)).mpr hlane
  exact ⟨_, List.mem_map.2 ⟨(w, k), hslots ▸ hpass, rfl⟩, List.mem_map.2 ⟨l, List.mem_filter.2 ⟨hactive, hguard⟩, rfl⟩⟩

theorem mem_passes_writes {rs : List (Nat × List (Nat × LaneRes))} {p : Nat × List (Nat × LaneRes)} (hp : p ∈ rs) {x : RegWrite}
    (hx : x ∈ passWrites p.2) (due : Nat × List (Nat × LaneRes) → Nat) (tag : Option Nat) :
    x ∈ (rs.map fun r => (⟨0, due r, tag, false, r.2⟩ : WinPass)).flatMap WinPass.writes :=
  List.mem_flatMap.2 ⟨_, List.mem_map_of_mem hp, hx⟩

/-! ### A tagged instruction carried out -/

/-- An instruction's tag set, with the registers that it will write. -/
theorem allocate_tagged {i : Instr} {n : Nat} (h : tagOf i = some n) (t : Team) :
    t.allocate i = { t with
      tags := t.tags ||| tagBit n
      tagRegs := t.tagRegs ++ ((uses t.d.groupw i).filter fun u => u.dst && u.kind != .tile).flatMap fun u =>
        (List.range u.n).map fun k => (n, OpKind.code u.kind, u.r + k) } := by simp only [Team.allocate, h]

theorem receive_tagged_tags {i : Instr} {n : Nat} (h : tagOf i = some n) (t : Team) (ps : List WinPass) :
    (t.receive i ps).tags = t.tags ||| tagBit n := by rw [receive_tagged h, allocate_tagged h]

theorem receive_tagged_at_ {i : Instr} {n : Nat} (h : tagOf i = some n) (t : Team) (ps : List WinPass) :
    (t.receive i ps).at_ = t.at_ := by rw [receive_tagged h, allocate_tagged h]

theorem mem_receive_tagged {i : Instr} {n : Nat} (h : tagOf i = some n) (t : Team) (ps : List WinPass) :
    ⟨n, ps.flatMap WinPass.writes⟩ ∈ (t.receive i ps).tagged := by
  rw [receive_tagged h]
  exact List.mem_append_right _ (List.mem_singleton_self _)

theorem receive_tagged_registersKept {i : Instr} {n : Nat} (h : tagOf i = some n) (t : Team) (ps : List WinPass) :
    RegistersKept t (t.receive i ps) := by
  rw [receive_tagged h, allocate_tagged h]
  constructor <;> rfl

section
variable {s : State} {i : Instr} {g : Guard} {tag : Tag} {f : Team → Nat → LaneRes}

/-- What a tagged instruction that issues works out in its lanes is all that it depends on. -/
theorem taggedRun_congr {f' : Team → Nat → LaneRes} (h : Issues s i g)
    (hf : ∀ n l, f (s.settle.cur.view n) l = f' (s.settle.cur.view n) l) : s.taggedRun i g f = s.taggedRun i g f' := by
  simp only [State.taggedRun, issue_of h, runPasses, passLanes, hf]

/-- A tagged instruction whose lanes take no trap completes: its tag is set, and its results wait for it (R92, R155, R190). -/
theorem taggedRun_completes (h : Issues s i g) (ht : tagOf i = some (tagIndex tag)) (hf : ∀ t l, (f t l).Plain) :
    LanesTagged s.settle (s.taggedRun i g f) i g tag f
      ∧ (s.taggedRun i g f).cur.tags = s.settle.cur.tags ||| tagBit (tagIndex tag)
      ∧ (s.taggedRun i g f).cur.at_ = nextPt s.settle.cur.at_ i
      ∧ RegistersKept s.settle.cur (s.taggedRun i g f).cur ∧ OutsideKept s (s.taggedRun i g f) := by
  have hnone : passHits (runPasses s.settle.cur s.settle.now i g f) = [] := by
    refine passHits_untrapped fun p hp r hr => ?_
    obtain ⟨wk, -, rfl⟩ := List.mem_map.1 hp
    obtain ⟨l, -, rfl⟩ := List.mem_map.1 hr
    exact (hf ..).trap
  rw [taggedRun_of f h hnone]
  refine ⟨⟨_, mem_receive_tagged ht .., fun w k l hrun => ?_⟩, receive_tagged_tags ht ..,
    congrArg (nextPt · i) (receive_tagged_at_ ht ..), retire_registersKept s.settle (receive_tagged_registersKept ht ..) ..,
    retire_outsideKept ..⟩
  obtain ⟨p, hp, hl⟩ := mem_runPasses f ((settle_window s).trans h.noWindow) hrun
  obtain ⟨hvs, hps, hflags⟩ := passWrites_lane hl (hf ..)
  exact ⟨fun c hc => (hvs c hc).imp fun _ => .imp_left (mem_passes_writes hp · ..),
    fun c hc => (hps c hc).imp fun _ => .imp_left (mem_passes_writes hp · ..),
    fun hne => (hflags hne).imp fun _ => .imp_left (mem_passes_writes hp · ..)⟩

end

/-! ### The special functions where no trap is enabled (R177, R190, R202) -/

theorem flagCause_disabled {fpctl : Word} (h : fpctl &&& 0x1F = 0) (f : Word) : flagCause fpctl f = none := by
  have hoff : ∀ k < 5, (fpctl &&& f).getLsbD k = false := fun k hk => by
    have hmask : (0x1F : Word).getLsbD k = true := (by decide : ∀ k < 5, (0x1F : Word).getLsbD k = true) k hk
    have hbit : (fpctl &&& 0x1F).getLsbD k = false := (congrArg (·.getLsbD k) h).trans BitVec.getLsbD_zero
    rw [BitVec.getLsbD_and, hmask, Bool.and_true] at hbit
    rw [BitVec.getLsbD_and, hbit, Bool.false_and]
  simp only [flagCause, hoff, Nat.reduceLT, Bool.false_eq_true, if_false]

theorem deliver32_untrapped {t : Team} (hflags : t.fpctl &&& 0x1F = 0) (hcheck : t.sbthr.getLsbD 31 = false) (d : Reg) (r : Res) :
    t.deliver32 d r = fp32Spec d r := by
  simp only [Team.deliver32, Team.deliver, flagCause_disabled hflags, hcheck, Bool.and_false, Bool.false_and, Bool.false_eq_true,
    if_false, fp32Spec]

theorem sfu_untrapped {s : State} {i : Instr} {g : Guard} (h : Issues s i g) (hu : Untrapped s) (o : OpsDA) (ftz : Bool)
    (fn : SfuFn) : s.sfu i g o ftz fn = s.taggedRun i g fun t l => fp32Spec o.d (sfuRes fn ftz (t.fa ftz o.a l)) :=
  taggedRun_congr h fun n _ => deliver32_untrapped (hu n).1 (hu n).2 ..

/-! ### The participants of a group (R155 to R158) -/

section
variable (t : Team) (g : Guard) (l : Nat)

theorem participants_eq : participants t g l = (groupLanes t l).filter (takesPart t g) := rfl

theorem mem_participants {k : Nat} (hk : k < t.d.groupw) :
    groupBase t l + k ∈ participants t g l ↔ takesPart t g (groupBase t l + k) = true := by
  rw [participants_eq, List.mem_filter, and_iff_right]
  exact List.mem_map.2 ⟨k, List.mem_range.2 hk, rfl⟩

/-- The word of a ballot is the sum of its participants' bits. -/
theorem ballot_sum (q : Nat → Bool) :
    ((List.range t.d.groupw).foldl (fun x k =>
        if takesPart t g (groupBase t l + k) && q (groupBase t l + k) then x + 2 ^ k else x) 0)
      = (((participants t g l).filter q).map fun k => 2 ^ (k - groupBase t l)).sum := by
  rw [participants_eq, groupLanes, List.filter_filter, List.filter_map, List.map_map, List.sum_eq_foldl, List.foldl_map,
    List.foldl_filter]
  simp [Bool.and_comm]

/-- The result of a reduction, its participants given by any condition that says the same. -/
theorem gredLane_eq (o : OpsDA) (op : GredOp) (rm : RM) (keep : Nat → Bool) (p : Nat → Prop) [DecidablePred p]
    (hp : ∀ k < t.d.groupw, p k ↔ takesPart t g (groupBase t l + k) = true ∧ keep k = true) :
    gredLane g o op rm keep t l =
      let r := gredTree op rm ((List.range t.d.groupw).map fun k =>
        if p k then some (gredOperand op (t.rv o.a.toNat (groupBase t l + k))) else none)
      ⟨[(o.d.toNat, r.1)], [], r.2, none⟩ := by
  have hxs : ((List.range t.d.groupw).map fun k =>
      if takesPart t g (groupBase t l + k) && keep k then some (gredOperand op (t.rv o.a.toNat (groupBase t l + k))) else none)
      = (List.range t.d.groupw).map fun k =>
        if p k then some (gredOperand op (t.rv o.a.toNat (groupBase t l + k))) else none :=
    List.map_congr_left fun k hk => by simp only [hp k (List.mem_range.1 hk), Bool.and_eq_true]
  simp only [gredLane, hxs]

end

/-! ### Every special function and cross-lane instruction is a tagged instruction with its table's results -/

theorem shflPos_eq (m : ShflMode) (w k b : Nat) : shflPos m w k b = shflSpec m w k b := by cases m <;> rfl

/-- An instruction that runs tagged does so with any lane function that gives the same results. -/
theorem exec_of_lanes {s : State} {i : Instr} {g : Guard} {f f' : Team → Nat → LaneRes}
    (he : exec i s = .next (s.taggedRun i g f)) (hf : ∀ t l, f t l = f' t l) : exec i s = .next (s.taggedRun i g f') := by
  rw [he, funext fun t => funext (hf t)]

/-- A cross-lane instruction, and a special function where no trap is enabled, runs its table's lane function behind its tag. -/
theorem exec_tagged {s : State} {i : Instr} {g : Guard} {tag : Tag} {f : Team → Nat → LaneRes}
    (hf : taggedSpec i = some (g, tag, f)) (h : Issues s i g) (hu : sfuForm i = true → Untrapped s) :
    exec i s = .next (s.taggedRun i g f) := by
  unfold taggedSpec at hf
  split at hf <;> cases hf
  -- SHFL
  case h_8 =>
    refine exec_of_lanes rfl fun t l => ?_
    rw [shflLane, shflPos_eq]
    rfl
  -- VOTE.ALL and EQ, ANY, and BALLOT
  case h_9 | h_11 => exact exec_of_lanes rfl fun t l => by rw [participants_eq, List.all_filter]
  case h_10 => exact exec_of_lanes rfl fun t l => by rw [participants_eq, List.any_filter]
  case h_12 =>
    refine exec_of_lanes rfl fun t l => ?_
    simp only [ballot_sum]
    rfl
  -- GRED and GSCAN
  case h_13 =>
    exact exec_of_lanes rfl fun t l => gredLane_eq t g l _ _ _ _ _ fun k hk =>
      (mem_participants t g l hk).trans (and_iff_left rfl).symm
  case h_14 excl _ =>
    refine exec_of_lanes rfl fun t l => gredLane_eq t g l _ _ _ _ _ fun k hk => and_congr (mem_participants t g l hk) ?_
    have hbase : l / t.d.groupw * t.d.groupw ≤ l := Nat.div_mul_le_self ..
    rw [groupBase]
    cases excl <;> simp only [Bool.false_eq_true, if_false, if_true, decide_eq_true_eq] <;> omega
  -- the special functions
  all_goals exact congrArg Host.Outcome.next (sfu_untrapped h (hu rfl) ..)

/-! ### The statement -/

/-- Settles O18: the model's lane functions give the table's results, no lane takes a trap, and so a tagged run completes with the
results behind the tag. -/
theorem taggedLaneResults : Obligations.TaggedLaneResults := by
  unfold Obligations.TaggedLaneResults
  exact fun s i g tag f hf h hu => ⟨_, exec_tagged hf h hu, taggedRun_completes h (taggedSpec_tagOf hf) (taggedSpec_plain hf)⟩

end Sys2Proof.Machine
end
